-- ==== Sys2Proof/Word.lean ====
section
/-! DEFINITION. The word types of the machine and the plainest arithmetic on them. -/

namespace Sys2Proof

/-- A byte of memory. -/
abbrev Byte := BitVec 8
/-- The contents of a general register (01 R5). -/
abbrev W64 := BitVec 64
/-- The contents of a vector register: 256 bytes (01 R5). Byte lane j is bits [8j+7:8j]. -/
abbrev VReg := BitVec 2048
/-- A lane predicate: bit j for byte lane j (01 R5). -/
abbrev Pred := BitVec 256
/-- An accumulator bank: 2 KiB (06 R135). Byte j is bits [8j+7:8j]. -/
abbrev Bank := BitVec 16384
/-- A 6-bit operand code (02 R32). -/
abbrev Code := BitVec 6

/-- The floating-point formats of 03 R57. -/
inductive FFmt where
  | e2m1 | e4m3 | e5m2 | f16 | bf16 | f32 | f64
  deriving DecidableEq, Repr, Inhabited

/-- A dyadic number (-1)^neg * man * 2^exp; a zero keeps its sign. -/
structure Dy where
  neg : Bool := false
  man : Nat := 0
  exp : Int := 0
  deriving DecidableEq, Repr, Inhabited

/-- The value of a floating-point encoding (03 R57, R58): a NaN, signalling or quiet, an infinity, or a dyadic. -/
inductive Fv where
  | nan (signalling : Bool)
  | inf (neg : Bool)
  | fin (d : Dy)
  deriving DecidableEq, Repr, Inhabited

end Sys2Proof
end

