-- ==== Sys2Proof/Syntax.lean ====
section
/-! DEFINITION. The syntax of the machine: one constructor of `Instr` for each row of spec/opcode_table.json.
Slots (02_slot_format_and_assembly.md, R30 to R47) carry their stop bit and their fields; events (the rows without an
encoding) carry who acts and what the outside party supplies. -/
namespace Sys2Proof

/-- Element types of the vector unit, by the codes of R40. -/
inductive VTy where
  | i8 | i16 | i32 | i64 | f16 | bf16 | f32 | f64
  deriving DecidableEq, Repr, Inhabited

/-- The code of a `VTy` in its field. -/
def VTy.code : VTy → Nat
  | .i8 => 0
  | .i16 => 1
  | .i32 => 2
  | .i64 => 3
  | .f16 => 4
  | .bf16 => 5
  | .f32 => 6
  | .f64 => 7

/-- The `VTy` of a code; codes past the last are read as the last (the decoder refuses them before). -/
def VTy.ofCode : Nat → VTy
  | 0 => .i8
  | 1 => .i16
  | 2 => .i32
  | 3 => .i64
  | 4 => .f16
  | 5 => .bf16
  | 6 => .f32
  | _ => .f64

/-- Integer element types, and element and store widths of 8, 16, 32 and 64 bits. -/
inductive ITy where
  | i8 | i16 | i32 | i64
  deriving DecidableEq, Repr, Inhabited

/-- The code of a `ITy` in its field. -/
def ITy.code : ITy → Nat
  | .i8 => 0
  | .i16 => 1
  | .i32 => 2
  | .i64 => 3

/-- The `ITy` of a code; codes past the last are read as the last (the decoder refuses them before). -/
def ITy.ofCode : Nat → ITy
  | 0 => .i8
  | 1 => .i16
  | 2 => .i32
  | _ => .i64

/-- Floating-point element types. -/
inductive FTy where
  | f16 | bf16 | f32 | f64
  deriving DecidableEq, Repr, Inhabited

/-- The code of a `FTy` in its field. -/
def FTy.code : FTy → Nat
  | .f16 => 0
  | .bf16 => 1
  | .f32 => 2
  | .f64 => 3

/-- The `FTy` of a code; codes past the last are read as the last (the decoder refuses them before). -/
def FTy.ofCode : Nat → FTy
  | 0 => .f16
  | 1 => .bf16
  | 2 => .f32
  | _ => .f64

/-- Scalar width codes of R44. -/
inductive Width where
  | n8 | i8 | n16 | i16 | n32 | i32 | w64
  deriving DecidableEq, Repr, Inhabited

/-- The code of a `Width` in its field. -/
def Width.code : Width → Nat
  | .n8 => 0
  | .i8 => 1
  | .n16 => 2
  | .i16 => 3
  | .n32 => 4
  | .i32 => 5
  | .w64 => 6

/-- The `Width` of a code; codes past the last are read as the last (the decoder refuses them before). -/
def Width.ofCode : Nat → Width
  | 0 => .n8
  | 1 => .i8
  | 2 => .n16
  | 3 => .i16
  | 4 => .n32
  | 5 => .i32
  | _ => .w64

/-- Conditions of `cmp` (R83). -/
inductive Cond where
  | eq | ne | lt | le | gt | ge | ltn | len | gtn | gen | tst
  deriving DecidableEq, Repr, Inhabited

/-- The code of a `Cond` in its field. -/
def Cond.code : Cond → Nat
  | .eq => 0
  | .ne => 1
  | .lt => 2
  | .le => 3
  | .gt => 4
  | .ge => 5
  | .ltn => 6
  | .len => 7
  | .gtn => 8
  | .gen => 9
  | .tst => 10

/-- The `Cond` of a code; codes past the last are read as the last (the decoder refuses them before). -/
def Cond.ofCode : Nat → Cond
  | 0 => .eq
  | 1 => .ne
  | 2 => .lt
  | 3 => .le
  | 4 => .gt
  | 5 => .ge
  | 6 => .ltn
  | 7 => .len
  | 8 => .gtn
  | 9 => .gen
  | _ => .tst

/-- Combine modifiers of `cmp` (R83). -/
inductive Combine where
  | set | conj | disj
  deriving DecidableEq, Repr, Inhabited

/-- The code of a `Combine` in its field. -/
def Combine.code : Combine → Nat
  | .set => 0
  | .conj => 1
  | .disj => 2

/-- The `Combine` of a code; codes past the last are read as the last (the decoder refuses them before). -/
def Combine.ofCode : Nat → Combine
  | 0 => .set
  | 1 => .conj
  | _ => .disj

/-- Conditions of `cmpi` (R84). -/
inductive ImmCond where
  | eq | ne | lt | le | gt | ge | ltn | gen
  deriving DecidableEq, Repr, Inhabited

/-- The code of a `ImmCond` in its field. -/
def ImmCond.code : ImmCond → Nat
  | .eq => 0
  | .ne => 1
  | .lt => 2
  | .le => 3
  | .gt => 4
  | .ge => 5
  | .ltn => 6
  | .gen => 7

/-- The `ImmCond` of a code; codes past the last are read as the last (the decoder refuses them before). -/
def ImmCond.ofCode : Nat → ImmCond
  | 0 => .eq
  | 1 => .ne
  | 2 => .lt
  | 3 => .le
  | 4 => .gt
  | 5 => .ge
  | 6 => .ltn
  | _ => .gen

/-- Conditions of `vcmp` (R40). -/
inductive VCond where
  | eq | ne | lt | le
  deriving DecidableEq, Repr, Inhabited

/-- The code of a `VCond` in its field. -/
def VCond.code : VCond → Nat
  | .eq => 0
  | .ne => 1
  | .lt => 2
  | .le => 3

/-- The `VCond` of a code; codes past the last are read as the last (the decoder refuses them before). -/
def VCond.ofCode : Nat → VCond
  | 0 => .eq
  | 1 => .ne
  | 2 => .lt
  | _ => .le

/-- Modes of `go` (R39). -/
inductive GoMode where
  | always | ifSet | ifClear
  deriving DecidableEq, Repr, Inhabited

/-- The code of a `GoMode` in its field. -/
def GoMode.code : GoMode → Nat
  | .always => 0
  | .ifSet => 1
  | .ifClear => 2

/-- The `GoMode` of a code; codes past the last are read as the last (the decoder refuses them before). -/
def GoMode.ofCode : Nat → GoMode
  | 0 => .always
  | 1 => .ifSet
  | _ => .ifClear

/-- Rounding codes of `vcvt` (R41, R113). -/
inductive Rounding where
  | rn | rz | ru | rd | ro | rnSat | rzSat
  deriving DecidableEq, Repr, Inhabited

/-- The code of a `Rounding` in its field. -/
def Rounding.code : Rounding → Nat
  | .rn => 0
  | .rz => 1
  | .ru => 2
  | .rd => 3
  | .ro => 4
  | .rnSat => 5
  | .rzSat => 6

/-- The `Rounding` of a code; codes past the last are read as the last (the decoder refuses them before). -/
def Rounding.ofCode : Nat → Rounding
  | 0 => .rn
  | 1 => .rz
  | 2 => .ru
  | 3 => .rd
  | 4 => .ro
  | 5 => .rnSat
  | _ => .rzSat

/-- Non-standard formats of `vcvt` (R42). -/
inductive NarrowFmt where
  | e4m3 | e4m3Sat | e5m2 | e5m2Sat | e2m1 | e2m1Sat | e8m0 | ternary | n8 | n16 | n32 | n64 | n8Sat | n16Sat | n32Sat | n64Sat
  deriving DecidableEq, Repr, Inhabited

/-- The code of a `NarrowFmt` in its field. -/
def NarrowFmt.code : NarrowFmt → Nat
  | .e4m3 => 0
  | .e4m3Sat => 1
  | .e5m2 => 2
  | .e5m2Sat => 3
  | .e2m1 => 4
  | .e2m1Sat => 5
  | .e8m0 => 6
  | .ternary => 7
  | .n8 => 8
  | .n16 => 9
  | .n32 => 10
  | .n64 => 11
  | .n8Sat => 12
  | .n16Sat => 13
  | .n32Sat => 14
  | .n64Sat => 15

/-- The `NarrowFmt` of a code; codes past the last are read as the last (the decoder refuses them before). -/
def NarrowFmt.ofCode : Nat → NarrowFmt
  | 0 => .e4m3
  | 1 => .e4m3Sat
  | 2 => .e5m2
  | 3 => .e5m2Sat
  | 4 => .e2m1
  | 5 => .e2m1Sat
  | 6 => .e8m0
  | 7 => .ternary
  | 8 => .n8
  | 9 => .n16
  | 10 => .n32
  | 11 => .n64
  | 12 => .n8Sat
  | 13 => .n16Sat
  | 14 => .n32Sat
  | _ => .n64Sat

/-- Operations of `atom` (R44). -/
inductive AtomOp where
  | add | addf | min | max | conj | disj | xor | xchg | cas
  deriving DecidableEq, Repr, Inhabited

/-- The code of a `AtomOp` in its field. -/
def AtomOp.code : AtomOp → Nat
  | .add => 0
  | .addf => 1
  | .min => 2
  | .max => 3
  | .conj => 4
  | .disj => 5
  | .xor => 6
  | .xchg => 7
  | .cas => 8

/-- The `AtomOp` of a code; codes past the last are read as the last (the decoder refuses them before). -/
def AtomOp.ofCode : Nat → AtomOp
  | 0 => .add
  | 1 => .addf
  | 2 => .min
  | 3 => .max
  | 4 => .conj
  | 5 => .disj
  | 6 => .xor
  | 7 => .xchg
  | _ => .cas

/-- Operations of `vatom` (R44). -/
inductive VAtomOp where
  | add | addf | min | max | conj | disj | xor | xchg
  deriving DecidableEq, Repr, Inhabited

/-- The code of a `VAtomOp` in its field. -/
def VAtomOp.code : VAtomOp → Nat
  | .add => 0
  | .addf => 1
  | .min => 2
  | .max => 3
  | .conj => 4
  | .disj => 5
  | .xor => 6
  | .xchg => 7

/-- The `VAtomOp` of a code; codes past the last are read as the last (the decoder refuses them before). -/
def VAtomOp.ofCode : Nat → VAtomOp
  | 0 => .add
  | 1 => .addf
  | 2 => .min
  | 3 => .max
  | 4 => .conj
  | 5 => .disj
  | 6 => .xor
  | _ => .xchg

/-- Scope codes (R46). -/
inductive Scope where
  | core | cluster | device | system
  deriving DecidableEq, Repr, Inhabited

/-- The code of a `Scope` in its field. -/
def Scope.code : Scope → Nat
  | .core => 0
  | .cluster => 1
  | .device => 2
  | .system => 3

/-- The `Scope` of a code; codes past the last are read as the last (the decoder refuses them before). -/
def Scope.ofCode : Nat → Scope
  | 0 => .core
  | 1 => .cluster
  | 2 => .device
  | _ => .system

/-- Kinds of `fence` (R277). -/
inductive FenceKind where
  | full | acquire | release
  deriving DecidableEq, Repr, Inhabited

/-- The code of a `FenceKind` in its field. -/
def FenceKind.code : FenceKind → Nat
  | .full => 0
  | .acquire => 1
  | .release => 2

/-- The `FenceKind` of a code; codes past the last are read as the last (the decoder refuses them before). -/
def FenceKind.ofCode : Nat → FenceKind
  | 0 => .full
  | 1 => .acquire
  | _ => .release

/-- Formats of `mma` (R45). -/
inductive MmaFmt where
  | e4m3 | e5m2 | i8 | n8 | f16 | bf16 | f32 | f64
  deriving DecidableEq, Repr, Inhabited

/-- The code of a `MmaFmt` in its field. -/
def MmaFmt.code : MmaFmt → Nat
  | .e4m3 => 0
  | .e5m2 => 1
  | .i8 => 2
  | .n8 => 3
  | .f16 => 4
  | .bf16 => 5
  | .f32 => 6
  | .f64 => 7

/-- The `MmaFmt` of a code; codes past the last are read as the last (the decoder refuses them before). -/
def MmaFmt.ofCode : Nat → MmaFmt
  | 0 => .e4m3
  | 1 => .e5m2
  | 2 => .i8
  | 3 => .n8
  | 4 => .f16
  | 5 => .bf16
  | 6 => .f32
  | _ => .f64

/-- Formats of `mma.sp` (R45). -/
inductive SpFmt where
  | e4m3 | e5m2 | i8
  deriving DecidableEq, Repr, Inhabited

/-- The code of a `SpFmt` in its field. -/
def SpFmt.code : SpFmt → Nat
  | .e4m3 => 0
  | .e5m2 => 1
  | .i8 => 2

/-- The `SpFmt` of a code; codes past the last are read as the last (the decoder refuses them before). -/
def SpFmt.ofCode : Nat → SpFmt
  | 0 => .e4m3
  | 1 => .e5m2
  | _ => .i8

/-- Formats of `mma.x` (R45). -/
inductive XFmt where
  | e4m3 | e5m2 | e2m1 | i8
  deriving DecidableEq, Repr, Inhabited

/-- The code of a `XFmt` in its field. -/
def XFmt.code : XFmt → Nat
  | .e4m3 => 0
  | .e5m2 => 1
  | .e2m1 => 2
  | .i8 => 3

/-- The `XFmt` of a code; codes past the last are read as the last (the decoder refuses them before). -/
def XFmt.ofCode : Nat → XFmt
  | 0 => .e4m3
  | 1 => .e5m2
  | 2 => .e2m1
  | _ => .i8

/-- Formats of `wb` (R154). -/
inductive WbFmt where
  | e4m3 | e5m2 | i8 | i32 | f16 | bf16 | f32 | f64
  deriving DecidableEq, Repr, Inhabited

/-- The code of a `WbFmt` in its field. -/
def WbFmt.code : WbFmt → Nat
  | .e4m3 => 0
  | .e5m2 => 1
  | .i8 => 2
  | .i32 => 3
  | .f16 => 4
  | .bf16 => 5
  | .f32 => 6
  | .f64 => 7

/-- The `WbFmt` of a code; codes past the last are read as the last (the decoder refuses them before). -/
def WbFmt.ofCode : Nat → WbFmt
  | 0 => .e4m3
  | 1 => .e5m2
  | 2 => .i8
  | 3 => .i32
  | 4 => .f16
  | 5 => .bf16
  | 6 => .f32
  | _ => .f64

/-- Modes of `xlt.hint` (R374). -/
inductive Tier where
  | automatic | tier0 | tier1
  deriving DecidableEq, Repr, Inhabited

/-- The code of a `Tier` in its field. -/
def Tier.code : Tier → Nat
  | .automatic => 0
  | .tier0 => 1
  | .tier1 => 2

/-- The `Tier` of a code; codes past the last are read as the last (the decoder refuses them before). -/
def Tier.ofCode : Nat → Tier
  | 0 => .automatic
  | 1 => .tier0
  | _ => .tier1

/-- Pruning of `wb` (R155). -/
inductive PruneKind where
  | p2m4 | p1m4 | p4m8
  deriving DecidableEq, Repr, Inhabited

/-- The code of a `PruneKind` in its field. -/
def PruneKind.code : PruneKind → Nat
  | .p2m4 => 0
  | .p1m4 => 1
  | .p4m8 => 2

/-- The `PruneKind` of a code; codes past the last are read as the last (the decoder refuses them before). -/
def PruneKind.ofCode : Nat → PruneKind
  | 0 => .p2m4
  | 1 => .p1m4
  | _ => .p4m8

/-- Formats of `vcvt` that carry `.sat` (R42): 1, 3, 5 and 12 to 15. -/
def satFmt (n : Nat) : Bool := n == 1 || n == 3 || n == 5 || (12 ≤ n && n ≤ 15)

/-- Who performs an access to a control register: the host through BAR0 (R403), or the task in a context slot. -/
inductive Party where
  | host
  | task (core slot : Nat)
  deriving DecidableEq, Repr, Inhabited

/-- The register files of R5. -/
inductive RegFile where
  | g | v | k | c | t | a | n | z | f | q | y
  deriving DecidableEq, Repr, Inhabited

/-- A flit of a device link (R395), as the far side sent it; `crcOk` says whether its CRC holds. -/
structure Flit where
  crcOk   : Bool
  src     : BitVec 8
  dst     : BitVec 8
  flow    : Nat
  seq     : BitVec 16
  kind    : Nat
  payload : BitVec 1920
  deriving DecidableEq, Repr, Inhabited

/-- What a cold reset finds (R410): the step that fails for a reason that the spec leaves to the part (0 for none), the firmware
image on flash with its signature, the digest of the firmware's configuration (R412), and the microcode package that the
firmware carries (empty for none). -/
structure BootInput where
  failStep : Nat
  image    : List (BitVec 8)
  sig      : List (BitVec 8)
  config   : BitVec 512
  package  : List (BitVec 8)
  deriving DecidableEq, Repr, Inhabited

/-- What a bit error strikes (R414): memory by physical address, a register, a column of the history store, the translation
cache or the microcode store of a core, or a unit of R415 by code and number. -/
inductive ErrTarget where
  | mem (pa : Nat)
  | reg (core slot : Nat) (file : RegFile) (num : Nat)
  | hist (core col : Nat)
  | xlat (core : Nat)
  | ucode (core : Nat)
  | unit (code num : Nat)
  deriving DecidableEq, Repr, Inhabited

/-- One constructor for each row of the opcode table. `s` is the stop bit of R30. -/
inductive Instr where
  /-- `add` (R77): Sets dst to a + b modulo 2^64. -/
  | add (s : Bool) (d : Code) (a : Code) (b : Code)
  /-- `sub` (R77): Sets dst to a - b modulo 2^64. -/
  | sub (s : Bool) (d : Code) (a : Code) (b : Code)
  /-- `mul` (R77): Sets dst to the low 64 bits of a times b. -/
  | mul (s : Bool) (d : Code) (a : Code) (b : Code)
  /-- `mulh` (R77): Sets dst to the high 64 bits of the signed product. -/
  | mulh (s : Bool) (d : Code) (a : Code) (b : Code)
  /-- `mulhn` (R77): Sets dst to the high 64 bits of the unsigned product. -/
  | mulhn (s : Bool) (d : Code) (a : Code) (b : Code)
  /-- `mad` (R77): Sets dst to d + a times b modulo 2^64. -/
  | mad (s : Bool) (d : Code) (a : Code) (b : Code)
  /-- `div` (R78): Signed division toward zero that never traps. -/
  | div (s : Bool) (d : Code) (a : Code) (b : Code)
  /-- `divn` (R78): Unsigned division that never traps. -/
  | divn (s : Bool) (d : Code) (a : Code) (b : Code)
  /-- `rem` (R78): Signed remainder that takes the sign of a. -/
  | rem (s : Bool) (d : Code) (a : Code) (b : Code)
  /-- `remn` (R78): Unsigned remainder. -/
  | remn (s : Bool) (d : Code) (a : Code) (b : Code)
  /-- `and` (R77): Sets dst to the bitwise AND of a and b. -/
  | and (s : Bool) (d : Code) (a : Code) (b : Code)
  /-- `or` (R77): Sets dst to the bitwise OR of a and b. -/
  | or (s : Bool) (d : Code) (a : Code) (b : Code)
  /-- `xor` (R77): Sets dst to the bitwise XOR of a and b. -/
  | xor (s : Bool) (d : Code) (a : Code) (b : Code)
  /-- `andn` (R77): Sets dst to a AND NOT b. -/
  | andn (s : Bool) (d : Code) (a : Code) (b : Code)
  /-- `shl` (R77): Shifts a left by b[5:0]. -/
  | shl (s : Bool) (d : Code) (a : Code) (b : Code)
  /-- `shr` (R77): Shifts a logically right by b[5:0]. -/
  | shr (s : Bool) (d : Code) (a : Code) (b : Code)
  /-- `sha` (R77): Shifts a arithmetically right by b[5:0]. -/
  | sha (s : Bool) (d : Code) (a : Code) (b : Code)
  /-- `rot` (R77): Rotates a right by b[5:0]. -/
  | rot (s : Bool) (d : Code) (a : Code) (b : Code)
  /-- `clz` (R77): Counts the leading zero bits of a. -/
  | clz (s : Bool) (d : Code) (a : Code)
  /-- `ctz` (R77): Counts the trailing zero bits of a. -/
  | ctz (s : Bool) (d : Code) (a : Code)
  /-- `popc` (R77): Counts the one bits of a. -/
  | popc (s : Bool) (d : Code) (a : Code)
  /-- `min` (R77): Signed minimum of a and b. -/
  | min (s : Bool) (d : Code) (a : Code) (b : Code)
  /-- `max` (R77): Signed maximum of a and b. -/
  | max (s : Bool) (d : Code) (a : Code) (b : Code)
  /-- `minn` (R77): Unsigned minimum of a and b. -/
  | minn (s : Bool) (d : Code) (a : Code) (b : Code)
  /-- `maxn` (R77): Unsigned maximum of a and b. -/
  | maxn (s : Bool) (d : Code) (a : Code) (b : Code)
  /-- `mov` (R77): Copies a to dst. -/
  | mov (s : Bool) (d : Code) (a : Code)
  /-- `lea` (R77): Sets dst to a + b times 1 or 2, with no memory access. -/
  | leaRrScale12 (s : Bool) (d : Code) (a : Code) (b : Code) (x : Bool)
  /-- `lea` (R77): Sets dst to a + b times 4 or 8, with no memory access. -/
  | leaRrScale48 (s : Bool) (d : Code) (a : Code) (b : Code) (x : Bool)
  /-- `cmp` (R83): Evaluates a condition on a and b and sets, ANDs or ORs it into a c register. -/
  | cmp (s : Bool) (d : Code) (a : Code) (b : Code) (m : Combine) (c : Cond)
  /-- `sel` (R85): Selects a or b by a condition register, optionally negated. -/
  | sel (s : Bool) (d : Code) (a : Code) (b : Code) (n : Bool) (c : BitVec 3)
  /-- `ext` (R79): Extracts a sign-extended bit field. -/
  | ext (s : Bool) (d : Code) (a : Code) (p : BitVec 6) (l : BitVec 6)
  /-- `extn` (R79): Extracts a zero-extended bit field. -/
  | extn (s : Bool) (d : Code) (a : Code) (p : BitVec 6) (l : BitVec 6)
  /-- `ins` (R79): Inserts the low bits of a into a field of d. -/
  | ins (s : Bool) (d : Code) (a : Code) (p : BitVec 6) (l : BitVec 6)
  /-- `wid` (R82): Reads a field, or the whole, of the task's work identifier. -/
  | wid (s : Bool) (d : Code) (k : BitVec 12)
  /-- `lea` (R80): Sets dst to a plus a signed immediate, with no memory access. -/
  | leaRi (s : Bool) (d : Code) (a : Code) (i : BitVec 12)
  /-- `addi` (R80): Adds a sign-extended immediate. -/
  | addi (s : Bool) (d : Code) (a : Code) (i : BitVec 12)
  /-- `andi` (R80): ANDs a sign-extended immediate. -/
  | andi (s : Bool) (d : Code) (a : Code) (i : BitVec 12)
  /-- `ori` (R80): ORs a sign-extended immediate. -/
  | ori (s : Bool) (d : Code) (a : Code) (i : BitVec 12)
  /-- `xori` (R80): XORs a sign-extended immediate. -/
  | xori (s : Bool) (d : Code) (a : Code) (i : BitVec 12)
  /-- `cmpi` (R84): Compares a with a sign-extended immediate into a c register. -/
  | cmpi (s : Bool) (k : ImmCond) (c : BitVec 3) (a : Code) (i : BitVec 12)
  /-- `shli` (R80): Shifts left by an immediate amount. -/
  | shli (s : Bool) (d : Code) (a : Code) (n : BitVec 6)
  /-- `shri` (R80): Shifts logically right by an immediate amount. -/
  | shri (s : Bool) (d : Code) (a : Code) (n : BitVec 6)
  /-- `shai` (R80): Shifts arithmetically right by an immediate amount. -/
  | shai (s : Bool) (d : Code) (a : Code) (n : BitVec 6)
  /-- `li` (R81): Loads a sign-extended 18-bit immediate. -/
  | li (s : Bool) (d : Code) (i : BitVec 18)
  /-- `lih` (R81): Shifts d left by 18 and ORs in an 18-bit immediate. -/
  | lih (s : Bool) (d : Code) (i : BitVec 18)
  /-- `brp` (R94): Prepares a target entry at a slot displacement. -/
  | brpLabel (s : Bool) (t : BitVec 3) (i : BitVec 18)
  /-- `brp` (R94): Prepares a target entry from a g register. -/
  | brpReg (s : Bool) (t : BitVec 3) (g : Code)
  /-- `go` (R95): Transfers control to a target entry, always or on a condition. -/
  | go (s : Bool) (t : BitVec 3) (c : BitVec 3) (m : GoMode)
  /-- `call` (R95): Transfers to a target entry and writes the return address. -/
  | call (s : Bool) (t : BitVec 3) (g : Code)
  /-- `ret` (R95): Transfers to the address held in a g register. -/
  | ret (s : Bool) (g : Code)
  /-- `lp` (R98): Opens a zero-overhead loop over the following bundles. -/
  | lp (s : Bool) (g : Code) (n : BitVec 12)
  /-- `exit` (R101): Ends the tile task after its bundle commits. -/
  | exit (s : Bool)
  /-- `nop` (R102): Has no effect. -/
  | nop (s : Bool)
  /-- `brk` (R103): Raises breakpoint after its bundle commits. -/
  | brk (s : Bool) (k : BitVec 18)
  /-- `vadd` (R107): Element-wise add under a predicate. -/
  | vadd (s : Bool) (d : Code) (a : Code) (b : Code) (t : VTy) (p : BitVec 3)
  /-- `vsub` (R107): Element-wise subtract under a predicate. -/
  | vsub (s : Bool) (d : Code) (a : Code) (b : Code) (t : VTy) (p : BitVec 3)
  /-- `vmul` (R107): Element-wise multiply under a predicate. -/
  | vmul (s : Bool) (d : Code) (a : Code) (b : Code) (t : VTy) (p : BitVec 3)
  /-- `vadd.ftz` (R107): Floating-point add that flushes tiny results to zero. -/
  | vaddFtz (s : Bool) (d : Code) (a : Code) (b : Code) (t : FTy) (p : BitVec 3)
  /-- `vadd.sat` (R107): Saturating integer add. -/
  | vaddSat (s : Bool) (d : Code) (a : Code) (b : Code) (t : ITy) (p : BitVec 3)
  /-- `vsub.ftz` (R107): Floating-point subtract that flushes tiny results to zero. -/
  | vsubFtz (s : Bool) (d : Code) (a : Code) (b : Code) (t : FTy) (p : BitVec 3)
  /-- `vsub.sat` (R107): Saturating integer subtract. -/
  | vsubSat (s : Bool) (d : Code) (a : Code) (b : Code) (t : ITy) (p : BitVec 3)
  /-- `vmul.ftz` (R107): Floating-point multiply that flushes tiny results to zero. -/
  | vmulFtz (s : Bool) (d : Code) (a : Code) (b : Code) (t : FTy) (p : BitVec 3)
  /-- `vmul.sat` (R107): Saturating integer multiply. -/
  | vmulSat (s : Bool) (d : Code) (a : Code) (b : Code) (t : ITy) (p : BitVec 3)
  /-- `vfma` (R108): Fused d + a times b, with one rounding. -/
  | vfma (s : Bool) (d : Code) (a : Code) (b : Code) (t : FTy) (p : BitVec 3)
  /-- `vfms` (R108): Fused a times b - d, with one rounding. -/
  | vfms (s : Bool) (d : Code) (a : Code) (b : Code) (t : FTy) (p : BitVec 3)
  /-- `vfnma` (R108): Fused d - a times b, with one rounding. -/
  | vfnma (s : Bool) (d : Code) (a : Code) (b : Code) (t : FTy) (p : BitVec 3)
  /-- `vsha` (R107): Element-wise arithmetic right shift. -/
  | vsha (s : Bool) (d : Code) (a : Code) (b : Code) (t : ITy) (p : BitVec 3)
  /-- `vmin` (R107): Element-wise minimum. -/
  | vmin (s : Bool) (d : Code) (a : Code) (b : Code) (t : VTy) (p : BitVec 3)
  /-- `vmax` (R107): Element-wise maximum. -/
  | vmax (s : Bool) (d : Code) (a : Code) (b : Code) (t : VTy) (p : BitVec 3)
  /-- `vmaxn` (R107): Element-wise unsigned maximum. -/
  | vmaxn (s : Bool) (d : Code) (a : Code) (b : Code) (t : ITy) (p : BitVec 3)
  /-- `vminn` (R107): Element-wise unsigned minimum. -/
  | vminn (s : Bool) (d : Code) (a : Code) (b : Code) (t : ITy) (p : BitVec 3)
  /-- `vshr` (R107): Element-wise logical right shift. -/
  | vshr (s : Bool) (d : Code) (a : Code) (b : Code) (t : ITy) (p : BitVec 3)
  /-- `vshl` (R107): Element-wise left shift. -/
  | vshl (s : Bool) (d : Code) (a : Code) (b : Code) (t : ITy) (p : BitVec 3)
  /-- `vcmp` (R109): Compares elements and writes a lane predicate. -/
  | vcmp (s : Bool) (c : VCond) (k : BitVec 4) (a : Code) (b : Code) (t : VTy) (p : BitVec 3)
  /-- `vcvt` (R113): Converts between two standard element types in a chosen rounding. -/
  | vcvt (s : Bool) (d : Code) (a : Code) (e : VTy) (r : Rounding) (t : VTy) (p : BitVec 3)
  /-- `vabs` (R112): Element-wise absolute value. -/
  | vabs (s : Bool) (d : Code) (a : Code) (t : VTy) (p : BitVec 3)
  /-- `vneg` (R112): Element-wise negation. -/
  | vneg (s : Bool) (d : Code) (a : Code) (t : VTy) (p : BitVec 3)
  /-- `vnot` (R112): Element-wise bit inversion. -/
  | vnot (s : Bool) (d : Code) (a : Code) (t : VTy) (p : BitVec 3)
  /-- `vmov` (R112): Element-wise copy. -/
  | vmov (s : Bool) (d : Code) (a : Code) (t : VTy) (p : BitVec 3)
  /-- `vrcp` (R73): Element-wise reciprocal, rounded once. -/
  | vrcp (s : Bool) (d : Code) (a : Code) (t : FTy) (p : BitVec 3)
  /-- `vrsqrt` (R73): Element-wise reciprocal square root, rounded once. -/
  | vrsqrt (s : Bool) (d : Code) (a : Code) (t : FTy) (p : BitVec 3)
  /-- `vsqrt` (R73): Element-wise square root, rounded once. -/
  | vsqrt (s : Bool) (d : Code) (a : Code) (t : FTy) (p : BitVec 3)
  /-- `vexp2` (R73): Element-wise 2 to the power x, rounded once. -/
  | vexp2 (s : Bool) (d : Code) (a : Code) (t : FTy) (p : BitVec 3)
  /-- `vlog2` (R73): Element-wise base-2 logarithm, rounded once. -/
  | vlog2 (s : Bool) (d : Code) (a : Code) (t : FTy) (p : BitVec 3)
  /-- `vbcast` (R112): Broadcasts the low bytes of a g register to every active element. -/
  | vbcast (s : Bool) (d : Code) (a : Code) (t : VTy) (p : BitVec 3)
  /-- `vli` (R112): Writes g(A) plus the element index to each active element. -/
  | vli (s : Bool) (d : Code) (a : Code) (t : VTy) (p : BitVec 3)
  /-- `vcompress` (R117): Packs the active elements into a counted run. -/
  | vcompress (s : Bool) (d : Code) (a : Code) (t : VTy) (p : BitVec 3)
  /-- `vexpand` (R117): Spreads a counted run over the active elements. -/
  | vexpand (s : Bool) (d : Code) (a : Code) (t : VTy) (p : BitVec 3)
  /-- `vred.add` (R115): Tree-sums the active elements into element 0. -/
  | vredAdd (s : Bool) (d : Code) (a : Code) (t : VTy) (p : BitVec 3)
  /-- `vred.min` (R115): Reduces the active elements by minimum. -/
  | vredMin (s : Bool) (d : Code) (a : Code) (t : VTy) (p : BitVec 3)
  /-- `vred.max` (R115): Reduces the active elements by maximum. -/
  | vredMax (s : Bool) (d : Code) (a : Code) (t : VTy) (p : BitVec 3)
  /-- `vred.minn` (R115): Reduces the active elements by unsigned minimum. -/
  | vredMinn (s : Bool) (d : Code) (a : Code) (t : ITy) (p : BitVec 3)
  /-- `vred.maxn` (R115): Reduces the active elements by unsigned maximum. -/
  | vredMaxn (s : Bool) (d : Code) (a : Code) (t : ITy) (p : BitVec 3)
  /-- `vred.and` (R115): Reduces the active elements by AND. -/
  | vredAnd (s : Bool) (d : Code) (a : Code) (t : ITy) (p : BitVec 3)
  /-- `vred.or` (R115): Reduces the active elements by OR. -/
  | vredOr (s : Bool) (d : Code) (a : Code) (t : ITy) (p : BitVec 3)
  /-- `vred.xor` (R115): Reduces the active elements by XOR. -/
  | vredXor (s : Bool) (d : Code) (a : Code) (t : ITy) (p : BitVec 3)
  /-- `vscan.add` (R115): Writes prefix tree sums to the active elements. -/
  | vscanAdd (s : Bool) (d : Code) (a : Code) (t : VTy) (p : BitVec 3)
  /-- `vscan.min` (R115): Writes prefix minima to the active elements. -/
  | vscanMin (s : Bool) (d : Code) (a : Code) (t : VTy) (p : BitVec 3)
  /-- `vscan.max` (R115): Writes prefix maxima to the active elements. -/
  | vscanMax (s : Bool) (d : Code) (a : Code) (t : VTy) (p : BitVec 3)
  /-- `vcvt` (R114): Converts between a standard type and a non-standard packed or narrow format. -/
  | vcvtFormat (s : Bool) (d : Code) (a : Code) (t : VTy) (p : BitVec 3) (f : NarrowFmt) (n : Bool)
  /-- `kand` (R118): ANDs two predicates bit by bit. -/
  | kand (s : Bool) (d : Code) (a : Code) (b : Code)
  /-- `kor` (R118): ORs two predicates bit by bit. -/
  | kor (s : Bool) (d : Code) (a : Code) (b : Code)
  /-- `kxor` (R118): XORs two predicates bit by bit. -/
  | kxor (s : Bool) (d : Code) (a : Code) (b : Code)
  /-- `knot` (R118): Inverts a predicate. -/
  | knot (s : Bool) (d : Code) (a : Code)
  /-- `kpop` (R118): Counts the set bits of a predicate into a g register. -/
  | kpop (s : Bool) (d : Code) (a : Code)
  /-- `vtoc` (R119): Turns a uniform predicate into a condition, trapping when active bits disagree. -/
  | vtoc (s : Bool) (d : Code) (a : Code) (b : Code)
  /-- `vany` (R119): Sets a condition to the OR of the active predicate bits. -/
  | vany (s : Bool) (d : Code) (a : Code) (b : Code)
  /-- `vall` (R119): Sets a condition to the AND of the active predicate bits. -/
  | vall (s : Bool) (d : Code) (a : Code) (b : Code)
  /-- `vext` (R116): Extracts one element into a g register. -/
  | vext (s : Bool) (d : Code) (a : Code) (b : Code) (w : ITy)
  /-- `vins` (R116): Inserts a g value into one element. -/
  | vins (s : Bool) (d : Code) (a : Code) (b : Code) (w : ITy)
  /-- `vperm` (R116): Permutes elements by an index vector. -/
  | vperm (s : Bool) (d : Code) (a : Code) (b : Code) (w : ITy)
  /-- `vclamp` (R110): Clamps integer elements between two bound vectors. -/
  | vclampInt (s : Bool) (d : Code) (a : Code) (b : Code) (t : ITy)
  /-- `vclamp` (R110): Clamps floating-point elements between two bound vectors. -/
  | vclampFp (s : Bool) (d : Code) (a : Code) (b : Code) (t : FTy)
  /-- `vand` (R111): Bitwise AND of two vectors. -/
  | vand (s : Bool) (d : Code) (a : Code) (b : Code)
  /-- `vor` (R111): Bitwise OR of two vectors. -/
  | vor (s : Bool) (d : Code) (a : Code) (b : Code)
  /-- `vxor` (R111): Bitwise XOR of two vectors. -/
  | vxor (s : Bool) (d : Code) (a : Code) (b : Code)
  /-- `vsel` (R110): Selects elements of two vectors by a predicate k8-k15. -/
  | vsel (s : Bool) (d : Code) (a : Code) (b : Code) (w : ITy) (k : BitVec 3)
  /-- `ld` (R88): Loads a scalar from a scaled register address. -/
  | ldRr (s : Bool) (d : Code) (a : Code) (b : Code) (w : Width) (x : BitVec 2)
  /-- `ld.a` (R91): Loads a scalar and enters a hoisted-load table entry. -/
  | ldA (s : Bool) (d : Code) (a : Code) (b : Code) (w : Width) (x : BitVec 2)
  /-- `ld` (R88): Loads 64 bits from a register plus offset. -/
  | ldRi (s : Bool) (d : Code) (a : Code) (i : BitVec 12)
  /-- `st` (R89): Stores a scalar to a scaled register address. -/
  | stRr (s : Bool) (d : Code) (a : Code) (b : Code) (w : ITy) (x : BitVec 2)
  /-- `st` (R89): Stores 64 bits to a register plus offset. -/
  | stRi (s : Bool) (d : Code) (a : Code) (i : BitVec 12)
  /-- `chk.a` (R93): Checks a hoisted load and reloads on a miss. -/
  | chkA (s : Bool) (d : Code) (a : Code) (b : Code) (w : Width) (x : BitVec 2)
  /-- `ydesc` (R163): Loads and validates a 64-byte symmetry descriptor into a y register. -/
  | ydesc (s : Bool) (d : Code) (a : Code) (i : BitVec 12)
  /-- `vld` (R121): Loads 256 bytes under a predicate from a scaled address. -/
  | vldRr (s : Bool) (d : Code) (a : Code) (b : Code) (x : BitVec 2) (p : BitVec 3)
  /-- `vld.a` (R125): Loads a vector and enters a hoisted-load entry. -/
  | vldA (s : Bool) (d : Code) (a : Code) (b : Code) (x : BitVec 2) (p : BitVec 3)
  /-- `vld` (R121): Loads 256 bytes, unpredicated, from a register plus offset. -/
  | vldRi (s : Bool) (d : Code) (a : Code) (i : BitVec 12)
  /-- `vst` (R121): Stores the active lanes of a vector to a scaled address. -/
  | vstRr (s : Bool) (d : Code) (a : Code) (b : Code) (x : BitVec 2) (p : BitVec 3)
  /-- `vst` (R121): Stores 256 bytes, unpredicated, to a register plus offset. -/
  | vstRi (s : Bool) (d : Code) (a : Code) (i : BitVec 12)
  /-- `FIFO_STALL_RELEASE` (R251): A push stalled on a full FIFO or a pop on an empty one proceeds when room or data appears. -/
  | fifoStallRelease (core : Nat) (slot : Nat)
  /-- `vldg` (R128): Gathers elements from the near-store window by an offset vector. -/
  | vldg (s : Bool) (d : Code) (a : Code) (b : Code) (w : ITy) (c : Bool) (p : BitVec 3)
  /-- `vsts` (R128): Scatters elements to the near-store window by an offset vector. -/
  | vsts (s : Bool) (d : Code) (a : Code) (b : Code) (w : ITy) (c : Bool) (p : BitVec 3)
  /-- `vldb` (R124): Loads one element and broadcasts it to the active elements. -/
  | vldb (s : Bool) (d : Code) (a : Code) (b : Code) (w : ITy) (p : BitVec 3)
  /-- `zpop` (R131): Pops the next 256 bytes of a stream into a vector. -/
  | zpop (s : Bool) (d : Code) (a : Code) (p : BitVec 3)
  /-- `ZPOP_RELEASE` (R131): A stalled zpop commits once 256 bytes have landed or the stream closes. -/
  | zpopRelease (core : Nat) (slot : Nat)
  /-- `vchk.a` (R126): Checks a hoisted vector load and reloads on a miss. -/
  | vchkA (s : Bool) (d : Code) (a : Code) (b : Code) (p : BitVec 3)
  /-- `vldy` (R170): Loads tensor elements through a symmetry map with signs. -/
  | vldy (s : Bool) (d : Code) (a : Code) (b : Code) (y : BitVec 4)
  /-- `vsty` (R171): Stores tensor elements to their representatives through a symmetry map. -/
  | vsty (s : Bool) (d : Code) (a : Code) (b : Code) (y : BitVec 4) (z : Bool)
  /-- `atom` (R279): Performs one 64-bit atomic read-modify-write at a scope. -/
  | atom (s : Bool) (d : Code) (a : Code) (b : Code) (c : Scope) (o : AtomOp)
  /-- `vatom` (R280): Performs a per-lane atomic at device scope in lane order. -/
  | vatom (s : Bool) (d : Code) (a : Code) (b : Code) (o : VAtomOp) (p : BitVec 3)
  /-- `acc.alloc` (R136): Allocates and zeroes accumulator banks, reporting success in a condition. -/
  | accAlloc (s : Bool) (d : Code) (a : Code) (b : Code)
  /-- `acc.alloc.t` (R136): Allocates accumulator banks, trapping on failure. -/
  | accAllocT (s : Bool) (d : Code) (a : Code)
  /-- `acc.free` (R137): Releases held banks after their array operations finish. -/
  | accFree (s : Bool) (a : Code) (b : Code)
  /-- `ACC_FREE_RELEASE` (R137): A waiting acc.free releases its banks once earlier operations on them finish. -/
  | accFreeRelease (core : Nat) (slot : Nat)
  /-- `acc.zero` (R140): Zeroes an accumulator bank in array order. -/
  | accZero (s : Bool) (d : Code)
  /-- `acc.rd` (R140): Reads a bank slice into a vector in array order. -/
  | accRd (s : Bool) (d : Code) (a : Code) (b : Code)
  /-- `acc.wr` (R140): Writes a vector into a bank slice in array order. -/
  | accWr (s : Bool) (d : Code) (a : Code) (b : Code)
  /-- `mma` (R147): Dense matrix multiply-accumulate into a bank. -/
  | mma (s : Bool) (d : Code) (a : Code) (b : Code) (f : MmaFmt) (x : Bool) (y : Bool) (z : Bool)
  /-- `mma.sp` (R152): 2:4 structured-sparse matrix multiply steered by select words. -/
  | mmaSp (s : Bool) (d : Code) (a : Code) (b : Code) (f : SpFmt) (q : BitVec 3) (k : Bool)
  /-- `mma.t3` (R153): Ternary sign-select matrix accumulate. -/
  | mmaT3 (s : Bool) (d : Code) (a : Code) (b : Code) (z : Bool) (k : Bool)
  /-- `mma.x` (R150): Block-scaled matrix multiply using the edge scale latches. -/
  | mmaX (s : Bool) (d : Code) (a : Code) (b : Code) (f : XFmt) (x : Bool) (y : Bool) (z : Bool)
  /-- `scl` (R149): Writes a new set of edge scale latches. -/
  | scl (s : Bool) (a : Code) (b : Code)
  /-- `sel.ld` (R151): Loads 32 bytes of select words from the code stream into q. -/
  | selLd (s : Bool) (d : Code) (i : BitVec 18)
  /-- `rdesc` (R142): Sets an operand ring descriptor after in-flight fills end. -/
  | rdesc (s : Bool) (d : Code) (a : Code) (b : Code)
  /-- `rpop` (R144): Discards the head entry of a ring. -/
  | rpop (s : Bool) (d : Code)
  /-- `rstat` (R144): Reads ring status after earlier tensor operations issue. -/
  | rstat (s : Bool) (d : Code) (a : Code)
  /-- `zdesc` (R310): Sets, empties and opens a stream descriptor. -/
  | zdesc (s : Bool) (d : Code) (a : Code) (b : Code)
  /-- `wb` (R154): Writes a bank's tile back to memory with conversion and optional pruning. -/
  | wb (s : Bool) (d : Code) (a : Code) (b : Code) (f : WbFmt) (p : Bool) (r : PruneKind)
  /-- `ARRAY_OPERATION_FINISH` (R75): A matrix-array operation finishes and ORs its flags into the ASW. -/
  | arrayOperationFinish (core : Nat) (slot : Nat)
  /-- `cpy` (R312): Issues a copy command on a channel. -/
  | cpy (s : Bool) (a : Code) (b : Code) (k : Bool)
  /-- `cpy.mm` (R313): Issues a copy command with a follow-on matrix command. -/
  | cpyMm (s : Bool) (d : Code) (a : Code) (b : Code) (k : Bool)
  /-- `cpyb` (R314): Issues a copy along a block table. -/
  | cpyb (s : Bool) (a : Code) (b : Code) (k : Bool)
  /-- `coll` (R315): Takes part in a collective among group members. -/
  | coll (s : Bool) (a : Code) (b : Code) (k : Bool)
  /-- `drain` (R320): Waits for a channel's earlier commands and reports a recorded error. -/
  | drain (s : Bool) (k : Bool)
  /-- `DRAIN_COMPLETE` (R320): A waiting drain commits once its channel's commands have landed. -/
  | drainComplete (core : Nat) (slot : Nat)
  /-- `pub` (R318): Waits for earlier commands, then flips a publish entry's visible side. -/
  | pub (s : Bool) (a : Code)
  /-- `PUB_COMPLETE` (R318): A waiting pub inverts SIDE once the task's earlier commands have landed. -/
  | pubComplete (core : Nat) (slot : Nat)
  /-- `ecan` (R321): Removes queued, unstarted commands by tag. -/
  | ecan (s : Bool) (a : Code) (k : Bool)
  /-- `estat` (R322): Reads and clears a channel's error and status word. -/
  | estat (s : Bool) (d : Code) (k : Bool)
  /-- `sctr` (R175): Contracts two orbit-stored tensors into a bank. -/
  | sctr (s : Bool) (d : Code) (a : Code) (b : Code) (v : Bool)
  /-- `yidx` (R166): Maps 32 index tuples to offsets and signs. -/
  | yidx (s : Bool) (d : Code) (a : Code) (y : BitVec 4)
  /-- `ychk` (R167): Tests whether a tuple is its own canonical representative. -/
  | ychk (s : Bool) (d : Code) (a : Code) (y : BitVec 4)
  /-- `fwait` (R227): Waits for a flag count, then subtracts it. -/
  | fwait (s : Bool) (d : Code) (a : Code) (i : BitVec 12)
  /-- `FWAIT_SATISFIED` (R227): A stalled fwait that is first among waiters with its count met commits and subtracts. -/
  | fwaitSatisfied (core : Nat) (slot : Nat)
  /-- `fpost` (R228): Posts a count to a flag of the own core. -/
  | fpost (s : Bool) (d : Code) (a : Code) (i : BitVec 12)
  /-- `fpostr` (R229): Posts a count to a flag of another core. -/
  | fpostr (s : Bool) (d : Code) (a : Code) (b : Code)
  /-- `REMOTE_POST_ARRIVAL` (R229): A remote post arrives at its core and is applied or discarded. -/
  | remotePostArrival (src : Nat) (dst : Nat)
  /-- `bar.init` (R234): Resets a barrier's target and counts. -/
  | barInit (s : Bool) (a : Code) (b : Code)
  /-- `bar.arrive` (R235): Adds arrivals to a barrier and returns the phase. -/
  | barArrive (s : Bool) (d : Code) (a : Code) (b : Code)
  /-- `bar.expect` (R236): Adds expected bytes to a barrier. -/
  | barExpect (s : Bool) (d : Code) (a : Code) (b : Code)
  /-- `bar.wait` (R237): Waits for a barrier phase, trapping while overdrawn. -/
  | barWait (s : Bool) (a : Code) (b : Code)
  /-- `BAR_WAIT_SATISFIED` (R237): A stalled bar.wait commits once its phase completes. -/
  | barWaitSatisfied (core : Nat) (slot : Nat)
  /-- `bar.test` (R238): Tests whether a barrier phase has completed. -/
  | barTest (s : Bool) (d : Code) (a : Code) (b : Code)
  /-- `slv.cfg` (R186): Configures a solve region and takes the history store. -/
  | slvCfg (s : Bool) (d : Code) (a : Code) (b : Code)
  /-- `SLV_CFG_STORE_FREE` (R184): A slv.cfg stalled on the history store proceeds when the store frees. -/
  | slvCfgStoreFree (core : Nat) (slot : Nat)
  /-- `slv.beg` (R188): Starts or re-enters a solve region and snapshots the carried banks. -/
  | slvBeg (s : Bool)
  /-- `slv.end` (R190): Measures the residual and converges, stops, traps or continues with a mixing step. -/
  | slvEnd (s : Bool) (d : Code) (n : Bool)
  /-- `GANG_ROOTS_COMPLETE` (R245): All gang members' roots arrive and every member takes the slv.end outcome. -/
  | gangRootsComplete (gid : Nat)
  /-- `slv.norm` (R197): Reads an item of the solve state. -/
  | slvNorm (s : Bool) (d : Code) (a : Code)
  /-- `slv.hist` (R198): Reads a slice of a history column into a vector. -/
  | slvHist (s : Bool) (d : Code) (a : Code) (b : Code)
  /-- `slv.abort` (R194): Returns the solve state to IDLE and gives back the history store. -/
  | slvAbort (s : Bool)
  /-- `fence` (R277): Orders earlier against later operations at a scope. -/
  | fence (s : Bool) (k : FenceKind) (c : Scope)
  /-- `ld.acq` (R278): Acquire load at a scope. -/
  | ldAcq (s : Bool) (d : Code) (a : Code) (b : Code) (w : Width) (c : Scope)
  /-- `st.rel` (R278): Release store at a scope. -/
  | stRel (s : Bool) (d : Code) (a : Code) (b : Code) (w : ITy) (c : Scope)
  /-- `cwait` (R221): Stalls a gang until the time-step counter reaches its target. -/
  | cwait (s : Bool) (a : Code) (i : BitVec 12)
  /-- `CWAIT_RELEASE` (R221): The time-step counter reaches the cwait target and the gang goes on. -/
  | cwaitRelease (core : Nat) (slot : Nat)
  /-- `lnch` (R207): Enqueues a launch packet on a device queue. -/
  | lnch (s : Bool) (a : Code) (b : Code)
  /-- `LNCH_QUEUE_ROOM` (R207): An lnch waiting on a full queue claims a slot when one frees. -/
  | lnchQueueRoom (core : Nat) (slot : Nat)
  /-- `trap` (R350): Raises a software trap after its bundle commits. -/
  | trap (s : Bool) (k : BitVec 18)
  /-- `rfe` (R351): Returns from the handler and re-injects held writes. -/
  | rfe (s : Bool)
  /-- `ctx.save` (R352): Writes the issuing task's context image. -/
  | ctxSave (s : Bool) (a : Code)
  /-- `ctx.load` (R353): Replaces the task's state with an image, in handler mode. -/
  | ctxLoad (s : Bool) (a : Code)
  /-- `ctx.load.new` (R353): Makes an image a new resident task in a context slot. -/
  | ctxLoadNew (s : Bool) (a : Code) (b : Code)
  /-- `cr.rd` (R354): Reads a control register into a g register. -/
  | crRd (s : Bool) (d : Code) (n : BitVec 12)
  /-- `cr.wr` (R354): Writes a control register from a g register. -/
  | crWr (s : Bool) (d : Code) (n : BitVec 12)
  /-- `CONTROL_REGISTER_WRITE` (R354): A write to a control register with no behaviour of its own. -/
  | controlRegisterWrite (who : Party) (n : BitVec 12) (v : BitVec 64)
  /-- `tlb.inv` (R291): Removes cached translations of the current ASID in a range. -/
  | tlbInv (s : Bool) (a : Code) (b : Code)
  /-- `tlb.inv.asid` (R291): Removes every cached translation of the current ASID. -/
  | tlbInvAsid (s : Bool)
  /-- `tlb.inv.any` (R291): Removes cached translations of every ASID in a range. -/
  | tlbInvAny (s : Bool) (a : Code) (b : Code)
  /-- `tlb.inv.all` (R291): Removes every cached translation. -/
  | tlbInvAll (s : Bool)
  /-- `tlb.sync` (R292): Waits until earlier invalidations and their accesses complete device-wide. -/
  | tlbSync (s : Bool)
  /-- `ctr.rd` (R296): Reads, and optionally clears, an access counter entry. -/
  | ctrRd (s : Bool) (d : Code) (a : Code) (c : Bool)
  /-- `xlt.inval` (R372): Removes translations, signature results and prepared targets for a code range. -/
  | xltInval (s : Bool) (a : Code) (b : Code)
  /-- `xlt.pin` (R373): Pins translations of a code range. -/
  | xltPin (s : Bool) (a : Code) (b : Code)
  /-- `xlt.unpin` (R373): Unpins translations of a code range. -/
  | xltUnpin (s : Bool) (a : Code) (b : Code)
  /-- `xlt.hint` (R374): Hints the translation tier for a code range. -/
  | xltHint (s : Bool) (a : Code) (b : Code) (m : Tier)
  /-- `mc.ld` (R377): Verifies and installs a microcode package on every core. -/
  | mcLd (s : Bool) (a : Code)
  /-- `class` (R375): Runs an installed microcode body as one bundle, or raises no microcode. -/
  | microcodeSlot (s : Bool) (e : BitVec 4) (d : Code) (a : Code) (b : Code) (f : BitVec 6)
  /-- `TIER1_PROMOTION` (R363): A loop head's entry count reaches HOT and a tier-1 translation is built. -/
  | tier1Promotion (die : Nat) (head : BitVec 64)
  /-- `ATOM_COMMIT` (R365): An atom's staged effects become visible at one instant. -/
  | atomCommit (core : Nat)
  /-- `ATOM_CONFLICT_DISCARD` (R365): Another party's write to a watched line discards and reruns an atom. -/
  | atomConflictDiscard (core : Nat)
  /-- `QUANTUM_EXPIRY` (R214): After 65536 cycles without a switch point the core switches tasks. -/
  | quantumExpiry (core : Nat)
  /-- `WAIT_TIMEOUT` (R239): A stalled wait reaches the wait-timer limit and raises wait timeout. -/
  | waitTimeout (core : Nat) (slot : Nat)
  /-- `CSMODE_WRITE` (R253): Switches cluster-store bank modes after outstanding accesses complete. -/
  | csmodeWrite (who : Party) (v : BitVec 64)
  /-- `EVCNT_WRITE` (R254): Loads or removes the group's eviction schedule. -/
  | evcntWrite (who : Party) (v : BitVec 64)
  /-- `FORMAT_WINDOW_ENABLE` (R260): Enables a format window after checking its ranges. -/
  | formatWindowEnable (who : Party) (w : Nat) (v : BitVec 64)
  /-- `FORMAT_WINDOW_DISABLE` (R260): Disables a window after in-flight alias reads and discards its lines. -/
  | formatWindowDisable (who : Party) (w : Nat) (v : BitVec 64)
  /-- `PUBLISH_ENTRY_ENABLE` (R316): Enables a publish entry after checking its ranges. -/
  | publishEntryEnable (who : Party) (e : Nat) (v : BitVec 64)
  /-- `FQRD_WRITE` (R384): Advances the fault queue read index, freeing entries. -/
  | fqrdWrite (who : Party) (v : BitVec 64)
  /-- `FAULT_QUEUE_POST` (R339): A stopped party writes its record to the fault queue when there is room. -/
  | faultQueuePost
  /-- `REPLAY_RESUME` (R340): REPLAY action 0 resumes a stopped party at its restartable point. -/
  | replayResume (unit : Nat) (slot : Nat) (req : Nat)
  /-- `REPLAY_DELIVER` (R340): REPLAY action 1 enters the task's handler with the posted record. -/
  | replayDeliver (unit : Nat) (slot : Nat) (req : Nat)
  /-- `REPLAY_TERMINATE` (R341): REPLAY action 2 terminates the stopped party. -/
  | replayTerminate (unit : Nat) (slot : Nat) (req : Nat)
  /-- `PREEMPT_REQUEST` (R342): A write to PREEMPT requests pre-emption of a task or core. -/
  | preemptRequest (core : Nat) (slot : Nat) (all : Bool)
  /-- `PREEMPT_SAVE` (R343): At a save point the task's image is written and its context freed. -/
  | preemptSave (core : Nat) (slot : Nat)
  /-- `CONTEXT_RELOAD` (R344): A pre-empted task marked for reload is made resident when resources are free. -/
  | contextReload (core : Nat)
  /-- `XLTCTL_WRITE` (R370): Writes Skiver controls and removes every translation. -/
  | xltctlWrite (who : Party) (v : BitVec 64)
  /-- `QUEUE_WRIDX_WRITE` (R406): A write to a queue's WRIDX wakes its dispatcher. -/
  | queueWridxWrite (q : Nat) (v : BitVec 64)
  /-- `PACKET_TAKE` (R203): The dispatcher takes and checks a launch packet from its queue. -/
  | packetTake (cluster : Nat) (q : Nat)
  /-- `GROUP_ADMIT` (R210): The dispatcher admits candidate groups by priority and deficit round-robin. -/
  | groupAdmit (cluster : Nat)
  /-- `GROUP_START` (R205): An admitted group whose reservations fit is made resident together. -/
  | groupStart (cluster : Nat) (cores : List Nat) (slots : List Nat)
  /-- `GROUP_STEAL` (R212): An idle dispatcher takes an admitted, unstarted group from another cluster. -/
  | groupSteal (cluster : Nat) (victim : Nat)
  /-- `GROUP_RELEASE` (R205): Reservations are released once the last task exits and commands complete. -/
  | groupRelease (gid : Nat)
  /-- `LAUNCH_COMPLETE` (R206): The dispatcher writes CPLVAL once every task and command is done. -/
  | launchComplete (launch : Nat)
  /-- `GRAPH_MEMBER_READY` (R216): A graph member becomes candidate when its predecessors complete. -/
  | graphMemberReady (launch : Nat)
  /-- `CADENCED_START` (R400): A cadenced gang's lead issues its first bundle at the start step. -/
  | cadencedStart (gid : Nat)
  /-- `BUDGET_PUBLISH` (R413): Every 1024 cycles the power controller publishes a budget level. -/
  | budgetPublish (die : Nat) (meas : BitVec 16)
  /-- `ENGINE_COMMAND_START` (R298): An idle engine starts the next queued command of a channel. -/
  | engineCommandStart (core : Nat) (ch : Nat)
  /-- `ENGINE_QUEUE_ROOM` (R297): A command stalled on a full channel queue enters it when room frees. -/
  | engineQueueRoom (core : Nat) (slot : Nat)
  /-- `ENGINE_BODY_LANDED` (R307): A command body has landed and its post is applied. -/
  | engineBodyLanded (core : Nat) (ch : Nat)
  /-- `ENGINE_WAIT_RELEASE` (R308): An engine waiting for a free ring entry or stream room resumes. -/
  | engineWaitRelease (core : Nat) (ch : Nat)
  /-- `COLLECTIVE_PROCEED` (R315): Once all members have issued, the collective computes and lands. -/
  | collectiveProceed (gid : Nat) (group : Nat) (mask : BitVec 32)
  /-- `STITCH_TABLE_LOAD` (R392): STCTL.LOAD checks the image at STBASE as a new stitch table. -/
  | stitchTableLoad
  /-- `STITCH_TABLE_DEFAULT` (R392): STCTL.DEF checks the built-in default stitch table. -/
  | stitchTableDefault
  /-- `STITCH_TABLE_SWITCH` (R392): After in-flight stitches arrive, all routers switch at a revolution boundary. -/
  | stitchTableSwitch
  /-- `PACKET_ESCAPE` (R394): A packet blocked 4096 cycles moves to the escape channel. -/
  | packetEscape (src : Nat) (dst : Nat)
  /-- `FLIT_RECEIVE` (R395): A device-link flit arrives, is checked and is delivered or forwarded. -/
  | flitReceive (link : Nat) (flit : Flit)
  /-- `LINK_RETRAIN` (R395): A link failing 16 replays in a row retrains. -/
  | linkRetrain (link : Nat)
  /-- `PEER_ANSWER` (R396): A peer acknowledgement arrives and performs the access for its party. -/
  | peerAnswer (ident : Nat) (data : BitVec 64)
  /-- `PEER_ACCESS_TIMEOUT` (R396): A peer access unanswered for 2^24 cycles completes as uncorrectable error. -/
  | peerAccessTimeout (ident : Nat)
  /-- `CGCTL_WRITE` (R398): Setting cadence-group membership starts alignment with the leader. -/
  | cgctlWrite (who : Party) (v : BitVec 64)
  /-- `CADENCE_REMEASURE` (R398): Every 2^16 steps a follower measures and corrects its offset. -/
  | cadenceRemeasure (t1 : Nat) (t2 : Nat) (tL : Nat) (turn : Nat)
  /-- `BUBBLE_NOTICE` (R399): A member receives the leader's bubble start step and length. -/
  | bubbleNotice (start : BitVec 64) (len : Nat)
  /-- `WHOLE_DEVICE_BUBBLE` (R397): The device pauses issue and the stitch index for a bubble. -/
  | wholeDeviceBubble (len : Nat)
  /-- `HOST_BAR0_ACCESS` (R403): A host BAR0 access acts as a control register read or write. -/
  | hostBar0Access (write : Bool) (off : Nat) (size : Nat) (v : BitVec 64)
  /-- `HOST_MEMORY_ACCESS` (R402): A host CXL.mem access reaches the home slice of a line. -/
  | hostMemoryAccess (write : Bool) (pa : Nat) (size : Nat) (v : BitVec 64)
  /-- `NOTICE_QUEUE_POST` (R408): A notice is posted to the notice queue and MSI-X vector 1 sent. -/
  | noticeQueuePost
  /-- `HOST_INVALIDATE` (R409): HINVCTL.GO performs a tlb.inv and tlb.sync for the host. -/
  | hostInvalidate (v : BitVec 64)
  /-- `HOST_INVALIDATE_DONE` (R409): The host-requested invalidation completes and DONE is set. -/
  | hostInvalidateDone
  /-- `ATTESTATION_REQUEST` (R412): ATTCTL.GO asks the security processor for a signed report. -/
  | attestationRequest
  /-- `ATTESTATION_DONE` (R412): The report is written and DONE is set. -/
  | attestationDone
  /-- `COLD_RESET` (R410): Runs the verified boot sequence. -/
  | coldReset (boot : BootInput)
  /-- `FUNCTION_LEVEL_RESET` (R411): Terminates every task and resets registers and queues. -/
  | functionLevelReset
  /-- `THERMAL_EXCURSION` (R413): At 105 C or more the budget is forced to 0 and an excursion recorded. -/
  | thermalExcursion (temp : Nat)
  /-- `THERMAL_STOP` (R413): At 115 C all issue stops. -/
  | thermalStop (temp : Nat)
  /-- `THERMAL_RESUME` (R413): Issue resumes once the temperature falls below 100 C. -/
  | thermalResume (temp : Nat)
  /-- `UNIT_FENCE_EFFECT` (R415): A pending unit fence takes effect once the unit is quiescent or unneeded. -/
  | unitFenceEffect (code : Nat) (num : Nat)
  /-- `HBM_SCRUB` (R414): Device memory is scrubbed once every 2^45 cycles. -/
  | hbmScrub
  /-- `LIFE_COUNTER_FLUSH` (R417): Every 2^30 cycles the life counters are written to nonvolatile store. -/
  | lifeCounterFlush
  /-- `ORDERLY_SHUTDOWN` (R417): An orderly shutdown writes the life counters. -/
  | orderlyShutdown
  /-- `LINK_TRAINING_END` (R395): A retraining device link finishes training, clears TRAIN and carries flits again. -/
  | linkTrainingEnd (link : Nat)
  /-- `SOFT_ERROR` (R414): A bit error strikes an SRAM array or device memory, to be corrected and counted or to poison its
  granule or register. -/
  | softError (target : ErrTarget) (fatal : Bool)
  /-- `POWER_LOSS` (R417): Power is lost, and the life counts since the last write to nonvolatile store are lost. -/
  | powerLoss
  /-- `HOST_APERTURE_ANSWER` (R279): The host's CXL.cache answer to a device access to the host aperture returns, performing the
  access for the issuing party. -/
  | hostApertureAnswer (ident : Nat) (data : BitVec 64)
  deriving DecidableEq, Repr

/-- Whether a constructor is an event: a row of the table without an encoding. -/
def Instr.isEvent : Instr → Bool
  | .add _ _ _ _ => false
  | .sub _ _ _ _ => false
  | .mul _ _ _ _ => false
  | .mulh _ _ _ _ => false
  | .mulhn _ _ _ _ => false
  | .mad _ _ _ _ => false
  | .div _ _ _ _ => false
  | .divn _ _ _ _ => false
  | .rem _ _ _ _ => false
  | .remn _ _ _ _ => false
  | .and _ _ _ _ => false
  | .or _ _ _ _ => false
  | .xor _ _ _ _ => false
  | .andn _ _ _ _ => false
  | .shl _ _ _ _ => false
  | .shr _ _ _ _ => false
  | .sha _ _ _ _ => false
  | .rot _ _ _ _ => false
  | .clz _ _ _ => false
  | .ctz _ _ _ => false
  | .popc _ _ _ => false
  | .min _ _ _ _ => false
  | .max _ _ _ _ => false
  | .minn _ _ _ _ => false
  | .maxn _ _ _ _ => false
  | .mov _ _ _ => false
  | .leaRrScale12 _ _ _ _ _ => false
  | .leaRrScale48 _ _ _ _ _ => false
  | .cmp _ _ _ _ _ _ => false
  | .sel _ _ _ _ _ _ => false
  | .ext _ _ _ _ _ => false
  | .extn _ _ _ _ _ => false
  | .ins _ _ _ _ _ => false
  | .wid _ _ _ => false
  | .leaRi _ _ _ _ => false
  | .addi _ _ _ _ => false
  | .andi _ _ _ _ => false
  | .ori _ _ _ _ => false
  | .xori _ _ _ _ => false
  | .cmpi _ _ _ _ _ => false
  | .shli _ _ _ _ => false
  | .shri _ _ _ _ => false
  | .shai _ _ _ _ => false
  | .li _ _ _ => false
  | .lih _ _ _ => false
  | .brpLabel _ _ _ => false
  | .brpReg _ _ _ => false
  | .go _ _ _ _ => false
  | .call _ _ _ => false
  | .ret _ _ => false
  | .lp _ _ _ => false
  | .exit _ => false
  | .nop _ => false
  | .brk _ _ => false
  | .vadd _ _ _ _ _ _ => false
  | .vsub _ _ _ _ _ _ => false
  | .vmul _ _ _ _ _ _ => false
  | .vaddFtz _ _ _ _ _ _ => false
  | .vaddSat _ _ _ _ _ _ => false
  | .vsubFtz _ _ _ _ _ _ => false
  | .vsubSat _ _ _ _ _ _ => false
  | .vmulFtz _ _ _ _ _ _ => false
  | .vmulSat _ _ _ _ _ _ => false
  | .vfma _ _ _ _ _ _ => false
  | .vfms _ _ _ _ _ _ => false
  | .vfnma _ _ _ _ _ _ => false
  | .vsha _ _ _ _ _ _ => false
  | .vmin _ _ _ _ _ _ => false
  | .vmax _ _ _ _ _ _ => false
  | .vmaxn _ _ _ _ _ _ => false
  | .vminn _ _ _ _ _ _ => false
  | .vshr _ _ _ _ _ _ => false
  | .vshl _ _ _ _ _ _ => false
  | .vcmp _ _ _ _ _ _ _ => false
  | .vcvt _ _ _ _ _ _ _ => false
  | .vabs _ _ _ _ _ => false
  | .vneg _ _ _ _ _ => false
  | .vnot _ _ _ _ _ => false
  | .vmov _ _ _ _ _ => false
  | .vrcp _ _ _ _ _ => false
  | .vrsqrt _ _ _ _ _ => false
  | .vsqrt _ _ _ _ _ => false
  | .vexp2 _ _ _ _ _ => false
  | .vlog2 _ _ _ _ _ => false
  | .vbcast _ _ _ _ _ => false
  | .vli _ _ _ _ _ => false
  | .vcompress _ _ _ _ _ => false
  | .vexpand _ _ _ _ _ => false
  | .vredAdd _ _ _ _ _ => false
  | .vredMin _ _ _ _ _ => false
  | .vredMax _ _ _ _ _ => false
  | .vredMinn _ _ _ _ _ => false
  | .vredMaxn _ _ _ _ _ => false
  | .vredAnd _ _ _ _ _ => false
  | .vredOr _ _ _ _ _ => false
  | .vredXor _ _ _ _ _ => false
  | .vscanAdd _ _ _ _ _ => false
  | .vscanMin _ _ _ _ _ => false
  | .vscanMax _ _ _ _ _ => false
  | .vcvtFormat _ _ _ _ _ _ _ => false
  | .kand _ _ _ _ => false
  | .kor _ _ _ _ => false
  | .kxor _ _ _ _ => false
  | .knot _ _ _ => false
  | .kpop _ _ _ => false
  | .vtoc _ _ _ _ => false
  | .vany _ _ _ _ => false
  | .vall _ _ _ _ => false
  | .vext _ _ _ _ _ => false
  | .vins _ _ _ _ _ => false
  | .vperm _ _ _ _ _ => false
  | .vclampInt _ _ _ _ _ => false
  | .vclampFp _ _ _ _ _ => false
  | .vand _ _ _ _ => false
  | .vor _ _ _ _ => false
  | .vxor _ _ _ _ => false
  | .vsel _ _ _ _ _ _ => false
  | .ldRr _ _ _ _ _ _ => false
  | .ldA _ _ _ _ _ _ => false
  | .ldRi _ _ _ _ => false
  | .stRr _ _ _ _ _ _ => false
  | .stRi _ _ _ _ => false
  | .chkA _ _ _ _ _ _ => false
  | .ydesc _ _ _ _ => false
  | .vldRr _ _ _ _ _ _ => false
  | .vldA _ _ _ _ _ _ => false
  | .vldRi _ _ _ _ => false
  | .vstRr _ _ _ _ _ _ => false
  | .vstRi _ _ _ _ => false
  | .fifoStallRelease _ _ => true
  | .vldg _ _ _ _ _ _ _ => false
  | .vsts _ _ _ _ _ _ _ => false
  | .vldb _ _ _ _ _ _ => false
  | .zpop _ _ _ _ => false
  | .zpopRelease _ _ => true
  | .vchkA _ _ _ _ _ => false
  | .vldy _ _ _ _ _ => false
  | .vsty _ _ _ _ _ _ => false
  | .atom _ _ _ _ _ _ => false
  | .vatom _ _ _ _ _ _ => false
  | .accAlloc _ _ _ _ => false
  | .accAllocT _ _ _ => false
  | .accFree _ _ _ => false
  | .accFreeRelease _ _ => true
  | .accZero _ _ => false
  | .accRd _ _ _ _ => false
  | .accWr _ _ _ _ => false
  | .mma _ _ _ _ _ _ _ _ => false
  | .mmaSp _ _ _ _ _ _ _ => false
  | .mmaT3 _ _ _ _ _ _ => false
  | .mmaX _ _ _ _ _ _ _ _ => false
  | .scl _ _ _ => false
  | .selLd _ _ _ => false
  | .rdesc _ _ _ _ => false
  | .rpop _ _ => false
  | .rstat _ _ _ => false
  | .zdesc _ _ _ _ => false
  | .wb _ _ _ _ _ _ _ => false
  | .arrayOperationFinish _ _ => true
  | .cpy _ _ _ _ => false
  | .cpyMm _ _ _ _ _ => false
  | .cpyb _ _ _ _ => false
  | .coll _ _ _ _ => false
  | .drain _ _ => false
  | .drainComplete _ _ => true
  | .pub _ _ => false
  | .pubComplete _ _ => true
  | .ecan _ _ _ => false
  | .estat _ _ _ => false
  | .sctr _ _ _ _ _ => false
  | .yidx _ _ _ _ => false
  | .ychk _ _ _ _ => false
  | .fwait _ _ _ _ => false
  | .fwaitSatisfied _ _ => true
  | .fpost _ _ _ _ => false
  | .fpostr _ _ _ _ => false
  | .remotePostArrival _ _ => true
  | .barInit _ _ _ => false
  | .barArrive _ _ _ _ => false
  | .barExpect _ _ _ _ => false
  | .barWait _ _ _ => false
  | .barWaitSatisfied _ _ => true
  | .barTest _ _ _ _ => false
  | .slvCfg _ _ _ _ => false
  | .slvCfgStoreFree _ _ => true
  | .slvBeg _ => false
  | .slvEnd _ _ _ => false
  | .gangRootsComplete _ => true
  | .slvNorm _ _ _ => false
  | .slvHist _ _ _ _ => false
  | .slvAbort _ => false
  | .fence _ _ _ => false
  | .ldAcq _ _ _ _ _ _ => false
  | .stRel _ _ _ _ _ _ => false
  | .cwait _ _ _ => false
  | .cwaitRelease _ _ => true
  | .lnch _ _ _ => false
  | .lnchQueueRoom _ _ => true
  | .trap _ _ => false
  | .rfe _ => false
  | .ctxSave _ _ => false
  | .ctxLoad _ _ => false
  | .ctxLoadNew _ _ _ => false
  | .crRd _ _ _ => false
  | .crWr _ _ _ => false
  | .controlRegisterWrite _ _ _ => true
  | .tlbInv _ _ _ => false
  | .tlbInvAsid _ => false
  | .tlbInvAny _ _ _ => false
  | .tlbInvAll _ => false
  | .tlbSync _ => false
  | .ctrRd _ _ _ _ => false
  | .xltInval _ _ _ => false
  | .xltPin _ _ _ => false
  | .xltUnpin _ _ _ => false
  | .xltHint _ _ _ _ => false
  | .mcLd _ _ => false
  | .microcodeSlot _ _ _ _ _ _ => false
  | .tier1Promotion _ _ => true
  | .atomCommit _ => true
  | .atomConflictDiscard _ => true
  | .quantumExpiry _ => true
  | .waitTimeout _ _ => true
  | .csmodeWrite _ _ => true
  | .evcntWrite _ _ => true
  | .formatWindowEnable _ _ _ => true
  | .formatWindowDisable _ _ _ => true
  | .publishEntryEnable _ _ _ => true
  | .fqrdWrite _ _ => true
  | .faultQueuePost => true
  | .replayResume _ _ _ => true
  | .replayDeliver _ _ _ => true
  | .replayTerminate _ _ _ => true
  | .preemptRequest _ _ _ => true
  | .preemptSave _ _ => true
  | .contextReload _ => true
  | .xltctlWrite _ _ => true
  | .queueWridxWrite _ _ => true
  | .packetTake _ _ => true
  | .groupAdmit _ => true
  | .groupStart _ _ _ => true
  | .groupSteal _ _ => true
  | .groupRelease _ => true
  | .launchComplete _ => true
  | .graphMemberReady _ => true
  | .cadencedStart _ => true
  | .budgetPublish _ _ => true
  | .engineCommandStart _ _ => true
  | .engineQueueRoom _ _ => true
  | .engineBodyLanded _ _ => true
  | .engineWaitRelease _ _ => true
  | .collectiveProceed _ _ _ => true
  | .stitchTableLoad => true
  | .stitchTableDefault => true
  | .stitchTableSwitch => true
  | .packetEscape _ _ => true
  | .flitReceive _ _ => true
  | .linkRetrain _ => true
  | .peerAnswer _ _ => true
  | .peerAccessTimeout _ => true
  | .cgctlWrite _ _ => true
  | .cadenceRemeasure _ _ _ _ => true
  | .bubbleNotice _ _ => true
  | .wholeDeviceBubble _ => true
  | .hostBar0Access _ _ _ _ => true
  | .hostMemoryAccess _ _ _ _ => true
  | .noticeQueuePost => true
  | .hostInvalidate _ => true
  | .hostInvalidateDone => true
  | .attestationRequest => true
  | .attestationDone => true
  | .coldReset _ => true
  | .functionLevelReset => true
  | .thermalExcursion _ => true
  | .thermalStop _ => true
  | .thermalResume _ => true
  | .unitFenceEffect _ _ => true
  | .hbmScrub => true
  | .lifeCounterFlush => true
  | .orderlyShutdown => true
  | .linkTrainingEnd _ => true
  | .softError _ _ => true
  | .powerLoss => true
  | .hostApertureAnswer _ _ => true

/-- A turn of the machine: a core issues a slot, an event of the table comes about, or a clock cycle passes. -/
inductive Turn where
  | issue (core : Nat)
  | event (e : Instr)
  | tick
  deriving DecidableEq, Repr, Inhabited

end Sys2Proof
end

