-- ==== Sys2Proof/WellFormed.lean ====
section
/-! DEFINITION. Which instructions are well formed: the fields hold values the maps of R38 to R46 assign, and for an
event its numbers name parts that exist (R1, R385). Operand codes are judged when a slot executes (R35), since their
fate is a trap of the machine. -/

namespace Sys2Proof

/-- The check of well-formedness (02 R35, R38 to R46; for events, 23 R385). -/
def Instr.wf : (i : Instr) → Bool
  | .add _ _ _ _ => true
  | .sub _ _ _ _ => true
  | .mul _ _ _ _ => true
  | .mulh _ _ _ _ => true
  | .mulhn _ _ _ _ => true
  | .mad _ _ _ _ => true
  | .div _ _ _ _ => true
  | .divn _ _ _ _ => true
  | .rem _ _ _ _ => true
  | .remn _ _ _ _ => true
  | .and _ _ _ _ => true
  | .or _ _ _ _ => true
  | .xor _ _ _ _ => true
  | .andn _ _ _ _ => true
  | .shl _ _ _ _ => true
  | .shr _ _ _ _ => true
  | .sha _ _ _ _ => true
  | .rot _ _ _ _ => true
  | .clz _ _ _ => true
  | .ctz _ _ _ => true
  | .popc _ _ _ => true
  | .min _ _ _ _ => true
  | .max _ _ _ _ => true
  | .minn _ _ _ _ => true
  | .maxn _ _ _ _ => true
  | .mov _ _ _ => true
  | .leaRrScale12 _ _ _ _ _ => true
  | .leaRrScale48 _ _ _ _ _ => true
  | .cmp _ _ _ _ _ _ => true
  | .sel _ _ _ _ _ _ => true
  | .ext _ _ _ p l => decide (p.toNat + l.toNat + 1 ≤ 64)
  | .extn _ _ _ p l => decide (p.toNat + l.toNat + 1 ≤ 64)
  | .ins _ _ _ p l => decide (p.toNat + l.toNat + 1 ≤ 64)
  | .wid _ _ k => decide (k.toNat ≤ 6)
  | .leaRi _ _ _ _ => true
  | .addi _ _ _ _ => true
  | .andi _ _ _ _ => true
  | .ori _ _ _ _ => true
  | .xori _ _ _ _ => true
  | .cmpi _ _ _ _ _ => true
  | .shli _ _ _ _ => true
  | .shri _ _ _ _ => true
  | .shai _ _ _ _ => true
  | .li _ _ _ => true
  | .lih _ _ _ => true
  | .brpLabel _ _ _ => true
  | .brpReg _ _ _ => true
  | .go _ _ c m => decide (m = .always → c = 0)
  | .call _ _ _ => true
  | .ret _ _ => true
  | .lp _ _ n => decide (n ≠ 0)
  | .exit _ => true
  | .nop _ => true
  | .brk _ _ => true
  | .vadd _ _ _ _ _ _ => true
  | .vsub _ _ _ _ _ _ => true
  | .vmul _ _ _ _ _ _ => true
  | .vaddFtz _ _ _ _ _ _ => true
  | .vaddSat _ _ _ _ _ _ => true
  | .vsubFtz _ _ _ _ _ _ => true
  | .vsubSat _ _ _ _ _ _ => true
  | .vmulFtz _ _ _ _ _ _ => true
  | .vmulSat _ _ _ _ _ _ => true
  | .vfma _ _ _ _ _ _ => true
  | .vfms _ _ _ _ _ _ => true
  | .vfnma _ _ _ _ _ _ => true
  | .vsha _ _ _ _ _ _ => true
  | .vmin _ _ _ _ _ _ => true
  | .vmax _ _ _ _ _ _ => true
  | .vmaxn _ _ _ _ _ _ => true
  | .vminn _ _ _ _ _ _ => true
  | .vshr _ _ _ _ _ _ => true
  | .vshl _ _ _ _ _ _ => true
  | .vcmp _ _ _ _ _ _ _ => true
  | .vcvt _ _ _ _ _ _ _ => true
  | .vabs _ _ _ _ _ => true
  | .vneg _ _ _ _ _ => true
  | .vnot _ _ _ _ _ => true
  | .vmov _ _ _ _ _ => true
  | .vrcp _ _ _ _ _ => true
  | .vrsqrt _ _ _ _ _ => true
  | .vsqrt _ _ _ _ _ => true
  | .vexp2 _ _ _ _ _ => true
  | .vlog2 _ _ _ _ _ => true
  | .vbcast _ _ _ _ _ => true
  | .vli _ _ _ _ _ => true
  | .vcompress _ _ _ _ _ => true
  | .vexpand _ _ _ _ _ => true
  | .vredAdd _ _ _ _ _ => true
  | .vredMin _ _ _ _ _ => true
  | .vredMax _ _ _ _ _ => true
  | .vredMinn _ _ _ _ _ => true
  | .vredMaxn _ _ _ _ _ => true
  | .vredAnd _ _ _ _ _ => true
  | .vredOr _ _ _ _ _ => true
  | .vredXor _ _ _ _ _ => true
  | .vscanAdd _ _ _ _ _ => true
  | .vscanMin _ _ _ _ _ => true
  | .vscanMax _ _ _ _ _ => true
  | .vcvtFormat _ _ _ _ _ f n => decide (satFmt f.code = true → n = true)
  | .kand _ _ _ _ => true
  | .kor _ _ _ _ => true
  | .kxor _ _ _ _ => true
  | .knot _ _ _ => true
  | .kpop _ _ _ => true
  | .vtoc _ _ _ _ => true
  | .vany _ _ _ _ => true
  | .vall _ _ _ _ => true
  | .vext _ _ _ _ _ => true
  | .vins _ _ _ _ _ => true
  | .vperm _ _ _ _ _ => true
  | .vclampInt _ _ _ _ _ => true
  | .vclampFp _ _ _ _ _ => true
  | .vand _ _ _ _ => true
  | .vor _ _ _ _ => true
  | .vxor _ _ _ _ => true
  | .vsel _ _ _ _ _ _ => true
  | .ldRr _ _ _ _ _ _ => true
  | .ldA _ _ _ _ _ _ => true
  | .ldRi _ _ _ _ => true
  | .stRr _ _ _ _ _ _ => true
  | .stRi _ _ _ _ => true
  | .chkA _ _ _ _ _ _ => true
  | .ydesc _ _ _ _ => true
  | .vldRr _ _ _ _ _ _ => true
  | .vldA _ _ _ _ _ _ => true
  | .vldRi _ _ _ _ => true
  | .vstRr _ _ _ _ _ _ => true
  | .vstRi _ _ _ _ => true
  | .fifoStallRelease core slot => decide (core < 512) && decide (slot < 4)
  | .vldg _ _ _ _ _ _ _ => true
  | .vsts _ _ _ _ _ _ _ => true
  | .vldb _ _ _ _ _ _ => true
  | .zpop _ _ _ _ => true
  | .zpopRelease core slot => decide (core < 512) && decide (slot < 4)
  | .vchkA _ _ _ _ _ => true
  | .vldy _ _ _ _ _ => true
  | .vsty _ _ _ _ _ _ => true
  | .atom _ _ _ _ _ _ => true
  | .vatom _ _ _ _ _ _ => true
  | .accAlloc _ _ _ _ => true
  | .accAllocT _ _ _ => true
  | .accFree _ _ _ => true
  | .accFreeRelease core slot => decide (core < 512) && decide (slot < 4)
  | .accZero _ _ => true
  | .accRd _ _ _ _ => true
  | .accWr _ _ _ _ => true
  | .mma _ _ _ _ _ _ _ _ => true
  | .mmaSp _ _ _ _ _ q _ => decide (q.toNat < 6)
  | .mmaT3 _ _ _ _ _ _ => true
  | .mmaX _ _ _ _ _ _ _ _ => true
  | .scl _ _ _ => true
  | .selLd _ _ _ => true
  | .rdesc _ _ _ _ => true
  | .rpop _ _ => true
  | .rstat _ _ _ => true
  | .zdesc _ _ _ _ => true
  | .wb _ _ _ _ _ p r => decide (p = false → r = .p2m4)
  | .arrayOperationFinish core slot => decide (core < 512) && decide (slot < 4)
  | .cpy _ _ _ _ => true
  | .cpyMm _ _ _ _ _ => true
  | .cpyb _ _ _ _ => true
  | .coll _ _ _ _ => true
  | .drain _ _ => true
  | .drainComplete core slot => decide (core < 512) && decide (slot < 4)
  | .pub _ _ => true
  | .pubComplete core slot => decide (core < 512) && decide (slot < 4)
  | .ecan _ _ _ => true
  | .estat _ _ _ => true
  | .sctr _ _ _ _ _ => true
  | .yidx _ _ _ _ => true
  | .ychk _ _ _ _ => true
  | .fwait _ _ _ i => decide (i.toNat < 2048)
  | .fwaitSatisfied core slot => decide (core < 512) && decide (slot < 4)
  | .fpost _ _ _ i => decide (i.toNat < 2048)
  | .fpostr _ _ _ _ => true
  | .remotePostArrival src dst => decide (src < 512) && decide (dst < 512)
  | .barInit _ _ _ => true
  | .barArrive _ _ _ _ => true
  | .barExpect _ _ _ _ => true
  | .barWait _ _ _ => true
  | .barWaitSatisfied core slot => decide (core < 512) && decide (slot < 4)
  | .barTest _ _ _ _ => true
  | .slvCfg _ _ _ _ => true
  | .slvCfgStoreFree core slot => decide (core < 512) && decide (slot < 4)
  | .slvBeg _ => true
  | .slvEnd _ _ _ => true
  | .gangRootsComplete _ => true
  | .slvNorm _ _ _ => true
  | .slvHist _ _ _ _ => true
  | .slvAbort _ => true
  | .fence _ _ _ => true
  | .ldAcq _ _ _ _ _ _ => true
  | .stRel _ _ _ _ _ _ => true
  | .cwait _ _ i => decide (i.toNat < 2048)
  | .cwaitRelease core slot => decide (core < 512) && decide (slot < 4)
  | .lnch _ _ _ => true
  | .lnchQueueRoom core slot => decide (core < 512) && decide (slot < 4)
  | .trap _ _ => true
  | .rfe _ => true
  | .ctxSave _ _ => true
  | .ctxLoad _ _ => true
  | .ctxLoadNew _ _ b => decide (b ≠ 56)
  | .crRd _ _ _ => true
  | .crWr _ _ _ => true
  | .controlRegisterWrite _ _ _ => true
  | .tlbInv _ _ _ => true
  | .tlbInvAsid _ => true
  | .tlbInvAny _ _ _ => true
  | .tlbInvAll _ => true
  | .tlbSync _ => true
  | .ctrRd _ _ _ _ => true
  | .xltInval _ _ _ => true
  | .xltPin _ _ _ => true
  | .xltUnpin _ _ _ => true
  | .xltHint _ _ _ _ => true
  | .mcLd _ _ => true
  | .microcodeSlot _ _ _ _ _ _ => true
  | .tier1Promotion die _ => decide (die < 8)
  | .atomCommit core => decide (core < 512)
  | .atomConflictDiscard core => decide (core < 512)
  | .quantumExpiry core => decide (core < 512)
  | .waitTimeout core slot => decide (core < 512) && decide (slot < 4)
  | .csmodeWrite _ _ => true
  | .evcntWrite _ _ => true
  | .formatWindowEnable _ w _ => decide (w < 8)
  | .formatWindowDisable _ w _ => decide (w < 8)
  | .publishEntryEnable _ e _ => decide (e < 64)
  | .fqrdWrite _ _ => true
  | .faultQueuePost => true
  | .replayResume unit slot req => decide (unit < 512) && decide (slot < 4) && decide (req < 8)
  | .replayDeliver unit slot req => decide (unit < 512) && decide (slot < 4) && decide (req < 8)
  | .replayTerminate unit slot req => decide (unit < 512) && decide (slot < 4) && decide (req < 8)
  | .preemptRequest core slot _ => decide (core < 512) && decide (slot < 4)
  | .preemptSave core slot => decide (core < 512) && decide (slot < 4)
  | .contextReload core => decide (core < 512)
  | .xltctlWrite _ _ => true
  | .queueWridxWrite q _ => decide (q < 131072)
  | .packetTake cluster q => decide (cluster < 64) && decide (q < 131072)
  | .groupAdmit cluster => decide (cluster < 64)
  | .groupStart cluster _ _ => decide (cluster < 64)
  | .groupSteal cluster victim => decide (cluster < 64) && decide (victim < 64)
  | .groupRelease _ => true
  | .launchComplete _ => true
  | .graphMemberReady _ => true
  | .cadencedStart _ => true
  | .budgetPublish die _ => decide (die < 8)
  | .engineCommandStart core ch => decide (core < 512) && decide (ch < 2)
  | .engineQueueRoom core slot => decide (core < 512) && decide (slot < 4)
  | .engineBodyLanded core ch => decide (core < 512) && decide (ch < 2)
  | .engineWaitRelease core ch => decide (core < 512) && decide (ch < 2)
  | .collectiveProceed _ _ _ => true
  | .stitchTableLoad => true
  | .stitchTableDefault => true
  | .stitchTableSwitch => true
  | .packetEscape src dst => decide (src < 512) && decide (dst < 512)
  | .flitReceive link _ => decide (link < 16)
  | .linkRetrain link => decide (link < 16)
  | .peerAnswer _ _ => true
  | .peerAccessTimeout _ => true
  | .cgctlWrite _ _ => true
  | .cadenceRemeasure _ _ _ _ => true
  | .bubbleNotice _ _ => true
  | .wholeDeviceBubble _ => true
  | .hostBar0Access _ _ _ _ => true
  | .hostMemoryAccess _ _ _ _ => true
  | .noticeQueuePost => true
  | .hostInvalidate _ => true
  | .hostInvalidateDone => true
  | .attestationRequest => true
  | .attestationDone => true
  | .coldReset _ => true
  | .functionLevelReset => true
  | .thermalExcursion _ => true
  | .thermalStop _ => true
  | .thermalResume _ => true
  | .unitFenceEffect _ _ => true
  | .hbmScrub => true
  | .lifeCounterFlush => true
  | .orderlyShutdown => true
  | .linkTrainingEnd link => decide (link < 16)
  | .softError _ _ => true
  | .powerLoss => true
  | .hostApertureAnswer _ _ => true

/-- An instruction is well formed when the check passes. -/
abbrev Instr.WellFormed (i : Instr) : Prop := i.wf = true

end Sys2Proof
end

