-- ==== Sys2Proof/Decode.lean ====
section
/-! DEFINITION. The decoder of a slot (02 R30 to R47) and the encoder. The decoder refuses a word by name: its error holds
the reason of R36, the field value and the field number that the cause-specific word of *undefined encoding* carries.
Operand codes are not judged here (R35 judges them when the slot executes). DESIGN CHOICE: of an I18 field that is named the
word holds the low 8 bits; where several fields of a slot of the CB form break R34, T is named before C and C before the
immediate (log entry 56). -/

namespace Sys2Proof

/-- Why a word is no instruction (02 R36, reasons 1 to 3). -/
inductive DecodeReason where
  | unassignedOp | unassignedField | brokenZero
  deriving DecidableEq, Repr

/-- The reason code of R36. -/
def DecodeReason.code : DecodeReason → Nat
  | .unassignedOp => 1
  | .unassignedField => 2
  | .brokenZero => 3

/-- A refusal of the decoder: reason, value of the field concerned, and its number (0 OP, 1 D, 2 A, 3 B, 4 F,
5 immediate, 6 T or C), as R36 lays them out. -/
structure DecodeError where
  reason : DecodeReason
  value  : Nat
  field  : Nat
  deriving DecidableEq, Repr

/-- Bits [lo+n-1:lo] of a word. -/
def field (w lo n : Nat) : Nat := w / 2 ^ lo % 2 ^ n
/-- The stop bit (R30). -/
def fS (w : Nat) : Bool := w / 2147483648 % 2 == 1
/-- OP (R30). -/
def fOp (w : Nat) : Nat := field w 24 7
/-- D (R30). -/
def fD (w : Nat) : Nat := field w 18 6
/-- A (R30). -/
def fA (w : Nat) : Nat := field w 12 6
/-- B (R30). -/
def fB (w : Nat) : Nat := field w 6 6
/-- F (R30). -/
def fF (w : Nat) : Nat := field w 0 6
/-- I12 (R30). -/
def fI (w : Nat) : Nat := field w 0 12
/-- I18 (R30). -/
def fJ (w : Nat) : Nat := field w 0 18
/-- T of the CB form (R30). -/
def fT (w : Nat) : Nat := field w 21 3
/-- C of the CB form (R30). -/
def fC (w : Nat) : Nat := field w 18 3
/-- A field as a bit vector. -/
def bits (w lo n : Nat) : BitVec n := BitVec.ofNat n (field w lo n)
/-- A one-bit field. -/
def bit (w lo : Nat) : Bool := field w lo 1 == 1

/-- Refuse with reason 2 (unassigned F or packed-field value) when `bad` holds. -/
def unassignedIf (bad : Bool) (value fieldNo : Nat) (k : Except DecodeError Instr) : Except DecodeError Instr :=
  if bad then .error ⟨.unassignedField, value, fieldNo⟩ else k

/-- Refuse with reason 3 (a field breaks R34) when `bad` holds. -/
def brokenIf (bad : Bool) (value fieldNo : Nat) (k : Except DecodeError Instr) : Except DecodeError Instr :=
  if bad then .error ⟨.brokenZero, value, fieldNo⟩ else k

/-- OP 0x00 (R38 to R46): `add`, `sub`, `mul`, `mulh`…. -/
def decodeOp00 (w : Nat) : Except DecodeError Instr :=
  match fF w with
  | 0 => .ok (.add (fS w) (bits w 18 6) (bits w 12 6) (bits w 6 6))
  | 1 => .ok (.sub (fS w) (bits w 18 6) (bits w 12 6) (bits w 6 6))
  | 2 => .ok (.mul (fS w) (bits w 18 6) (bits w 12 6) (bits w 6 6))
  | 3 => .ok (.mulh (fS w) (bits w 18 6) (bits w 12 6) (bits w 6 6))
  | 4 => .ok (.mulhn (fS w) (bits w 18 6) (bits w 12 6) (bits w 6 6))
  | 5 => .ok (.mad (fS w) (bits w 18 6) (bits w 12 6) (bits w 6 6))
  | 6 => .ok (.div (fS w) (bits w 18 6) (bits w 12 6) (bits w 6 6))
  | 7 => .ok (.divn (fS w) (bits w 18 6) (bits w 12 6) (bits w 6 6))
  | 8 => .ok (.rem (fS w) (bits w 18 6) (bits w 12 6) (bits w 6 6))
  | 9 => .ok (.remn (fS w) (bits w 18 6) (bits w 12 6) (bits w 6 6))
  | 10 => .ok (.and (fS w) (bits w 18 6) (bits w 12 6) (bits w 6 6))
  | 11 => .ok (.or (fS w) (bits w 18 6) (bits w 12 6) (bits w 6 6))
  | 12 => .ok (.xor (fS w) (bits w 18 6) (bits w 12 6) (bits w 6 6))
  | 13 => .ok (.andn (fS w) (bits w 18 6) (bits w 12 6) (bits w 6 6))
  | 14 => .ok (.shl (fS w) (bits w 18 6) (bits w 12 6) (bits w 6 6))
  | 15 => .ok (.shr (fS w) (bits w 18 6) (bits w 12 6) (bits w 6 6))
  | 16 => .ok (.sha (fS w) (bits w 18 6) (bits w 12 6) (bits w 6 6))
  | 17 => .ok (.rot (fS w) (bits w 18 6) (bits w 12 6) (bits w 6 6))
  | 18 => brokenIf (fB w != 56) (fB w) 3 <|
      .ok (.clz (fS w) (bits w 18 6) (bits w 12 6))
  | 19 => brokenIf (fB w != 56) (fB w) 3 <|
      .ok (.ctz (fS w) (bits w 18 6) (bits w 12 6))
  | 20 => brokenIf (fB w != 56) (fB w) 3 <|
      .ok (.popc (fS w) (bits w 18 6) (bits w 12 6))
  | 21 => .ok (.min (fS w) (bits w 18 6) (bits w 12 6) (bits w 6 6))
  | 22 => .ok (.max (fS w) (bits w 18 6) (bits w 12 6) (bits w 6 6))
  | 23 => .ok (.minn (fS w) (bits w 18 6) (bits w 12 6) (bits w 6 6))
  | 24 => .ok (.maxn (fS w) (bits w 18 6) (bits w 12 6) (bits w 6 6))
  | 25 => brokenIf (fB w != 56) (fB w) 3 <|
      .ok (.mov (fS w) (bits w 18 6) (bits w 12 6))
  | _ =>
    if fF w / 2 == 13 then
      .ok (.leaRrScale12 (fS w) (bits w 18 6) (bits w 12 6) (bits w 6 6) (bit w 0))
    else
    if fF w / 2 == 14 then
      .ok (.leaRrScale48 (fS w) (bits w 18 6) (bits w 12 6) (bits w 6 6) (bit w 0))
    else
    .error ⟨.unassignedField, fF w, 4⟩

/-- OP 0x01 (R38 to R46): `cmp`. -/
def decodeOp01 (w : Nat) : Except DecodeError Instr :=
    unassignedIf (fF w % 16 >= 11) (fF w) 4 <|
      unassignedIf (fF w / 16 == 3) (fF w) 4 <|
      .ok (.cmp (fS w) (bits w 18 6) (bits w 12 6) (bits w 6 6) (Combine.ofCode (field w 4 2)) (Cond.ofCode (field w 0 4)))

/-- OP 0x02 (R38 to R46): `sel`. -/
def decodeOp02 (w : Nat) : Except DecodeError Instr :=
    brokenIf (fF w / 16 != 0) (fF w) 4 <|
      .ok (.sel (fS w) (bits w 18 6) (bits w 12 6) (bits w 6 6) (bit w 3) (bits w 0 3))

/-- OP 0x03 (R38 to R46): `ext`. -/
def decodeOp03 (w : Nat) : Except DecodeError Instr :=
    unassignedIf (fB w + fF w + 1 > 64) (fF w) 4 <|
      .ok (.ext (fS w) (bits w 18 6) (bits w 12 6) (bits w 6 6) (bits w 0 6))

/-- OP 0x04 (R38 to R46): `extn`. -/
def decodeOp04 (w : Nat) : Except DecodeError Instr :=
    unassignedIf (fB w + fF w + 1 > 64) (fF w) 4 <|
      .ok (.extn (fS w) (bits w 18 6) (bits w 12 6) (bits w 6 6) (bits w 0 6))

/-- OP 0x05 (R38 to R46): `ins`. -/
def decodeOp05 (w : Nat) : Except DecodeError Instr :=
    unassignedIf (fB w + fF w + 1 > 64) (fF w) 4 <|
      .ok (.ins (fS w) (bits w 18 6) (bits w 12 6) (bits w 6 6) (bits w 0 6))

/-- OP 0x06 (R38 to R46): `wid`. -/
def decodeOp06 (w : Nat) : Except DecodeError Instr :=
    unassignedIf (fI w > 6) (fI w % 256) 5 <|
      brokenIf (fA w != 56) (fA w) 2 <|
      .ok (.wid (fS w) (bits w 18 6) (bits w 0 12))

/-- OP 0x07 (R38 to R46): `lea`. -/
def decodeOp07 (w : Nat) : Except DecodeError Instr :=
    .ok (.leaRi (fS w) (bits w 18 6) (bits w 12 6) (bits w 0 12))

/-- OP 0x08 (R38 to R46): `addi`. -/
def decodeOp08 (w : Nat) : Except DecodeError Instr :=
    .ok (.addi (fS w) (bits w 18 6) (bits w 12 6) (bits w 0 12))

/-- OP 0x09 (R38 to R46): `andi`. -/
def decodeOp09 (w : Nat) : Except DecodeError Instr :=
    .ok (.andi (fS w) (bits w 18 6) (bits w 12 6) (bits w 0 12))

/-- OP 0x0A (R38 to R46): `ori`. -/
def decodeOp0A (w : Nat) : Except DecodeError Instr :=
    .ok (.ori (fS w) (bits w 18 6) (bits w 12 6) (bits w 0 12))

/-- OP 0x0B (R38 to R46): `xori`. -/
def decodeOp0B (w : Nat) : Except DecodeError Instr :=
    .ok (.xori (fS w) (bits w 18 6) (bits w 12 6) (bits w 0 12))

/-- OP 0x0C (R38 to R46): `cmpi`. -/
def decodeOp0C (w : Nat) : Except DecodeError Instr :=
    .ok (.cmpi (fS w) (ImmCond.ofCode (field w 21 3)) (bits w 18 3) (bits w 12 6) (bits w 0 12))

/-- OP 0x0D (R38 to R46): `shli`, `shri`, `shai`. -/
def decodeOp0D (w : Nat) : Except DecodeError Instr :=
    if fI w / 64 % 4 == 0 then
      brokenIf (fI w / 256 != 0) (fI w % 256) 5 <|
      .ok (.shli (fS w) (bits w 18 6) (bits w 12 6) (bits w 0 6))
    else
    if fI w / 64 % 4 == 1 then
      brokenIf (fI w / 256 != 0) (fI w % 256) 5 <|
      .ok (.shri (fS w) (bits w 18 6) (bits w 12 6) (bits w 0 6))
    else
    if fI w / 64 % 4 == 2 then
      brokenIf (fI w / 256 != 0) (fI w % 256) 5 <|
      .ok (.shai (fS w) (bits w 18 6) (bits w 12 6) (bits w 0 6))
    else
    .error ⟨.unassignedField, fI w % 256, 5⟩

/-- OP 0x0E (R38 to R46): `li`. -/
def decodeOp0E (w : Nat) : Except DecodeError Instr :=
    .ok (.li (fS w) (bits w 18 6) (bits w 0 18))

/-- OP 0x0F (R38 to R46): `lih`. -/
def decodeOp0F (w : Nat) : Except DecodeError Instr :=
    .ok (.lih (fS w) (bits w 18 6) (bits w 0 18))

/-- OP 0x10 (R38 to R46): `brp`. -/
def decodeOp10 (w : Nat) : Except DecodeError Instr :=
    brokenIf (fC w != 0) (fC w) 6 <|
      .ok (.brpLabel (fS w) (bits w 21 3) (bits w 0 18))

/-- OP 0x11 (R38 to R46): `brp`. -/
def decodeOp11 (w : Nat) : Except DecodeError Instr :=
    brokenIf (fC w != 0) (fC w) 6 <|
      brokenIf (fJ w % 4096 != 0) (fJ w % 256) 5 <|
      .ok (.brpReg (fS w) (bits w 21 3) (bits w 12 6))

/-- OP 0x12 (R38 to R46): `go`. -/
def decodeOp12 (w : Nat) : Except DecodeError Instr :=
    unassignedIf (fJ w % 4 == 3) (fJ w % 256) 5 <|
      brokenIf (fJ w % 4 == 0 && fC w != 0) (fC w) 6 <|
      brokenIf (fJ w / 4 != 0) (fJ w % 256) 5 <|
      .ok (.go (fS w) (bits w 21 3) (bits w 18 3) (GoMode.ofCode (field w 0 2)))

/-- OP 0x13 (R38 to R46): `call`. -/
def decodeOp13 (w : Nat) : Except DecodeError Instr :=
    brokenIf (fC w != 0) (fC w) 6 <|
      brokenIf (fJ w % 4096 != 0) (fJ w % 256) 5 <|
      .ok (.call (fS w) (bits w 21 3) (bits w 12 6))

/-- OP 0x14 (R38 to R46): `ret`. -/
def decodeOp14 (w : Nat) : Except DecodeError Instr :=
    brokenIf (fT w != 0) (fT w) 6 <|
      brokenIf (fC w != 0) (fC w) 6 <|
      brokenIf (fJ w % 4096 != 0) (fJ w % 256) 5 <|
      .ok (.ret (fS w) (bits w 12 6))

/-- OP 0x15 (R38 to R46): `lp`. -/
def decodeOp15 (w : Nat) : Except DecodeError Instr :=
    unassignedIf (fJ w % 4096 == 0) (fJ w % 256) 5 <|
      brokenIf (fT w != 0) (fT w) 6 <|
      brokenIf (fC w != 0) (fC w) 6 <|
      .ok (.lp (fS w) (bits w 12 6) (bits w 0 12))

/-- OP 0x16 (R38 to R46): `exit`. -/
def decodeOp16 (w : Nat) : Except DecodeError Instr :=
    brokenIf (fT w != 0) (fT w) 6 <|
      brokenIf (fC w != 0) (fC w) 6 <|
      brokenIf (fJ w != 0) (fJ w % 256) 5 <|
      .ok (.exit (fS w))

/-- OP 0x17 (R38 to R46): `nop`. -/
def decodeOp17 (w : Nat) : Except DecodeError Instr :=
    brokenIf (fT w != 0) (fT w) 6 <|
      brokenIf (fC w != 0) (fC w) 6 <|
      brokenIf (fJ w != 0) (fJ w % 256) 5 <|
      .ok (.nop (fS w))

/-- OP 0x18 (R38 to R46): `brk`. -/
def decodeOp18 (w : Nat) : Except DecodeError Instr :=
    brokenIf (fT w != 0) (fT w) 6 <|
      brokenIf (fC w != 0) (fC w) 6 <|
      .ok (.brk (fS w) (bits w 0 18))

/-- OP 0x20 (R38 to R46): `vadd`. -/
def decodeOp20 (w : Nat) : Except DecodeError Instr :=
    .ok (.vadd (fS w) (bits w 18 6) (bits w 12 6) (bits w 6 6) (VTy.ofCode (field w 3 3)) (bits w 0 3))

/-- OP 0x21 (R38 to R46): `vsub`. -/
def decodeOp21 (w : Nat) : Except DecodeError Instr :=
    .ok (.vsub (fS w) (bits w 18 6) (bits w 12 6) (bits w 6 6) (VTy.ofCode (field w 3 3)) (bits w 0 3))

/-- OP 0x22 (R38 to R46): `vmul`. -/
def decodeOp22 (w : Nat) : Except DecodeError Instr :=
    .ok (.vmul (fS w) (bits w 18 6) (bits w 12 6) (bits w 6 6) (VTy.ofCode (field w 3 3)) (bits w 0 3))

/-- OP 0x23 (R38 to R46): `vadd.ftz`, `vadd.sat`. -/
def decodeOp23 (w : Nat) : Except DecodeError Instr :=
    if fF w / 32 == 1 then
      .ok (.vaddFtz (fS w) (bits w 18 6) (bits w 12 6) (bits w 6 6) (FTy.ofCode (field w 3 2)) (bits w 0 3))
    else
    .ok (.vaddSat (fS w) (bits w 18 6) (bits w 12 6) (bits w 6 6) (ITy.ofCode (field w 3 2)) (bits w 0 3))

/-- OP 0x24 (R38 to R46): `vsub.ftz`, `vsub.sat`. -/
def decodeOp24 (w : Nat) : Except DecodeError Instr :=
    if fF w / 32 == 1 then
      .ok (.vsubFtz (fS w) (bits w 18 6) (bits w 12 6) (bits w 6 6) (FTy.ofCode (field w 3 2)) (bits w 0 3))
    else
    .ok (.vsubSat (fS w) (bits w 18 6) (bits w 12 6) (bits w 6 6) (ITy.ofCode (field w 3 2)) (bits w 0 3))

/-- OP 0x25 (R38 to R46): `vmul.ftz`, `vmul.sat`. -/
def decodeOp25 (w : Nat) : Except DecodeError Instr :=
    if fF w / 32 == 1 then
      .ok (.vmulFtz (fS w) (bits w 18 6) (bits w 12 6) (bits w 6 6) (FTy.ofCode (field w 3 2)) (bits w 0 3))
    else
    .ok (.vmulSat (fS w) (bits w 18 6) (bits w 12 6) (bits w 6 6) (ITy.ofCode (field w 3 2)) (bits w 0 3))

/-- OP 0x26 (R38 to R46): `vfma`, `vfms`. -/
def decodeOp26 (w : Nat) : Except DecodeError Instr :=
    if fF w / 32 == 1 then
      .ok (.vfma (fS w) (bits w 18 6) (bits w 12 6) (bits w 6 6) (FTy.ofCode (field w 3 2)) (bits w 0 3))
    else
    .ok (.vfms (fS w) (bits w 18 6) (bits w 12 6) (bits w 6 6) (FTy.ofCode (field w 3 2)) (bits w 0 3))

/-- OP 0x27 (R38 to R46): `vfnma`, `vsha`. -/
def decodeOp27 (w : Nat) : Except DecodeError Instr :=
    if fF w / 32 == 1 then
      .ok (.vfnma (fS w) (bits w 18 6) (bits w 12 6) (bits w 6 6) (FTy.ofCode (field w 3 2)) (bits w 0 3))
    else
    .ok (.vsha (fS w) (bits w 18 6) (bits w 12 6) (bits w 6 6) (ITy.ofCode (field w 3 2)) (bits w 0 3))

/-- OP 0x28 (R38 to R46): `vmin`. -/
def decodeOp28 (w : Nat) : Except DecodeError Instr :=
    .ok (.vmin (fS w) (bits w 18 6) (bits w 12 6) (bits w 6 6) (VTy.ofCode (field w 3 3)) (bits w 0 3))

/-- OP 0x29 (R38 to R46): `vmax`. -/
def decodeOp29 (w : Nat) : Except DecodeError Instr :=
    .ok (.vmax (fS w) (bits w 18 6) (bits w 12 6) (bits w 6 6) (VTy.ofCode (field w 3 3)) (bits w 0 3))

/-- OP 0x2A (R38 to R46): `vmaxn`, `vminn`. -/
def decodeOp2A (w : Nat) : Except DecodeError Instr :=
    if fF w / 32 == 1 then
      .ok (.vmaxn (fS w) (bits w 18 6) (bits w 12 6) (bits w 6 6) (ITy.ofCode (field w 3 2)) (bits w 0 3))
    else
    .ok (.vminn (fS w) (bits w 18 6) (bits w 12 6) (bits w 6 6) (ITy.ofCode (field w 3 2)) (bits w 0 3))

/-- OP 0x2B (R38 to R46): `vshr`, `vshl`. -/
def decodeOp2B (w : Nat) : Except DecodeError Instr :=
    if fF w / 32 == 1 then
      .ok (.vshr (fS w) (bits w 18 6) (bits w 12 6) (bits w 6 6) (ITy.ofCode (field w 3 2)) (bits w 0 3))
    else
    .ok (.vshl (fS w) (bits w 18 6) (bits w 12 6) (bits w 6 6) (ITy.ofCode (field w 3 2)) (bits w 0 3))

/-- OP 0x2C (R38 to R46): `vcmp`. -/
def decodeOp2C (w : Nat) : Except DecodeError Instr :=
    .ok (.vcmp (fS w) (VCond.ofCode (field w 22 2)) (bits w 18 4) (bits w 12 6) (bits w 6 6) (VTy.ofCode (field w 3 3)) (bits w 0 3))

/-- OP 0x2D (R38 to R46): `vcvt`. -/
def decodeOp2D (w : Nat) : Except DecodeError Instr :=
    unassignedIf (fB w % 8 == 7) (fB w) 3 <|
      .ok (.vcvt (fS w) (bits w 18 6) (bits w 12 6) (VTy.ofCode (field w 9 3)) (Rounding.ofCode (field w 6 3)) (VTy.ofCode (field w 3 3)) (bits w 0 3))

/-- OP 0x2E (R38 to R46): `vabs`, `vneg`, `vnot`, `vmov`…. -/
def decodeOp2E (w : Nat) : Except DecodeError Instr :=
  match fF w with
  | 0 => .ok (.vabs (fS w) (bits w 18 6) (bits w 12 6) (VTy.ofCode (field w 9 3)) (bits w 6 3))
  | 1 => .ok (.vneg (fS w) (bits w 18 6) (bits w 12 6) (VTy.ofCode (field w 9 3)) (bits w 6 3))
  | 2 => .ok (.vnot (fS w) (bits w 18 6) (bits w 12 6) (VTy.ofCode (field w 9 3)) (bits w 6 3))
  | 3 => .ok (.vmov (fS w) (bits w 18 6) (bits w 12 6) (VTy.ofCode (field w 9 3)) (bits w 6 3))
  | 9 => .ok (.vbcast (fS w) (bits w 18 6) (bits w 12 6) (VTy.ofCode (field w 9 3)) (bits w 6 3))
  | 10 => .ok (.vli (fS w) (bits w 18 6) (bits w 12 6) (VTy.ofCode (field w 9 3)) (bits w 6 3))
  | 11 => .ok (.vcompress (fS w) (bits w 18 6) (bits w 12 6) (VTy.ofCode (field w 9 3)) (bits w 6 3))
  | 12 => .ok (.vexpand (fS w) (bits w 18 6) (bits w 12 6) (VTy.ofCode (field w 9 3)) (bits w 6 3))
  | 16 => .ok (.vredAdd (fS w) (bits w 18 6) (bits w 12 6) (VTy.ofCode (field w 9 3)) (bits w 6 3))
  | 17 => .ok (.vredMin (fS w) (bits w 18 6) (bits w 12 6) (VTy.ofCode (field w 9 3)) (bits w 6 3))
  | 18 => .ok (.vredMax (fS w) (bits w 18 6) (bits w 12 6) (VTy.ofCode (field w 9 3)) (bits w 6 3))
  | 24 => .ok (.vscanAdd (fS w) (bits w 18 6) (bits w 12 6) (VTy.ofCode (field w 9 3)) (bits w 6 3))
  | 25 => .ok (.vscanMin (fS w) (bits w 18 6) (bits w 12 6) (VTy.ofCode (field w 9 3)) (bits w 6 3))
  | 26 => .ok (.vscanMax (fS w) (bits w 18 6) (bits w 12 6) (VTy.ofCode (field w 9 3)) (bits w 6 3))
  | 4 => unassignedIf (fB w / 8 < 4) (fB w) 3 <|
      .ok (.vrcp (fS w) (bits w 18 6) (bits w 12 6) (FTy.ofCode (field w 9 2)) (bits w 6 3))
  | 5 => unassignedIf (fB w / 8 < 4) (fB w) 3 <|
      .ok (.vrsqrt (fS w) (bits w 18 6) (bits w 12 6) (FTy.ofCode (field w 9 2)) (bits w 6 3))
  | 6 => unassignedIf (fB w / 8 < 4) (fB w) 3 <|
      .ok (.vsqrt (fS w) (bits w 18 6) (bits w 12 6) (FTy.ofCode (field w 9 2)) (bits w 6 3))
  | 7 => unassignedIf (fB w / 8 < 4) (fB w) 3 <|
      .ok (.vexp2 (fS w) (bits w 18 6) (bits w 12 6) (FTy.ofCode (field w 9 2)) (bits w 6 3))
  | 8 => unassignedIf (fB w / 8 < 4) (fB w) 3 <|
      .ok (.vlog2 (fS w) (bits w 18 6) (bits w 12 6) (FTy.ofCode (field w 9 2)) (bits w 6 3))
  | 19 => unassignedIf (fB w / 8 >= 4) (fB w) 3 <|
      .ok (.vredMinn (fS w) (bits w 18 6) (bits w 12 6) (ITy.ofCode (field w 9 2)) (bits w 6 3))
  | 20 => unassignedIf (fB w / 8 >= 4) (fB w) 3 <|
      .ok (.vredMaxn (fS w) (bits w 18 6) (bits w 12 6) (ITy.ofCode (field w 9 2)) (bits w 6 3))
  | 21 => unassignedIf (fB w / 8 >= 4) (fB w) 3 <|
      .ok (.vredAnd (fS w) (bits w 18 6) (bits w 12 6) (ITy.ofCode (field w 9 2)) (bits w 6 3))
  | 22 => unassignedIf (fB w / 8 >= 4) (fB w) 3 <|
      .ok (.vredOr (fS w) (bits w 18 6) (bits w 12 6) (ITy.ofCode (field w 9 2)) (bits w 6 3))
  | 23 => unassignedIf (fB w / 8 >= 4) (fB w) 3 <|
      .ok (.vredXor (fS w) (bits w 18 6) (bits w 12 6) (ITy.ofCode (field w 9 2)) (bits w 6 3))
  | _ =>
    if fF w / 32 == 1 then
      unassignedIf (satFmt (fF w / 2 % 16) && fF w % 2 == 0) (fF w) 4 <|
      .ok (.vcvtFormat (fS w) (bits w 18 6) (bits w 12 6) (VTy.ofCode (field w 9 3)) (bits w 6 3) (NarrowFmt.ofCode (field w 1 4)) (bit w 0))
    else
    .error ⟨.unassignedField, fF w, 4⟩

/-- OP 0x2F (R38 to R46): `kand`, `kor`, `kxor`, `vtoc`…. -/
def decodeOp2F (w : Nat) : Except DecodeError Instr :=
  match fF w with
  | 0 => .ok (.kand (fS w) (bits w 18 6) (bits w 12 6) (bits w 6 6))
  | 1 => .ok (.kor (fS w) (bits w 18 6) (bits w 12 6) (bits w 6 6))
  | 2 => .ok (.kxor (fS w) (bits w 18 6) (bits w 12 6) (bits w 6 6))
  | 5 => .ok (.vtoc (fS w) (bits w 18 6) (bits w 12 6) (bits w 6 6))
  | 6 => .ok (.vany (fS w) (bits w 18 6) (bits w 12 6) (bits w 6 6))
  | 7 => .ok (.vall (fS w) (bits w 18 6) (bits w 12 6) (bits w 6 6))
  | 28 => .ok (.vand (fS w) (bits w 18 6) (bits w 12 6) (bits w 6 6))
  | 29 => .ok (.vor (fS w) (bits w 18 6) (bits w 12 6) (bits w 6 6))
  | 30 => .ok (.vxor (fS w) (bits w 18 6) (bits w 12 6) (bits w 6 6))
  | 3 => brokenIf (fB w != 56) (fB w) 3 <|
      .ok (.knot (fS w) (bits w 18 6) (bits w 12 6))
  | 4 => brokenIf (fB w != 56) (fB w) 3 <|
      .ok (.kpop (fS w) (bits w 18 6) (bits w 12 6))
  | _ =>
    if fF w / 4 == 2 then
      .ok (.vext (fS w) (bits w 18 6) (bits w 12 6) (bits w 6 6) (ITy.ofCode (field w 0 2)))
    else
    if fF w / 4 == 3 then
      .ok (.vins (fS w) (bits w 18 6) (bits w 12 6) (bits w 6 6) (ITy.ofCode (field w 0 2)))
    else
    if fF w / 4 == 4 then
      .ok (.vperm (fS w) (bits w 18 6) (bits w 12 6) (bits w 6 6) (ITy.ofCode (field w 0 2)))
    else
    if fF w / 4 == 5 then
      .ok (.vclampInt (fS w) (bits w 18 6) (bits w 12 6) (bits w 6 6) (ITy.ofCode (field w 0 2)))
    else
    if fF w / 4 == 6 then
      .ok (.vclampFp (fS w) (bits w 18 6) (bits w 12 6) (bits w 6 6) (FTy.ofCode (field w 0 2)))
    else
    if fF w / 32 == 1 then
      .ok (.vsel (fS w) (bits w 18 6) (bits w 12 6) (bits w 6 6) (ITy.ofCode (field w 3 2)) (bits w 0 3))
    else
    .error ⟨.unassignedField, fF w, 4⟩

/-- OP 0x30 (R38 to R46): `ld`, `ld.a`. -/
def decodeOp30 (w : Nat) : Except DecodeError Instr :=
    if fF w / 32 == 0 then
      unassignedIf (fF w / 4 % 8 == 7) (fF w) 4 <|
      .ok (.ldRr (fS w) (bits w 18 6) (bits w 12 6) (bits w 6 6) (Width.ofCode (field w 2 3)) (bits w 0 2))
    else
    unassignedIf (fF w / 4 % 8 == 7) (fF w) 4 <|
      .ok (.ldA (fS w) (bits w 18 6) (bits w 12 6) (bits w 6 6) (Width.ofCode (field w 2 3)) (bits w 0 2))

/-- OP 0x31 (R38 to R46): `ld`. -/
def decodeOp31 (w : Nat) : Except DecodeError Instr :=
    .ok (.ldRi (fS w) (bits w 18 6) (bits w 12 6) (bits w 0 12))

/-- OP 0x32 (R38 to R46): `st`. -/
def decodeOp32 (w : Nat) : Except DecodeError Instr :=
    unassignedIf (fF w / 4 % 2 == 1) (fF w) 4 <|
      brokenIf (fF w / 32 != 0) (fF w) 4 <|
      .ok (.stRr (fS w) (bits w 18 6) (bits w 12 6) (bits w 6 6) (ITy.ofCode (field w 3 2)) (bits w 0 2))

/-- OP 0x33 (R38 to R46): `st`. -/
def decodeOp33 (w : Nat) : Except DecodeError Instr :=
    .ok (.stRi (fS w) (bits w 18 6) (bits w 12 6) (bits w 0 12))

/-- OP 0x34 (R38 to R46): `chk.a`. -/
def decodeOp34 (w : Nat) : Except DecodeError Instr :=
    unassignedIf (fF w / 4 % 8 == 7) (fF w) 4 <|
      brokenIf (fF w / 32 != 0) (fF w) 4 <|
      .ok (.chkA (fS w) (bits w 18 6) (bits w 12 6) (bits w 6 6) (Width.ofCode (field w 2 3)) (bits w 0 2))

/-- OP 0x35 (R38 to R46): `ydesc`. -/
def decodeOp35 (w : Nat) : Except DecodeError Instr :=
    .ok (.ydesc (fS w) (bits w 18 6) (bits w 12 6) (bits w 0 12))

/-- OP 0x36 (R38 to R46): `vld`, `vld.a`. -/
def decodeOp36 (w : Nat) : Except DecodeError Instr :=
    if fF w / 8 % 2 == 0 then
      .ok (.vldRr (fS w) (bits w 18 6) (bits w 12 6) (bits w 6 6) (bits w 4 2) (bits w 0 3))
    else
    .ok (.vldA (fS w) (bits w 18 6) (bits w 12 6) (bits w 6 6) (bits w 4 2) (bits w 0 3))

/-- OP 0x37 (R38 to R46): `vld`. -/
def decodeOp37 (w : Nat) : Except DecodeError Instr :=
    .ok (.vldRi (fS w) (bits w 18 6) (bits w 12 6) (bits w 0 12))

/-- OP 0x38 (R38 to R46): `vst`. -/
def decodeOp38 (w : Nat) : Except DecodeError Instr :=
    brokenIf (fF w / 8 % 2 != 0) (fF w) 4 <|
      .ok (.vstRr (fS w) (bits w 18 6) (bits w 12 6) (bits w 6 6) (bits w 4 2) (bits w 0 3))

/-- OP 0x39 (R38 to R46): `vst`. -/
def decodeOp39 (w : Nat) : Except DecodeError Instr :=
    .ok (.vstRi (fS w) (bits w 18 6) (bits w 12 6) (bits w 0 12))

/-- OP 0x3A (R38 to R46): `vldg`. -/
def decodeOp3A (w : Nat) : Except DecodeError Instr :=
    .ok (.vldg (fS w) (bits w 18 6) (bits w 12 6) (bits w 6 6) (ITy.ofCode (field w 4 2)) (bit w 3) (bits w 0 3))

/-- OP 0x3B (R38 to R46): `vsts`. -/
def decodeOp3B (w : Nat) : Except DecodeError Instr :=
    .ok (.vsts (fS w) (bits w 18 6) (bits w 12 6) (bits w 6 6) (ITy.ofCode (field w 4 2)) (bit w 3) (bits w 0 3))

/-- OP 0x3C (R38 to R46): `vldb`, `zpop`, `vchk.a`. -/
def decodeOp3C (w : Nat) : Except DecodeError Instr :=
    if fF w / 8 % 2 == 0 then
      .ok (.vldb (fS w) (bits w 18 6) (bits w 12 6) (bits w 6 6) (ITy.ofCode (field w 4 2)) (bits w 0 3))
    else
    if fF w / 8 == 1 then
      brokenIf (fB w != 56) (fB w) 3 <|
      .ok (.zpop (fS w) (bits w 18 6) (bits w 12 6) (bits w 0 3))
    else
    if fF w / 8 == 3 then
      .ok (.vchkA (fS w) (bits w 18 6) (bits w 12 6) (bits w 6 6) (bits w 0 3))
    else
    .error ⟨.unassignedField, fF w, 4⟩

/-- OP 0x3D (R38 to R46): `vldy`, `vsty`. -/
def decodeOp3D (w : Nat) : Except DecodeError Instr :=
    if fF w / 2 % 2 == 0 then
      brokenIf (fF w % 2 == 1) (fF w) 4 <|
      .ok (.vldy (fS w) (bits w 18 6) (bits w 12 6) (bits w 6 6) (bits w 2 4))
    else
    .ok (.vsty (fS w) (bits w 18 6) (bits w 12 6) (bits w 6 6) (bits w 2 4) (bit w 0))

/-- OP 0x3E (R38 to R46): `atom`. -/
def decodeOp3E (w : Nat) : Except DecodeError Instr :=
    unassignedIf (fF w % 16 >= 9) (fF w) 4 <|
      .ok (.atom (fS w) (bits w 18 6) (bits w 12 6) (bits w 6 6) (Scope.ofCode (field w 4 2)) (AtomOp.ofCode (field w 0 4)))

/-- OP 0x3F (R38 to R46): `vatom`. -/
def decodeOp3F (w : Nat) : Except DecodeError Instr :=
    .ok (.vatom (fS w) (bits w 18 6) (bits w 12 6) (bits w 6 6) (VAtomOp.ofCode (field w 3 3)) (bits w 0 3))

/-- OP 0x40 (R38 to R46): `acc.alloc`, `acc.alloc.t`, `acc.free`, `acc.zero`…. -/
def decodeOp40 (w : Nat) : Except DecodeError Instr :=
    if fF w % 8 == 0 then
      brokenIf (fF w / 8 != 0) (fF w) 4 <|
      .ok (.accAlloc (fS w) (bits w 18 6) (bits w 12 6) (bits w 6 6))
    else
    if fF w % 8 == 1 then
      brokenIf (fB w != 56) (fB w) 3 <|
      brokenIf (fF w / 8 != 0) (fF w) 4 <|
      .ok (.accAllocT (fS w) (bits w 18 6) (bits w 12 6))
    else
    if fF w % 8 == 2 then
      brokenIf (fD w != 56) (fD w) 1 <|
      brokenIf (fF w / 8 != 0) (fF w) 4 <|
      .ok (.accFree (fS w) (bits w 12 6) (bits w 6 6))
    else
    if fF w % 8 == 3 then
      brokenIf (fA w != 56) (fA w) 2 <|
      brokenIf (fB w != 56) (fB w) 3 <|
      brokenIf (fF w / 8 != 0) (fF w) 4 <|
      .ok (.accZero (fS w) (bits w 18 6))
    else
    if fF w % 8 == 4 then
      brokenIf (fF w / 8 != 0) (fF w) 4 <|
      .ok (.accRd (fS w) (bits w 18 6) (bits w 12 6) (bits w 6 6))
    else
    if fF w % 8 == 5 then
      brokenIf (fF w / 8 != 0) (fF w) 4 <|
      .ok (.accWr (fS w) (bits w 18 6) (bits w 12 6) (bits w 6 6))
    else
    .error ⟨.unassignedField, fF w, 4⟩

/-- OP 0x41 (R38 to R46): `mma`. -/
def decodeOp41 (w : Nat) : Except DecodeError Instr :=
    .ok (.mma (fS w) (bits w 18 6) (bits w 12 6) (bits w 6 6) (MmaFmt.ofCode (field w 3 3)) (bit w 2) (bit w 1) (bit w 0))

/-- OP 0x42 (R38 to R46): `mma.sp`. -/
def decodeOp42 (w : Nat) : Except DecodeError Instr :=
    unassignedIf (fF w / 16 == 3 || fF w / 2 % 8 >= 6) (fF w) 4 <|
      .ok (.mmaSp (fS w) (bits w 18 6) (bits w 12 6) (bits w 6 6) (SpFmt.ofCode (field w 4 2)) (bits w 1 3) (bit w 0))

/-- OP 0x43 (R38 to R46): `mma.t3`. -/
def decodeOp43 (w : Nat) : Except DecodeError Instr :=
    brokenIf (fF w / 4 != 0) (fF w) 4 <|
      .ok (.mmaT3 (fS w) (bits w 18 6) (bits w 12 6) (bits w 6 6) (bit w 1) (bit w 0))

/-- OP 0x44 (R38 to R46): `mma.x`. -/
def decodeOp44 (w : Nat) : Except DecodeError Instr :=
    unassignedIf (fF w / 8 >= 4) (fF w) 4 <|
      .ok (.mmaX (fS w) (bits w 18 6) (bits w 12 6) (bits w 6 6) (XFmt.ofCode (field w 3 3)) (bit w 2) (bit w 1) (bit w 0))

/-- OP 0x45 (R38 to R46): `scl`. -/
def decodeOp45 (w : Nat) : Except DecodeError Instr :=
    brokenIf (fD w != 56) (fD w) 1 <|
      brokenIf (fF w != 0) (fF w) 4 <|
      .ok (.scl (fS w) (bits w 12 6) (bits w 6 6))

/-- OP 0x46 (R38 to R46): `sel.ld`. -/
def decodeOp46 (w : Nat) : Except DecodeError Instr :=
    .ok (.selLd (fS w) (bits w 18 6) (bits w 0 18))

/-- OP 0x47 (R38 to R46): `rdesc`, `rpop`, `rstat`, `zdesc`. -/
def decodeOp47 (w : Nat) : Except DecodeError Instr :=
    if fF w % 4 == 0 then
      brokenIf (fF w / 4 != 0) (fF w) 4 <|
      .ok (.rdesc (fS w) (bits w 18 6) (bits w 12 6) (bits w 6 6))
    else
    if fF w % 4 == 1 then
      brokenIf (fA w != 56) (fA w) 2 <|
      brokenIf (fB w != 56) (fB w) 3 <|
      brokenIf (fF w / 4 != 0) (fF w) 4 <|
      .ok (.rpop (fS w) (bits w 18 6))
    else
    if fF w % 4 == 2 then
      brokenIf (fB w != 56) (fB w) 3 <|
      brokenIf (fF w / 4 != 0) (fF w) 4 <|
      .ok (.rstat (fS w) (bits w 18 6) (bits w 12 6))
    else
    if fF w % 4 == 3 then
      brokenIf (fF w / 4 != 0) (fF w) 4 <|
      .ok (.zdesc (fS w) (bits w 18 6) (bits w 12 6) (bits w 6 6))
    else
    .error ⟨.unassignedField, fF w, 4⟩

/-- OP 0x48 (R38 to R46): `wb`. -/
def decodeOp48 (w : Nat) : Except DecodeError Instr :=
    unassignedIf (fF w % 4 == 3) (fF w) 4 <|
      brokenIf (fF w / 4 % 2 == 0 && fF w % 4 != 0) (fF w) 4 <|
      .ok (.wb (fS w) (bits w 18 6) (bits w 12 6) (bits w 6 6) (WbFmt.ofCode (field w 3 3)) (bit w 2) (PruneKind.ofCode (field w 0 2)))

/-- OP 0x49 (R38 to R46): `cpy`. -/
def decodeOp49 (w : Nat) : Except DecodeError Instr :=
    brokenIf (fD w != 56) (fD w) 1 <|
      brokenIf (fF w / 2 != 0) (fF w) 4 <|
      .ok (.cpy (fS w) (bits w 12 6) (bits w 6 6) (bit w 0))

/-- OP 0x4A (R38 to R46): `cpy.mm`. -/
def decodeOp4A (w : Nat) : Except DecodeError Instr :=
    brokenIf (fF w / 2 != 0) (fF w) 4 <|
      .ok (.cpyMm (fS w) (bits w 18 6) (bits w 12 6) (bits w 6 6) (bit w 0))

/-- OP 0x4B (R38 to R46): `cpyb`. -/
def decodeOp4B (w : Nat) : Except DecodeError Instr :=
    brokenIf (fD w != 56) (fD w) 1 <|
      brokenIf (fF w / 2 != 0) (fF w) 4 <|
      .ok (.cpyb (fS w) (bits w 12 6) (bits w 6 6) (bit w 0))

/-- OP 0x4C (R38 to R46): `coll`. -/
def decodeOp4C (w : Nat) : Except DecodeError Instr :=
    brokenIf (fD w != 56) (fD w) 1 <|
      brokenIf (fF w / 2 != 0) (fF w) 4 <|
      .ok (.coll (fS w) (bits w 12 6) (bits w 6 6) (bit w 0))

/-- OP 0x4D (R38 to R46): `drain`, `pub`, `ecan`, `estat`. -/
def decodeOp4D (w : Nat) : Except DecodeError Instr :=
    if fF w / 16 == 0 then
      brokenIf (fD w != 56) (fD w) 1 <|
      brokenIf (fA w != 56) (fA w) 2 <|
      brokenIf (fB w != 56) (fB w) 3 <|
      brokenIf (fF w / 2 % 8 != 0) (fF w) 4 <|
      .ok (.drain (fS w) (bit w 0))
    else
    if fF w / 16 == 1 then
      brokenIf (fD w != 56) (fD w) 1 <|
      brokenIf (fB w != 56) (fB w) 3 <|
      brokenIf (fF w % 16 != 0) (fF w) 4 <|
      .ok (.pub (fS w) (bits w 12 6))
    else
    if fF w / 16 == 2 then
      brokenIf (fD w != 56) (fD w) 1 <|
      brokenIf (fB w != 56) (fB w) 3 <|
      brokenIf (fF w / 2 % 8 != 0) (fF w) 4 <|
      .ok (.ecan (fS w) (bits w 12 6) (bit w 0))
    else
    brokenIf (fA w != 56) (fA w) 2 <|
      brokenIf (fB w != 56) (fB w) 3 <|
      brokenIf (fF w / 2 % 8 != 0) (fF w) 4 <|
      .ok (.estat (fS w) (bits w 18 6) (bit w 0))

/-- OP 0x4E (R38 to R46): `sctr`. -/
def decodeOp4E (w : Nat) : Except DecodeError Instr :=
    brokenIf (fF w / 2 != 0) (fF w) 4 <|
      .ok (.sctr (fS w) (bits w 18 6) (bits w 12 6) (bits w 6 6) (bit w 0))

/-- OP 0x4F (R38 to R46): `yidx`, `ychk`. -/
def decodeOp4F (w : Nat) : Except DecodeError Instr :=
    if fF w % 2 == 0 then
      brokenIf (fB w != 56) (fB w) 3 <|
      brokenIf (fF w / 2 % 2 != 0) (fF w) 4 <|
      .ok (.yidx (fS w) (bits w 18 6) (bits w 12 6) (bits w 2 4))
    else
    brokenIf (fB w != 56) (fB w) 3 <|
      brokenIf (fF w / 2 % 2 != 0) (fF w) 4 <|
      .ok (.ychk (fS w) (bits w 18 6) (bits w 12 6) (bits w 2 4))

/-- OP 0x50 (R38 to R46): `fwait`. -/
def decodeOp50 (w : Nat) : Except DecodeError Instr :=
    unassignedIf (fI w >= 2048) (fI w % 256) 5 <|
      .ok (.fwait (fS w) (bits w 18 6) (bits w 12 6) (bits w 0 12))

/-- OP 0x51 (R38 to R46): `fpost`. -/
def decodeOp51 (w : Nat) : Except DecodeError Instr :=
    unassignedIf (fI w >= 2048) (fI w % 256) 5 <|
      .ok (.fpost (fS w) (bits w 18 6) (bits w 12 6) (bits w 0 12))

/-- OP 0x52 (R38 to R46): `fpostr`. -/
def decodeOp52 (w : Nat) : Except DecodeError Instr :=
    brokenIf (fF w != 0) (fF w) 4 <|
      .ok (.fpostr (fS w) (bits w 18 6) (bits w 12 6) (bits w 6 6))

/-- OP 0x53 (R38 to R46): `bar.init`, `bar.arrive`, `bar.expect`, `bar.wait`…. -/
def decodeOp53 (w : Nat) : Except DecodeError Instr :=
    if fF w % 8 == 0 then
      brokenIf (fD w != 56) (fD w) 1 <|
      brokenIf (fF w / 8 != 0) (fF w) 4 <|
      .ok (.barInit (fS w) (bits w 12 6) (bits w 6 6))
    else
    if fF w % 8 == 1 then
      brokenIf (fF w / 8 != 0) (fF w) 4 <|
      .ok (.barArrive (fS w) (bits w 18 6) (bits w 12 6) (bits w 6 6))
    else
    if fF w % 8 == 2 then
      brokenIf (fF w / 8 != 0) (fF w) 4 <|
      .ok (.barExpect (fS w) (bits w 18 6) (bits w 12 6) (bits w 6 6))
    else
    if fF w % 8 == 3 then
      brokenIf (fD w != 56) (fD w) 1 <|
      brokenIf (fF w / 8 != 0) (fF w) 4 <|
      .ok (.barWait (fS w) (bits w 12 6) (bits w 6 6))
    else
    if fF w % 8 == 4 then
      brokenIf (fF w / 8 != 0) (fF w) 4 <|
      .ok (.barTest (fS w) (bits w 18 6) (bits w 12 6) (bits w 6 6))
    else
    .error ⟨.unassignedField, fF w, 4⟩

/-- OP 0x54 (R38 to R46): `slv.cfg`, `slv.beg`, `slv.end`, `slv.norm`…. -/
def decodeOp54 (w : Nat) : Except DecodeError Instr :=
    if fF w % 8 == 0 then
      unassignedIf (fF w / 8 % 2 != 0) (fF w) 4 <|
      brokenIf (fF w / 16 != 0) (fF w) 4 <|
      .ok (.slvCfg (fS w) (bits w 18 6) (bits w 12 6) (bits w 6 6))
    else
    if fF w % 8 == 1 then
      unassignedIf (fF w / 8 % 2 != 0) (fF w) 4 <|
      brokenIf (fD w != 56) (fD w) 1 <|
      brokenIf (fA w != 56) (fA w) 2 <|
      brokenIf (fB w != 56) (fB w) 3 <|
      brokenIf (fF w / 16 != 0) (fF w) 4 <|
      .ok (.slvBeg (fS w))
    else
    if fF w % 8 == 2 then
      brokenIf (fA w != 56) (fA w) 2 <|
      brokenIf (fB w != 56) (fB w) 3 <|
      brokenIf (fF w / 16 != 0) (fF w) 4 <|
      .ok (.slvEnd (fS w) (bits w 18 6) (bit w 3))
    else
    if fF w % 8 == 3 then
      unassignedIf (fF w / 8 % 2 != 0) (fF w) 4 <|
      brokenIf (fB w != 56) (fB w) 3 <|
      brokenIf (fF w / 16 != 0) (fF w) 4 <|
      .ok (.slvNorm (fS w) (bits w 18 6) (bits w 12 6))
    else
    if fF w % 8 == 4 then
      unassignedIf (fF w / 8 % 2 != 0) (fF w) 4 <|
      brokenIf (fF w / 16 != 0) (fF w) 4 <|
      .ok (.slvHist (fS w) (bits w 18 6) (bits w 12 6) (bits w 6 6))
    else
    if fF w % 8 == 5 then
      unassignedIf (fF w / 8 % 2 != 0) (fF w) 4 <|
      brokenIf (fD w != 56) (fD w) 1 <|
      brokenIf (fA w != 56) (fA w) 2 <|
      brokenIf (fB w != 56) (fB w) 3 <|
      brokenIf (fF w / 16 != 0) (fF w) 4 <|
      .ok (.slvAbort (fS w))
    else
    .error ⟨.unassignedField, fF w, 4⟩

/-- OP 0x55 (R38 to R46): `fence`. -/
def decodeOp55 (w : Nat) : Except DecodeError Instr :=
    unassignedIf (fF w / 4 % 4 == 3) (fF w) 4 <|
      brokenIf (fD w != 56) (fD w) 1 <|
      brokenIf (fA w != 56) (fA w) 2 <|
      brokenIf (fB w != 56) (fB w) 3 <|
      brokenIf (fF w / 16 != 0) (fF w) 4 <|
      .ok (.fence (fS w) (FenceKind.ofCode (field w 2 2)) (Scope.ofCode (field w 0 2)))

/-- OP 0x56 (R38 to R46): `ld.acq`. -/
def decodeOp56 (w : Nat) : Except DecodeError Instr :=
    unassignedIf (fF w / 4 % 8 == 7) (fF w) 4 <|
      brokenIf (fF w / 32 != 0) (fF w) 4 <|
      .ok (.ldAcq (fS w) (bits w 18 6) (bits w 12 6) (bits w 6 6) (Width.ofCode (field w 2 3)) (Scope.ofCode (field w 0 2)))

/-- OP 0x57 (R38 to R46): `st.rel`. -/
def decodeOp57 (w : Nat) : Except DecodeError Instr :=
    unassignedIf (fF w / 4 % 2 == 1) (fF w) 4 <|
      brokenIf (fF w / 32 != 0) (fF w) 4 <|
      .ok (.stRel (fS w) (bits w 18 6) (bits w 12 6) (bits w 6 6) (ITy.ofCode (field w 3 2)) (Scope.ofCode (field w 0 2)))

/-- OP 0x58 (R38 to R46): `cwait`. -/
def decodeOp58 (w : Nat) : Except DecodeError Instr :=
    unassignedIf (fI w >= 2048) (fI w % 256) 5 <|
      brokenIf (fD w != 56) (fD w) 1 <|
      .ok (.cwait (fS w) (bits w 12 6) (bits w 0 12))

/-- OP 0x59 (R38 to R46): `lnch`. -/
def decodeOp59 (w : Nat) : Except DecodeError Instr :=
    brokenIf (fD w != 56) (fD w) 1 <|
      brokenIf (fF w != 0) (fF w) 4 <|
      .ok (.lnch (fS w) (bits w 12 6) (bits w 6 6))

/-- OP 0x60 (R38 to R46): `trap`. -/
def decodeOp60 (w : Nat) : Except DecodeError Instr :=
    brokenIf (fD w != 0) (fD w) 1 <|
      .ok (.trap (fS w) (bits w 0 18))

/-- OP 0x61 (R38 to R46): `rfe`. -/
def decodeOp61 (w : Nat) : Except DecodeError Instr :=
    brokenIf (fD w != 56) (fD w) 1 <|
      brokenIf (fA w != 56) (fA w) 2 <|
      brokenIf (fB w != 56) (fB w) 3 <|
      brokenIf (fF w != 0) (fF w) 4 <|
      .ok (.rfe (fS w))

/-- OP 0x62 (R38 to R46): `ctx.save`. -/
def decodeOp62 (w : Nat) : Except DecodeError Instr :=
    brokenIf (fD w != 56) (fD w) 1 <|
      brokenIf (fB w != 56) (fB w) 3 <|
      brokenIf (fF w != 0) (fF w) 4 <|
      .ok (.ctxSave (fS w) (bits w 12 6))

/-- OP 0x63 (R38 to R46): `ctx.load`, `ctx.load.new`. -/
def decodeOp63 (w : Nat) : Except DecodeError Instr :=
    if fF w % 2 == 0 then
      brokenIf (fD w != 56) (fD w) 1 <|
      brokenIf (fB w != 56) (fB w) 3 <|
      brokenIf (fF w / 2 != 0) (fF w) 4 <|
      .ok (.ctxLoad (fS w) (bits w 12 6))
    else
    brokenIf (fD w != 56) (fD w) 1 <|
      brokenIf (fB w == 56) (fB w) 3 <|
      brokenIf (fF w / 2 != 0) (fF w) 4 <|
      .ok (.ctxLoadNew (fS w) (bits w 12 6) (bits w 6 6))

/-- OP 0x64 (R38 to R46): `cr.rd`. -/
def decodeOp64 (w : Nat) : Except DecodeError Instr :=
    brokenIf (fA w != 56) (fA w) 2 <|
      .ok (.crRd (fS w) (bits w 18 6) (bits w 0 12))

/-- OP 0x65 (R38 to R46): `cr.wr`. -/
def decodeOp65 (w : Nat) : Except DecodeError Instr :=
    brokenIf (fA w != 56) (fA w) 2 <|
      .ok (.crWr (fS w) (bits w 18 6) (bits w 0 12))

/-- OP 0x66 (R38 to R46): `tlb.inv`, `tlb.inv.asid`, `tlb.inv.any`, `tlb.inv.all`. -/
def decodeOp66 (w : Nat) : Except DecodeError Instr :=
    if fF w % 4 == 0 then
      brokenIf (fD w != 56) (fD w) 1 <|
      brokenIf (fF w / 4 != 0) (fF w) 4 <|
      .ok (.tlbInv (fS w) (bits w 12 6) (bits w 6 6))
    else
    if fF w % 4 == 1 then
      brokenIf (fD w != 56) (fD w) 1 <|
      brokenIf (fA w != 56) (fA w) 2 <|
      brokenIf (fB w != 56) (fB w) 3 <|
      brokenIf (fF w / 4 != 0) (fF w) 4 <|
      .ok (.tlbInvAsid (fS w))
    else
    if fF w % 4 == 2 then
      brokenIf (fD w != 56) (fD w) 1 <|
      brokenIf (fF w / 4 != 0) (fF w) 4 <|
      .ok (.tlbInvAny (fS w) (bits w 12 6) (bits w 6 6))
    else
    brokenIf (fD w != 56) (fD w) 1 <|
      brokenIf (fA w != 56) (fA w) 2 <|
      brokenIf (fB w != 56) (fB w) 3 <|
      brokenIf (fF w / 4 != 0) (fF w) 4 <|
      .ok (.tlbInvAll (fS w))

/-- OP 0x67 (R38 to R46): `tlb.sync`. -/
def decodeOp67 (w : Nat) : Except DecodeError Instr :=
    brokenIf (fD w != 56) (fD w) 1 <|
      brokenIf (fA w != 56) (fA w) 2 <|
      brokenIf (fB w != 56) (fB w) 3 <|
      brokenIf (fF w != 0) (fF w) 4 <|
      .ok (.tlbSync (fS w))

/-- OP 0x68 (R38 to R46): `ctr.rd`. -/
def decodeOp68 (w : Nat) : Except DecodeError Instr :=
    brokenIf (fB w != 56) (fB w) 3 <|
      brokenIf (fF w / 2 != 0) (fF w) 4 <|
      .ok (.ctrRd (fS w) (bits w 18 6) (bits w 12 6) (bit w 0))

/-- OP 0x69 (R38 to R46): `xlt.inval`. -/
def decodeOp69 (w : Nat) : Except DecodeError Instr :=
    brokenIf (fD w != 56) (fD w) 1 <|
      brokenIf (fF w != 0) (fF w) 4 <|
      .ok (.xltInval (fS w) (bits w 12 6) (bits w 6 6))

/-- OP 0x6A (R38 to R46): `xlt.pin`, `xlt.unpin`. -/
def decodeOp6A (w : Nat) : Except DecodeError Instr :=
    if fF w % 2 == 1 then
      brokenIf (fD w != 56) (fD w) 1 <|
      brokenIf (fF w / 2 != 0) (fF w) 4 <|
      .ok (.xltPin (fS w) (bits w 12 6) (bits w 6 6))
    else
    brokenIf (fD w != 56) (fD w) 1 <|
      brokenIf (fF w / 2 != 0) (fF w) 4 <|
      .ok (.xltUnpin (fS w) (bits w 12 6) (bits w 6 6))

/-- OP 0x6B (R38 to R46): `xlt.hint`. -/
def decodeOp6B (w : Nat) : Except DecodeError Instr :=
    unassignedIf (fF w % 4 == 3) (fF w) 4 <|
      brokenIf (fD w != 56) (fD w) 1 <|
      brokenIf (fF w / 4 != 0) (fF w) 4 <|
      .ok (.xltHint (fS w) (bits w 12 6) (bits w 6 6) (Tier.ofCode (field w 0 2)))

/-- OP 0x6C (R38 to R46): `mc.ld`. -/
def decodeOp6C (w : Nat) : Except DecodeError Instr :=
    brokenIf (fD w != 56) (fD w) 1 <|
      brokenIf (fB w != 56) (fB w) 3 <|
      brokenIf (fF w != 0) (fF w) 4 <|
      .ok (.mcLd (fS w) (bits w 12 6))

/-- The decoder of a 32-bit slot (02 R30, R31, R38 to R47). -/
def decode (w : Nat) : Except DecodeError Instr :=
  if 112 ≤ fOp w then
    .ok (.microcodeSlot (fS w) (bits w 24 4) (bits w 18 6) (bits w 12 6) (bits w 6 6) (bits w 0 6))
  else
  match fOp w with
  | 0 => decodeOp00 w
  | 1 => decodeOp01 w
  | 2 => decodeOp02 w
  | 3 => decodeOp03 w
  | 4 => decodeOp04 w
  | 5 => decodeOp05 w
  | 6 => decodeOp06 w
  | 7 => decodeOp07 w
  | 8 => decodeOp08 w
  | 9 => decodeOp09 w
  | 10 => decodeOp0A w
  | 11 => decodeOp0B w
  | 12 => decodeOp0C w
  | 13 => decodeOp0D w
  | 14 => decodeOp0E w
  | 15 => decodeOp0F w
  | 16 => decodeOp10 w
  | 17 => decodeOp11 w
  | 18 => decodeOp12 w
  | 19 => decodeOp13 w
  | 20 => decodeOp14 w
  | 21 => decodeOp15 w
  | 22 => decodeOp16 w
  | 23 => decodeOp17 w
  | 24 => decodeOp18 w
  | 32 => decodeOp20 w
  | 33 => decodeOp21 w
  | 34 => decodeOp22 w
  | 35 => decodeOp23 w
  | 36 => decodeOp24 w
  | 37 => decodeOp25 w
  | 38 => decodeOp26 w
  | 39 => decodeOp27 w
  | 40 => decodeOp28 w
  | 41 => decodeOp29 w
  | 42 => decodeOp2A w
  | 43 => decodeOp2B w
  | 44 => decodeOp2C w
  | 45 => decodeOp2D w
  | 46 => decodeOp2E w
  | 47 => decodeOp2F w
  | 48 => decodeOp30 w
  | 49 => decodeOp31 w
  | 50 => decodeOp32 w
  | 51 => decodeOp33 w
  | 52 => decodeOp34 w
  | 53 => decodeOp35 w
  | 54 => decodeOp36 w
  | 55 => decodeOp37 w
  | 56 => decodeOp38 w
  | 57 => decodeOp39 w
  | 58 => decodeOp3A w
  | 59 => decodeOp3B w
  | 60 => decodeOp3C w
  | 61 => decodeOp3D w
  | 62 => decodeOp3E w
  | 63 => decodeOp3F w
  | 64 => decodeOp40 w
  | 65 => decodeOp41 w
  | 66 => decodeOp42 w
  | 67 => decodeOp43 w
  | 68 => decodeOp44 w
  | 69 => decodeOp45 w
  | 70 => decodeOp46 w
  | 71 => decodeOp47 w
  | 72 => decodeOp48 w
  | 73 => decodeOp49 w
  | 74 => decodeOp4A w
  | 75 => decodeOp4B w
  | 76 => decodeOp4C w
  | 77 => decodeOp4D w
  | 78 => decodeOp4E w
  | 79 => decodeOp4F w
  | 80 => decodeOp50 w
  | 81 => decodeOp51 w
  | 82 => decodeOp52 w
  | 83 => decodeOp53 w
  | 84 => decodeOp54 w
  | 85 => decodeOp55 w
  | 86 => decodeOp56 w
  | 87 => decodeOp57 w
  | 88 => decodeOp58 w
  | 89 => decodeOp59 w
  | 96 => decodeOp60 w
  | 97 => decodeOp61 w
  | 98 => decodeOp62 w
  | 99 => decodeOp63 w
  | 100 => decodeOp64 w
  | 101 => decodeOp65 w
  | 102 => decodeOp66 w
  | 103 => decodeOp67 w
  | 104 => decodeOp68 w
  | 105 => decodeOp69 w
  | 106 => decodeOp6A w
  | 107 => decodeOp6B w
  | 108 => decodeOp6C w
  | op => .error ⟨.unassignedOp, op, 0⟩

/-- The number of a Bool field. -/
def flag (b : Bool) : Nat := if b then 1 else 0

/-- The word of a slot (02 R30 to R47); an event has none. -/
def encode : Instr → Option Nat
  | .add s d a b => some (flag s * 2147483648 + 0 + d.toNat * 262144 + a.toNat * 4096 + b.toNat * 64)
  | .sub s d a b => some (flag s * 2147483648 + 1 + d.toNat * 262144 + a.toNat * 4096 + b.toNat * 64)
  | .mul s d a b => some (flag s * 2147483648 + 2 + d.toNat * 262144 + a.toNat * 4096 + b.toNat * 64)
  | .mulh s d a b => some (flag s * 2147483648 + 3 + d.toNat * 262144 + a.toNat * 4096 + b.toNat * 64)
  | .mulhn s d a b => some (flag s * 2147483648 + 4 + d.toNat * 262144 + a.toNat * 4096 + b.toNat * 64)
  | .mad s d a b => some (flag s * 2147483648 + 5 + d.toNat * 262144 + a.toNat * 4096 + b.toNat * 64)
  | .div s d a b => some (flag s * 2147483648 + 6 + d.toNat * 262144 + a.toNat * 4096 + b.toNat * 64)
  | .divn s d a b => some (flag s * 2147483648 + 7 + d.toNat * 262144 + a.toNat * 4096 + b.toNat * 64)
  | .rem s d a b => some (flag s * 2147483648 + 8 + d.toNat * 262144 + a.toNat * 4096 + b.toNat * 64)
  | .remn s d a b => some (flag s * 2147483648 + 9 + d.toNat * 262144 + a.toNat * 4096 + b.toNat * 64)
  | .and s d a b => some (flag s * 2147483648 + 10 + d.toNat * 262144 + a.toNat * 4096 + b.toNat * 64)
  | .or s d a b => some (flag s * 2147483648 + 11 + d.toNat * 262144 + a.toNat * 4096 + b.toNat * 64)
  | .xor s d a b => some (flag s * 2147483648 + 12 + d.toNat * 262144 + a.toNat * 4096 + b.toNat * 64)
  | .andn s d a b => some (flag s * 2147483648 + 13 + d.toNat * 262144 + a.toNat * 4096 + b.toNat * 64)
  | .shl s d a b => some (flag s * 2147483648 + 14 + d.toNat * 262144 + a.toNat * 4096 + b.toNat * 64)
  | .shr s d a b => some (flag s * 2147483648 + 15 + d.toNat * 262144 + a.toNat * 4096 + b.toNat * 64)
  | .sha s d a b => some (flag s * 2147483648 + 16 + d.toNat * 262144 + a.toNat * 4096 + b.toNat * 64)
  | .rot s d a b => some (flag s * 2147483648 + 17 + d.toNat * 262144 + a.toNat * 4096 + b.toNat * 64)
  | .clz s d a => some (flag s * 2147483648 + 3602 + d.toNat * 262144 + a.toNat * 4096)
  | .ctz s d a => some (flag s * 2147483648 + 3603 + d.toNat * 262144 + a.toNat * 4096)
  | .popc s d a => some (flag s * 2147483648 + 3604 + d.toNat * 262144 + a.toNat * 4096)
  | .min s d a b => some (flag s * 2147483648 + 21 + d.toNat * 262144 + a.toNat * 4096 + b.toNat * 64)
  | .max s d a b => some (flag s * 2147483648 + 22 + d.toNat * 262144 + a.toNat * 4096 + b.toNat * 64)
  | .minn s d a b => some (flag s * 2147483648 + 23 + d.toNat * 262144 + a.toNat * 4096 + b.toNat * 64)
  | .maxn s d a b => some (flag s * 2147483648 + 24 + d.toNat * 262144 + a.toNat * 4096 + b.toNat * 64)
  | .mov s d a => some (flag s * 2147483648 + 3609 + d.toNat * 262144 + a.toNat * 4096)
  | .leaRrScale12 s d a b x => some (flag s * 2147483648 + 26 + d.toNat * 262144 + a.toNat * 4096 + b.toNat * 64 + flag x)
  | .leaRrScale48 s d a b x => some (flag s * 2147483648 + 28 + d.toNat * 262144 + a.toNat * 4096 + b.toNat * 64 + flag x)
  | .cmp s d a b m c => some (flag s * 2147483648 + 16777216 + d.toNat * 262144 + a.toNat * 4096 + b.toNat * 64 + m.code * 16 + c.code)
  | .sel s d a b n c => some (flag s * 2147483648 + 33554432 + d.toNat * 262144 + a.toNat * 4096 + b.toNat * 64 + flag n * 8 + c.toNat)
  | .ext s d a p l => some (flag s * 2147483648 + 50331648 + d.toNat * 262144 + a.toNat * 4096 + p.toNat * 64 + l.toNat)
  | .extn s d a p l => some (flag s * 2147483648 + 67108864 + d.toNat * 262144 + a.toNat * 4096 + p.toNat * 64 + l.toNat)
  | .ins s d a p l => some (flag s * 2147483648 + 83886080 + d.toNat * 262144 + a.toNat * 4096 + p.toNat * 64 + l.toNat)
  | .wid s d k => some (flag s * 2147483648 + 100892672 + d.toNat * 262144 + k.toNat)
  | .leaRi s d a i => some (flag s * 2147483648 + 117440512 + d.toNat * 262144 + a.toNat * 4096 + i.toNat)
  | .addi s d a i => some (flag s * 2147483648 + 134217728 + d.toNat * 262144 + a.toNat * 4096 + i.toNat)
  | .andi s d a i => some (flag s * 2147483648 + 150994944 + d.toNat * 262144 + a.toNat * 4096 + i.toNat)
  | .ori s d a i => some (flag s * 2147483648 + 167772160 + d.toNat * 262144 + a.toNat * 4096 + i.toNat)
  | .xori s d a i => some (flag s * 2147483648 + 184549376 + d.toNat * 262144 + a.toNat * 4096 + i.toNat)
  | .cmpi s k c a i => some (flag s * 2147483648 + 201326592 + k.code * 2097152 + c.toNat * 262144 + a.toNat * 4096 + i.toNat)
  | .shli s d a n => some (flag s * 2147483648 + 218103808 + d.toNat * 262144 + a.toNat * 4096 + n.toNat)
  | .shri s d a n => some (flag s * 2147483648 + 218103872 + d.toNat * 262144 + a.toNat * 4096 + n.toNat)
  | .shai s d a n => some (flag s * 2147483648 + 218103936 + d.toNat * 262144 + a.toNat * 4096 + n.toNat)
  | .li s d i => some (flag s * 2147483648 + 234881024 + d.toNat * 262144 + i.toNat)
  | .lih s d i => some (flag s * 2147483648 + 251658240 + d.toNat * 262144 + i.toNat)
  | .brpLabel s t i => some (flag s * 2147483648 + 268435456 + t.toNat * 2097152 + i.toNat)
  | .brpReg s t g => some (flag s * 2147483648 + 285212672 + t.toNat * 2097152 + g.toNat * 4096)
  | .go s t c m => some (flag s * 2147483648 + 301989888 + t.toNat * 2097152 + c.toNat * 262144 + m.code)
  | .call s t g => some (flag s * 2147483648 + 318767104 + t.toNat * 2097152 + g.toNat * 4096)
  | .ret s g => some (flag s * 2147483648 + 335544320 + g.toNat * 4096)
  | .lp s g n => some (flag s * 2147483648 + 352321536 + g.toNat * 4096 + n.toNat)
  | .exit s => some (flag s * 2147483648 + 369098752)
  | .nop s => some (flag s * 2147483648 + 385875968)
  | .brk s k => some (flag s * 2147483648 + 402653184 + k.toNat)
  | .vadd s d a b t p => some (flag s * 2147483648 + 536870912 + d.toNat * 262144 + a.toNat * 4096 + b.toNat * 64 + t.code * 8 + p.toNat)
  | .vsub s d a b t p => some (flag s * 2147483648 + 553648128 + d.toNat * 262144 + a.toNat * 4096 + b.toNat * 64 + t.code * 8 + p.toNat)
  | .vmul s d a b t p => some (flag s * 2147483648 + 570425344 + d.toNat * 262144 + a.toNat * 4096 + b.toNat * 64 + t.code * 8 + p.toNat)
  | .vaddFtz s d a b t p => some (flag s * 2147483648 + 587202592 + d.toNat * 262144 + a.toNat * 4096 + b.toNat * 64 + t.code * 8 + p.toNat)
  | .vaddSat s d a b t p => some (flag s * 2147483648 + 587202560 + d.toNat * 262144 + a.toNat * 4096 + b.toNat * 64 + t.code * 8 + p.toNat)
  | .vsubFtz s d a b t p => some (flag s * 2147483648 + 603979808 + d.toNat * 262144 + a.toNat * 4096 + b.toNat * 64 + t.code * 8 + p.toNat)
  | .vsubSat s d a b t p => some (flag s * 2147483648 + 603979776 + d.toNat * 262144 + a.toNat * 4096 + b.toNat * 64 + t.code * 8 + p.toNat)
  | .vmulFtz s d a b t p => some (flag s * 2147483648 + 620757024 + d.toNat * 262144 + a.toNat * 4096 + b.toNat * 64 + t.code * 8 + p.toNat)
  | .vmulSat s d a b t p => some (flag s * 2147483648 + 620756992 + d.toNat * 262144 + a.toNat * 4096 + b.toNat * 64 + t.code * 8 + p.toNat)
  | .vfma s d a b t p => some (flag s * 2147483648 + 637534240 + d.toNat * 262144 + a.toNat * 4096 + b.toNat * 64 + t.code * 8 + p.toNat)
  | .vfms s d a b t p => some (flag s * 2147483648 + 637534208 + d.toNat * 262144 + a.toNat * 4096 + b.toNat * 64 + t.code * 8 + p.toNat)
  | .vfnma s d a b t p => some (flag s * 2147483648 + 654311456 + d.toNat * 262144 + a.toNat * 4096 + b.toNat * 64 + t.code * 8 + p.toNat)
  | .vsha s d a b t p => some (flag s * 2147483648 + 654311424 + d.toNat * 262144 + a.toNat * 4096 + b.toNat * 64 + t.code * 8 + p.toNat)
  | .vmin s d a b t p => some (flag s * 2147483648 + 671088640 + d.toNat * 262144 + a.toNat * 4096 + b.toNat * 64 + t.code * 8 + p.toNat)
  | .vmax s d a b t p => some (flag s * 2147483648 + 687865856 + d.toNat * 262144 + a.toNat * 4096 + b.toNat * 64 + t.code * 8 + p.toNat)
  | .vmaxn s d a b t p => some (flag s * 2147483648 + 704643104 + d.toNat * 262144 + a.toNat * 4096 + b.toNat * 64 + t.code * 8 + p.toNat)
  | .vminn s d a b t p => some (flag s * 2147483648 + 704643072 + d.toNat * 262144 + a.toNat * 4096 + b.toNat * 64 + t.code * 8 + p.toNat)
  | .vshr s d a b t p => some (flag s * 2147483648 + 721420320 + d.toNat * 262144 + a.toNat * 4096 + b.toNat * 64 + t.code * 8 + p.toNat)
  | .vshl s d a b t p => some (flag s * 2147483648 + 721420288 + d.toNat * 262144 + a.toNat * 4096 + b.toNat * 64 + t.code * 8 + p.toNat)
  | .vcmp s c k a b t p => some (flag s * 2147483648 + 738197504 + c.code * 4194304 + k.toNat * 262144 + a.toNat * 4096 + b.toNat * 64 + t.code * 8 + p.toNat)
  | .vcvt s d a e r t p => some (flag s * 2147483648 + 754974720 + d.toNat * 262144 + a.toNat * 4096 + e.code * 512 + r.code * 64 + t.code * 8 + p.toNat)
  | .vabs s d a t p => some (flag s * 2147483648 + 771751936 + d.toNat * 262144 + a.toNat * 4096 + t.code * 512 + p.toNat * 64)
  | .vneg s d a t p => some (flag s * 2147483648 + 771751937 + d.toNat * 262144 + a.toNat * 4096 + t.code * 512 + p.toNat * 64)
  | .vnot s d a t p => some (flag s * 2147483648 + 771751938 + d.toNat * 262144 + a.toNat * 4096 + t.code * 512 + p.toNat * 64)
  | .vmov s d a t p => some (flag s * 2147483648 + 771751939 + d.toNat * 262144 + a.toNat * 4096 + t.code * 512 + p.toNat * 64)
  | .vrcp s d a t p => some (flag s * 2147483648 + 771753988 + d.toNat * 262144 + a.toNat * 4096 + t.code * 512 + p.toNat * 64)
  | .vrsqrt s d a t p => some (flag s * 2147483648 + 771753989 + d.toNat * 262144 + a.toNat * 4096 + t.code * 512 + p.toNat * 64)
  | .vsqrt s d a t p => some (flag s * 2147483648 + 771753990 + d.toNat * 262144 + a.toNat * 4096 + t.code * 512 + p.toNat * 64)
  | .vexp2 s d a t p => some (flag s * 2147483648 + 771753991 + d.toNat * 262144 + a.toNat * 4096 + t.code * 512 + p.toNat * 64)
  | .vlog2 s d a t p => some (flag s * 2147483648 + 771753992 + d.toNat * 262144 + a.toNat * 4096 + t.code * 512 + p.toNat * 64)
  | .vbcast s d a t p => some (flag s * 2147483648 + 771751945 + d.toNat * 262144 + a.toNat * 4096 + t.code * 512 + p.toNat * 64)
  | .vli s d a t p => some (flag s * 2147483648 + 771751946 + d.toNat * 262144 + a.toNat * 4096 + t.code * 512 + p.toNat * 64)
  | .vcompress s d a t p => some (flag s * 2147483648 + 771751947 + d.toNat * 262144 + a.toNat * 4096 + t.code * 512 + p.toNat * 64)
  | .vexpand s d a t p => some (flag s * 2147483648 + 771751948 + d.toNat * 262144 + a.toNat * 4096 + t.code * 512 + p.toNat * 64)
  | .vredAdd s d a t p => some (flag s * 2147483648 + 771751952 + d.toNat * 262144 + a.toNat * 4096 + t.code * 512 + p.toNat * 64)
  | .vredMin s d a t p => some (flag s * 2147483648 + 771751953 + d.toNat * 262144 + a.toNat * 4096 + t.code * 512 + p.toNat * 64)
  | .vredMax s d a t p => some (flag s * 2147483648 + 771751954 + d.toNat * 262144 + a.toNat * 4096 + t.code * 512 + p.toNat * 64)
  | .vredMinn s d a t p => some (flag s * 2147483648 + 771751955 + d.toNat * 262144 + a.toNat * 4096 + t.code * 512 + p.toNat * 64)
  | .vredMaxn s d a t p => some (flag s * 2147483648 + 771751956 + d.toNat * 262144 + a.toNat * 4096 + t.code * 512 + p.toNat * 64)
  | .vredAnd s d a t p => some (flag s * 2147483648 + 771751957 + d.toNat * 262144 + a.toNat * 4096 + t.code * 512 + p.toNat * 64)
  | .vredOr s d a t p => some (flag s * 2147483648 + 771751958 + d.toNat * 262144 + a.toNat * 4096 + t.code * 512 + p.toNat * 64)
  | .vredXor s d a t p => some (flag s * 2147483648 + 771751959 + d.toNat * 262144 + a.toNat * 4096 + t.code * 512 + p.toNat * 64)
  | .vscanAdd s d a t p => some (flag s * 2147483648 + 771751960 + d.toNat * 262144 + a.toNat * 4096 + t.code * 512 + p.toNat * 64)
  | .vscanMin s d a t p => some (flag s * 2147483648 + 771751961 + d.toNat * 262144 + a.toNat * 4096 + t.code * 512 + p.toNat * 64)
  | .vscanMax s d a t p => some (flag s * 2147483648 + 771751962 + d.toNat * 262144 + a.toNat * 4096 + t.code * 512 + p.toNat * 64)
  | .vcvtFormat s d a t p f n => some (flag s * 2147483648 + 771751968 + d.toNat * 262144 + a.toNat * 4096 + t.code * 512 + p.toNat * 64 + f.code * 2 + flag n)
  | .kand s d a b => some (flag s * 2147483648 + 788529152 + d.toNat * 262144 + a.toNat * 4096 + b.toNat * 64)
  | .kor s d a b => some (flag s * 2147483648 + 788529153 + d.toNat * 262144 + a.toNat * 4096 + b.toNat * 64)
  | .kxor s d a b => some (flag s * 2147483648 + 788529154 + d.toNat * 262144 + a.toNat * 4096 + b.toNat * 64)
  | .knot s d a => some (flag s * 2147483648 + 788532739 + d.toNat * 262144 + a.toNat * 4096)
  | .kpop s d a => some (flag s * 2147483648 + 788532740 + d.toNat * 262144 + a.toNat * 4096)
  | .vtoc s d a b => some (flag s * 2147483648 + 788529157 + d.toNat * 262144 + a.toNat * 4096 + b.toNat * 64)
  | .vany s d a b => some (flag s * 2147483648 + 788529158 + d.toNat * 262144 + a.toNat * 4096 + b.toNat * 64)
  | .vall s d a b => some (flag s * 2147483648 + 788529159 + d.toNat * 262144 + a.toNat * 4096 + b.toNat * 64)
  | .vext s d a b w => some (flag s * 2147483648 + 788529160 + d.toNat * 262144 + a.toNat * 4096 + b.toNat * 64 + w.code)
  | .vins s d a b w => some (flag s * 2147483648 + 788529164 + d.toNat * 262144 + a.toNat * 4096 + b.toNat * 64 + w.code)
  | .vperm s d a b w => some (flag s * 2147483648 + 788529168 + d.toNat * 262144 + a.toNat * 4096 + b.toNat * 64 + w.code)
  | .vclampInt s d a b t => some (flag s * 2147483648 + 788529172 + d.toNat * 262144 + a.toNat * 4096 + b.toNat * 64 + t.code)
  | .vclampFp s d a b t => some (flag s * 2147483648 + 788529176 + d.toNat * 262144 + a.toNat * 4096 + b.toNat * 64 + t.code)
  | .vand s d a b => some (flag s * 2147483648 + 788529180 + d.toNat * 262144 + a.toNat * 4096 + b.toNat * 64)
  | .vor s d a b => some (flag s * 2147483648 + 788529181 + d.toNat * 262144 + a.toNat * 4096 + b.toNat * 64)
  | .vxor s d a b => some (flag s * 2147483648 + 788529182 + d.toNat * 262144 + a.toNat * 4096 + b.toNat * 64)
  | .vsel s d a b w k => some (flag s * 2147483648 + 788529184 + d.toNat * 262144 + a.toNat * 4096 + b.toNat * 64 + w.code * 8 + k.toNat)
  | .ldRr s d a b w x => some (flag s * 2147483648 + 805306368 + d.toNat * 262144 + a.toNat * 4096 + b.toNat * 64 + w.code * 4 + x.toNat)
  | .ldA s d a b w x => some (flag s * 2147483648 + 805306400 + d.toNat * 262144 + a.toNat * 4096 + b.toNat * 64 + w.code * 4 + x.toNat)
  | .ldRi s d a i => some (flag s * 2147483648 + 822083584 + d.toNat * 262144 + a.toNat * 4096 + i.toNat)
  | .stRr s d a b w x => some (flag s * 2147483648 + 838860800 + d.toNat * 262144 + a.toNat * 4096 + b.toNat * 64 + w.code * 8 + x.toNat)
  | .stRi s d a i => some (flag s * 2147483648 + 855638016 + d.toNat * 262144 + a.toNat * 4096 + i.toNat)
  | .chkA s d a b w x => some (flag s * 2147483648 + 872415232 + d.toNat * 262144 + a.toNat * 4096 + b.toNat * 64 + w.code * 4 + x.toNat)
  | .ydesc s d a i => some (flag s * 2147483648 + 889192448 + d.toNat * 262144 + a.toNat * 4096 + i.toNat)
  | .vldRr s d a b x p => some (flag s * 2147483648 + 905969664 + d.toNat * 262144 + a.toNat * 4096 + b.toNat * 64 + x.toNat * 16 + p.toNat)
  | .vldA s d a b x p => some (flag s * 2147483648 + 905969672 + d.toNat * 262144 + a.toNat * 4096 + b.toNat * 64 + x.toNat * 16 + p.toNat)
  | .vldRi s d a i => some (flag s * 2147483648 + 922746880 + d.toNat * 262144 + a.toNat * 4096 + i.toNat)
  | .vstRr s d a b x p => some (flag s * 2147483648 + 939524096 + d.toNat * 262144 + a.toNat * 4096 + b.toNat * 64 + x.toNat * 16 + p.toNat)
  | .vstRi s d a i => some (flag s * 2147483648 + 956301312 + d.toNat * 262144 + a.toNat * 4096 + i.toNat)
  | .fifoStallRelease _ _ => none
  | .vldg s d a b w c p => some (flag s * 2147483648 + 973078528 + d.toNat * 262144 + a.toNat * 4096 + b.toNat * 64 + w.code * 16 + flag c * 8 + p.toNat)
  | .vsts s d a b w c p => some (flag s * 2147483648 + 989855744 + d.toNat * 262144 + a.toNat * 4096 + b.toNat * 64 + w.code * 16 + flag c * 8 + p.toNat)
  | .vldb s d a b w p => some (flag s * 2147483648 + 1006632960 + d.toNat * 262144 + a.toNat * 4096 + b.toNat * 64 + w.code * 16 + p.toNat)
  | .zpop s d a p => some (flag s * 2147483648 + 1006636552 + d.toNat * 262144 + a.toNat * 4096 + p.toNat)
  | .zpopRelease _ _ => none
  | .vchkA s d a b p => some (flag s * 2147483648 + 1006632984 + d.toNat * 262144 + a.toNat * 4096 + b.toNat * 64 + p.toNat)
  | .vldy s d a b y => some (flag s * 2147483648 + 1023410176 + d.toNat * 262144 + a.toNat * 4096 + b.toNat * 64 + y.toNat * 4)
  | .vsty s d a b y z => some (flag s * 2147483648 + 1023410178 + d.toNat * 262144 + a.toNat * 4096 + b.toNat * 64 + y.toNat * 4 + flag z)
  | .atom s d a b c o => some (flag s * 2147483648 + 1040187392 + d.toNat * 262144 + a.toNat * 4096 + b.toNat * 64 + c.code * 16 + o.code)
  | .vatom s d a b o p => some (flag s * 2147483648 + 1056964608 + d.toNat * 262144 + a.toNat * 4096 + b.toNat * 64 + o.code * 8 + p.toNat)
  | .accAlloc s d a b => some (flag s * 2147483648 + 1073741824 + d.toNat * 262144 + a.toNat * 4096 + b.toNat * 64)
  | .accAllocT s d a => some (flag s * 2147483648 + 1073745409 + d.toNat * 262144 + a.toNat * 4096)
  | .accFree s a b => some (flag s * 2147483648 + 1088421890 + a.toNat * 4096 + b.toNat * 64)
  | .accFreeRelease _ _ => none
  | .accZero s d => some (flag s * 2147483648 + 1073974787 + d.toNat * 262144)
  | .accRd s d a b => some (flag s * 2147483648 + 1073741828 + d.toNat * 262144 + a.toNat * 4096 + b.toNat * 64)
  | .accWr s d a b => some (flag s * 2147483648 + 1073741829 + d.toNat * 262144 + a.toNat * 4096 + b.toNat * 64)
  | .mma s d a b f x y z => some (flag s * 2147483648 + 1090519040 + d.toNat * 262144 + a.toNat * 4096 + b.toNat * 64 + f.code * 8 + flag x * 4 + flag y * 2 + flag z)
  | .mmaSp s d a b f q k => some (flag s * 2147483648 + 1107296256 + d.toNat * 262144 + a.toNat * 4096 + b.toNat * 64 + f.code * 16 + q.toNat * 2 + flag k)
  | .mmaT3 s d a b z k => some (flag s * 2147483648 + 1124073472 + d.toNat * 262144 + a.toNat * 4096 + b.toNat * 64 + flag z * 2 + flag k)
  | .mmaX s d a b f x y z => some (flag s * 2147483648 + 1140850688 + d.toNat * 262144 + a.toNat * 4096 + b.toNat * 64 + f.code * 8 + flag x * 4 + flag y * 2 + flag z)
  | .scl s a b => some (flag s * 2147483648 + 1172307968 + a.toNat * 4096 + b.toNat * 64)
  | .selLd s d i => some (flag s * 2147483648 + 1174405120 + d.toNat * 262144 + i.toNat)
  | .rdesc s d a b => some (flag s * 2147483648 + 1191182336 + d.toNat * 262144 + a.toNat * 4096 + b.toNat * 64)
  | .rpop s d => some (flag s * 2147483648 + 1191415297 + d.toNat * 262144)
  | .rstat s d a => some (flag s * 2147483648 + 1191185922 + d.toNat * 262144 + a.toNat * 4096)
  | .zdesc s d a b => some (flag s * 2147483648 + 1191182339 + d.toNat * 262144 + a.toNat * 4096 + b.toNat * 64)
  | .wb s d a b f p r => some (flag s * 2147483648 + 1207959552 + d.toNat * 262144 + a.toNat * 4096 + b.toNat * 64 + f.code * 8 + flag p * 4 + r.code)
  | .arrayOperationFinish _ _ => none
  | .cpy s a b k => some (flag s * 2147483648 + 1239416832 + a.toNat * 4096 + b.toNat * 64 + flag k)
  | .cpyMm s d a b k => some (flag s * 2147483648 + 1241513984 + d.toNat * 262144 + a.toNat * 4096 + b.toNat * 64 + flag k)
  | .cpyb s a b k => some (flag s * 2147483648 + 1272971264 + a.toNat * 4096 + b.toNat * 64 + flag k)
  | .coll s a b k => some (flag s * 2147483648 + 1289748480 + a.toNat * 4096 + b.toNat * 64 + flag k)
  | .drain s k => some (flag s * 2147483648 + 1306758656 + flag k)
  | .drainComplete _ _ => none
  | .pub s a => some (flag s * 2147483648 + 1306529296 + a.toNat * 4096)
  | .pubComplete _ _ => none
  | .ecan s a k => some (flag s * 2147483648 + 1306529312 + a.toNat * 4096 + flag k)
  | .estat s d k => some (flag s * 2147483648 + 1292078640 + d.toNat * 262144 + flag k)
  | .sctr s d a b v => some (flag s * 2147483648 + 1308622848 + d.toNat * 262144 + a.toNat * 4096 + b.toNat * 64 + flag v)
  | .yidx s d a y => some (flag s * 2147483648 + 1325403648 + d.toNat * 262144 + a.toNat * 4096 + y.toNat * 4)
  | .ychk s d a y => some (flag s * 2147483648 + 1325403649 + d.toNat * 262144 + a.toNat * 4096 + y.toNat * 4)
  | .fwait s d a i => some (flag s * 2147483648 + 1342177280 + d.toNat * 262144 + a.toNat * 4096 + i.toNat)
  | .fwaitSatisfied _ _ => none
  | .fpost s d a i => some (flag s * 2147483648 + 1358954496 + d.toNat * 262144 + a.toNat * 4096 + i.toNat)
  | .fpostr s d a b => some (flag s * 2147483648 + 1375731712 + d.toNat * 262144 + a.toNat * 4096 + b.toNat * 64)
  | .remotePostArrival _ _ => none
  | .barInit s a b => some (flag s * 2147483648 + 1407188992 + a.toNat * 4096 + b.toNat * 64)
  | .barArrive s d a b => some (flag s * 2147483648 + 1392508929 + d.toNat * 262144 + a.toNat * 4096 + b.toNat * 64)
  | .barExpect s d a b => some (flag s * 2147483648 + 1392508930 + d.toNat * 262144 + a.toNat * 4096 + b.toNat * 64)
  | .barWait s a b => some (flag s * 2147483648 + 1407188995 + a.toNat * 4096 + b.toNat * 64)
  | .barWaitSatisfied _ _ => none
  | .barTest s d a b => some (flag s * 2147483648 + 1392508932 + d.toNat * 262144 + a.toNat * 4096 + b.toNat * 64)
  | .slvCfg s d a b => some (flag s * 2147483648 + 1409286144 + d.toNat * 262144 + a.toNat * 4096 + b.toNat * 64)
  | .slvCfgStoreFree _ _ => none
  | .slvBeg s => some (flag s * 2147483648 + 1424199169)
  | .slvEnd s d n => some (flag s * 2147483648 + 1409519106 + d.toNat * 262144 + flag n * 8)
  | .gangRootsComplete _ => none
  | .slvNorm s d a => some (flag s * 2147483648 + 1409289731 + d.toNat * 262144 + a.toNat * 4096)
  | .slvHist s d a b => some (flag s * 2147483648 + 1409286148 + d.toNat * 262144 + a.toNat * 4096 + b.toNat * 64)
  | .slvAbort s => some (flag s * 2147483648 + 1424199173)
  | .fence s k c => some (flag s * 2147483648 + 1440976384 + k.code * 4 + c.code)
  | .ldAcq s d a b w c => some (flag s * 2147483648 + 1442840576 + d.toNat * 262144 + a.toNat * 4096 + b.toNat * 64 + w.code * 4 + c.code)
  | .stRel s d a b w c => some (flag s * 2147483648 + 1459617792 + d.toNat * 262144 + a.toNat * 4096 + b.toNat * 64 + w.code * 8 + c.code)
  | .cwait s a i => some (flag s * 2147483648 + 1491075072 + a.toNat * 4096 + i.toNat)
  | .cwaitRelease _ _ => none
  | .lnch s a b => some (flag s * 2147483648 + 1507852288 + a.toNat * 4096 + b.toNat * 64)
  | .lnchQueueRoom _ _ => none
  | .trap s k => some (flag s * 2147483648 + 1610612736 + k.toNat)
  | .rfe s => some (flag s * 2147483648 + 1642302976)
  | .ctxSave s a => some (flag s * 2147483648 + 1658850816 + a.toNat * 4096)
  | .ctxLoad s a => some (flag s * 2147483648 + 1675628032 + a.toNat * 4096)
  | .ctxLoadNew s a b => some (flag s * 2147483648 + 1675624449 + a.toNat * 4096 + b.toNat * 64)
  | .crRd s d n => some (flag s * 2147483648 + 1677950976 + d.toNat * 262144 + n.toNat)
  | .crWr s d n => some (flag s * 2147483648 + 1694728192 + d.toNat * 262144 + n.toNat)
  | .controlRegisterWrite _ _ _ => none
  | .tlbInv s a b => some (flag s * 2147483648 + 1725956096 + a.toNat * 4096 + b.toNat * 64)
  | .tlbInvAsid s => some (flag s * 2147483648 + 1726189057)
  | .tlbInvAny s a b => some (flag s * 2147483648 + 1725956098 + a.toNat * 4096 + b.toNat * 64)
  | .tlbInvAll s => some (flag s * 2147483648 + 1726189059)
  | .tlbSync s => some (flag s * 2147483648 + 1742966272)
  | .ctrRd s d a c => some (flag s * 2147483648 + 1744834048 + d.toNat * 262144 + a.toNat * 4096 + flag c)
  | .xltInval s a b => some (flag s * 2147483648 + 1776287744 + a.toNat * 4096 + b.toNat * 64)
  | .xltPin s a b => some (flag s * 2147483648 + 1793064961 + a.toNat * 4096 + b.toNat * 64)
  | .xltUnpin s a b => some (flag s * 2147483648 + 1793064960 + a.toNat * 4096 + b.toNat * 64)
  | .xltHint s a b m => some (flag s * 2147483648 + 1809842176 + a.toNat * 4096 + b.toNat * 64 + m.code)
  | .mcLd s a => some (flag s * 2147483648 + 1826622976 + a.toNat * 4096)
  | .microcodeSlot s e d a b f => some (flag s * 2147483648 + 1879048192 + e.toNat * 16777216 + d.toNat * 262144 + a.toNat * 4096 + b.toNat * 64 + f.toNat)
  | .tier1Promotion _ _ => none
  | .atomCommit _ => none
  | .atomConflictDiscard _ => none
  | .quantumExpiry _ => none
  | .waitTimeout _ _ => none
  | .csmodeWrite _ _ => none
  | .evcntWrite _ _ => none
  | .formatWindowEnable _ _ _ => none
  | .formatWindowDisable _ _ _ => none
  | .publishEntryEnable _ _ _ => none
  | .fqrdWrite _ _ => none
  | .faultQueuePost => none
  | .replayResume _ _ _ => none
  | .replayDeliver _ _ _ => none
  | .replayTerminate _ _ _ => none
  | .preemptRequest _ _ _ => none
  | .preemptSave _ _ => none
  | .contextReload _ => none
  | .xltctlWrite _ _ => none
  | .queueWridxWrite _ _ => none
  | .packetTake _ _ => none
  | .groupAdmit _ => none
  | .groupStart _ _ _ => none
  | .groupSteal _ _ => none
  | .groupRelease _ => none
  | .launchComplete _ => none
  | .graphMemberReady _ => none
  | .cadencedStart _ => none
  | .budgetPublish _ _ => none
  | .engineCommandStart _ _ => none
  | .engineQueueRoom _ _ => none
  | .engineBodyLanded _ _ => none
  | .engineWaitRelease _ _ => none
  | .collectiveProceed _ _ _ => none
  | .stitchTableLoad => none
  | .stitchTableDefault => none
  | .stitchTableSwitch => none
  | .packetEscape _ _ => none
  | .flitReceive _ _ => none
  | .linkRetrain _ => none
  | .peerAnswer _ _ => none
  | .peerAccessTimeout _ => none
  | .cgctlWrite _ _ => none
  | .cadenceRemeasure _ _ _ _ => none
  | .bubbleNotice _ _ => none
  | .wholeDeviceBubble _ => none
  | .hostBar0Access _ _ _ _ => none
  | .hostMemoryAccess _ _ _ _ => none
  | .noticeQueuePost => none
  | .hostInvalidate _ => none
  | .hostInvalidateDone => none
  | .attestationRequest => none
  | .attestationDone => none
  | .coldReset _ => none
  | .functionLevelReset => none
  | .thermalExcursion _ => none
  | .thermalStop _ => none
  | .thermalResume _ => none
  | .unitFenceEffect _ _ => none
  | .hbmScrub => none
  | .lifeCounterFlush => none
  | .orderlyShutdown => none
  | .linkTrainingEnd _ => none
  | .softError _ _ => none
  | .powerLoss => none
  | .hostApertureAnswer _ _ => none

/-- What the decoder reads from an instruction whose bits are `w`, in the numbering of spec/opcode_table.json: a slot is
one 32-bit word, stored little-endian (R30), so the first 32 bits are the slot. -/
def decodeTableWord (_nbits w : Nat) : Option Instr :=
  match decode (w % 4294967296) with
  | .ok i => some i
  | .error _ => none

end Sys2Proof
end

