-- ==== Sys2Proof/Config.lean ====
section
/-! DEFINITION. The free values: opaque constants without a body, so that nothing can be proved of the values they take.
Each is applied to a counter of State or to the operands it depends on; notes/assumptions names each. -/

namespace Sys2Proof.Config

/-- The turn the machine takes when none is fixed (log entry 1): which core issues, which event of the table comes
about and with what outside input, or that a clock cycle passes. Applied to `State.draws`. -/
opaque nextTurn : Nat → Turn

/-- Which cached translation an access uses, of those it may use (R286, R289, R293; log entry 8): 0 for a fresh walk.
Applied to `State.draws`, the virtual address and the level. -/
opaque tlbPick : Nat → Nat → Nat → Nat

/-- Whether the translation of a bundle has been evicted (R368, R371; log entry 8). Applied to `State.draws`. -/
opaque xlatEvicted : Nat → Bool

/-- Whether a tier-1 translation serves a count of its loop (R381; log entry 10). Applied to the OBJID, the head and the
count. -/
opaque tier1Serves : Nat → Nat → Nat → Bool

/-- The bytes of the translation cache that a translation takes (R362, R368; log entry 58). Applied to the shape and the
words. -/
opaque xlatBytes : Nat → List Nat → Nat

/-- Whether an event at a barrier falls into the physical cycle of the one before it, where it may (R233; log entry 61).
Applied to the group, the barrier and the clock cycle. -/
opaque sharesCycle : Nat → Nat → Nat → Bool

/-- The line requests of device parties that reach their home slices in a clock cycle, which hang on caches that are
not state (R295; log entry 27): physical address, compute die of the requester, MCNT of the leaf. Applied to `State.draws`. -/
opaque lineRequests : Nat → List (Nat × Nat × Nat)

/-- Whether an ML-DSA-65 signature verifies under a key (0 vendor, 1 code-signing, 2 microcode) (R369, R376, R410; log
entry 9). -/
opaque verifies : Nat → List (BitVec 8) → List (BitVec 8) → Bool

/-- The first 64 bytes of the SHAKE256 output of a byte string (R410, R412; log entry 9). -/
opaque shake256 : List (BitVec 8) → BitVec 512

/-- A measurement extended with a digest (R410; log entry 34). -/
opaque measured : BitVec 512 → BitVec 512 → BitVec 512

/-- The ML-DSA-65 signature of the identity key over a byte string (R412; log entry 9). -/
opaque signs : List (BitVec 8) → List (BitVec 8)

/-- The content a read of a peer's memory returns when the turn that answers it supplies none (R396; log entry 48). -/
opaque peerValue : Nat → BitVec 64

/-- The bits of a bypass latch that a 64-bit result written to it leaves open (R358; log entry 26). Applied to the latch
and the value written. -/
opaque latchUpper : Nat → BitVec 64 → BitVec 2048

/-- The life counter, below 0x4000, of the SRAM bank or pseudo-channel that a corrected error strikes (R416; log entry 33). -/
opaque correctedIndex : ErrTarget → Nat

/-- How many of the flits that a device holds for replay the far side of a link has taken by now (R395; log entry 39).
Applied to the clock cycle and the link. -/
opaque flitsTaken : Nat → Nat → Nat

/-- The ID of the device at the far end of a device link (R391; log entry 39). -/
opaque farDevice : Nat → BitVec 8

end Sys2Proof.Config
end

