-- ==== Sys2Proof/Machine/State.lean ====
section
/-! DEFINITION. The state of the machine as plain data, the reasons a step can stop, and the state after reset. Rule
numbers R<n> are those of spec/. -/

namespace Sys2Proof.Machine

/-- Why the machine stops for good. -/
inductive Fault where
  /-- Power is lost (R417): raised by `step` when `power` is off; nothing follows. Safe: the model goes no further. -/
  | powerLost
  deriving DecidableEq, Repr

/-- Why a step has no meaning. -/
inductive Refusal where
  /-- An arm of `exec` that is not modelled yet. Safe: no claim follows from it. -/
  | notModelled (mnemonic : String)
  /-- A slot is executed although no task issues on the core in focus: raised by `finishSlot`; `step` never does this.
  Safe: the spec gives a slot no effect outside a task. -/
  | noIssuingTask
  deriving DecidableEq, Repr

/-- The causes of R330. -/
inductive Cause where
  | preempted | undefinedEncoding | physicalOnly | noMicrocode | privilege | softwareTrap | breakpoint
  | arithmetic | nonUniform | misaligned | pageFault | permission | storeToDecoded | translation
  | countOverflow | barrierOverdrawn | waitTimeout | deterministicAtomic | accLeak | accExhausted
  | illegalSelect | engineBounds | engineOverlap | invalidDescriptor | forcedZeroStore | symmetryViolation
  | solveCeiling | solveNumeric | solveMisuse | saveArea | uncorrectable
  deriving DecidableEq, Repr, Inhabited

/-- The code of a cause (R330). -/
def Cause.code : Cause → Nat
  | .preempted => 0x00 | .undefinedEncoding => 0x01 | .physicalOnly => 0x02 | .noMicrocode => 0x03
  | .privilege => 0x04 | .softwareTrap => 0x05 | .breakpoint => 0x06 | .arithmetic => 0x08
  | .nonUniform => 0x09 | .misaligned => 0x10 | .pageFault => 0x11 | .permission => 0x12
  | .storeToDecoded => 0x13 | .translation => 0x14 | .countOverflow => 0x18 | .barrierOverdrawn => 0x19
  | .waitTimeout => 0x1A | .deterministicAtomic => 0x1B | .accLeak => 0x20 | .accExhausted => 0x21
  | .illegalSelect => 0x22 | .engineBounds => 0x23 | .engineOverlap => 0x24 | .invalidDescriptor => 0x28
  | .forcedZeroStore => 0x29 | .symmetryViolation => 0x2A | .solveCeiling => 0x30 | .solveNumeric => 0x31
  | .solveMisuse => 0x32 | .saveArea => 0x38 | .uncorrectable => 0x39

/-- The kinds of access of R288. -/
inductive Acc where
  | read | write | atomic | exec
  deriving DecidableEq, Repr, Inhabited

/-- The code of an access (R288). -/
def Acc.code : Acc → Nat
  | .read => 0 | .write => 1 | .atomic => 2 | .exec => 3

/-- The regions of the physical address map (R246). -/
inductive Region where
  | device | decoded | near | cluster | control | host | peer | reserved
  deriving DecidableEq, Repr, Inhabited

/-- A cached page-table entry (R289): level, virtual address above the span of the level, the table it was read from. -/
structure TlbEntry where
  asid  : Nat
  level : Nat
  key   : Nat
  table : Nat
  pte   : W64
  deriving DecidableEq, Repr

/-- What a failing check of a slot or of another requester says: cause, cause-specific word, target address, the lane
of `vatom` (R419), for *save area fault* the underlying cause (R331), and the good entries that its walks leave cached (R289). -/
structure TrapInfo where
  cause  : Cause
  word   : W64 := 0
  target : Option W64 := none
  lane   : Option Nat := none
  subc   : Nat := 0
  fills  : List TlbEntry := []
  deriving DecidableEq, Repr, Inhabited

/-- A trap record of four words (R331). -/
structure Rec where
  w0 : W64 := 0
  w1 : W64 := 0
  w2 : W64 := 0
  w3 : W64 := 0
  deriving DecidableEq, Repr, Inhabited

/-- A target entry `tN` (R5, R94). -/
structure Target where
  addr  : W64 := 0
  valid : Bool := false
  deriving DecidableEq, Repr, Inhabited

/-- An operand ring `nN` (R142 to R144); entry size 0 means no descriptor. `resv` holds the entries that bodies have
reserved, oldest first, and whether each has landed; one beyond the free entries waits (R308). `done` counts the entries that
have become full. -/
structure Ring where
  done  : Nat := 0
  base  : Nat := 0
  size  : Nat := 0
  count : Nat := 0
  head  : Nat := 0
  tail  : Nat := 0
  full  : Nat := 0
  resv  : List Bool := []
  deriving DecidableEq, Repr, Inhabited

/-- A stream register `zN` (R131, R309, R310); size 0 means no descriptor. `resv` holds the reservations of bodies, oldest
first: the bytes that are not present yet and how many of them have landed (R309). `done` counts the bytes that have become
present. -/
structure Stream where
  base    : Nat := 0
  size    : Nat := 0
  head    : Nat := 0
  present : Nat := 0
  closed  : Bool := false
  resv    : List (Nat × Nat) := []
  done    : Nat := 0
  deriving DecidableEq, Repr, Inhabited

/-- The elements of a vector write that are smaller than a byte (R114, R182): none, E2M1 nibbles, or packed ternary digits,
with those that are active. -/
inductive Part where
  | bytes
  | nibbles (active : BitVec 512)
  | digits (active : BitVec 1280)
  deriving DecidableEq, Repr

/-- A register write in flight (R18, R25, R347): `left` contract cycles remain before the bundle that sees it. -/
structure Pend where
  file : RegFile
  reg  : Nat
  mask : BitVec 256
  val  : VReg
  left : Nat
  part : Part := .bytes
  deriving DecidableEq, Repr

/-- A level of the loop state (R100): address of the body's first bundle, address after its last, iterations not begun. -/
structure Loop where
  start : W64
  stop  : W64
  left  : Nat
  deriving DecidableEq, Repr, Inhabited

/-- What trap entry holds aside (R334), and the contract cycle of the interrupted bundle (R351). -/
structure Held where
  pending : List Pend
  loops   : List Loop
  cycle   : Nat := 0
  deriving DecidableEq, Repr

/-- An entry of the address table of hoisted loads (R91, R125): `vec` for the width code "vector"; of each
physical range its start, its length and whether its page is unordered (R92). -/
structure ATEntry where
  vec   : Bool
  width : Width
  reg   : Nat
  va    : Nat
  len   : Nat
  pas   : List (Nat × Nat × Bool)
  deriving DecidableEq, Repr

/-- A set of edge scale latches with the contract cycle of the `scl` that wrote it (R149). -/
structure SclSet where
  since : Nat
  rows : BitVec 768
  cols : BitVec 1536
  deriving DecidableEq, Repr

/-- State codes of a solve (R183). -/
inductive SlvCode where
  | idle | ready | opened | looping
  deriving DecidableEq, Repr, Inhabited

/-- The solve state of a task (R183, R186, R197). -/
structure Solve where
  code  : SlvCode := .idle
  tau   : W64 := 0
  ctl   : W64 := 0
  mix   : W64 := 0
  k     : Nat := 0
  kk    : Nat := 0
  p     : Nat := 0
  norm  : W64 := 0
  start : W64 := 0
  deriving DecidableEq, Repr, Inhabited

/-- Where an operand of a matrix operation comes from (R143, R145). -/
inductive OperSrc where
  | none
  | ring (n : Nat)
  | handle (va : W64) (stride : Nat)
  deriving DecidableEq, Repr, Inhabited

/-- An operand: rows of `len` bytes; `data` holds the bytes once they are read, row after row, byte 0 lowest. -/
structure Oper where
  src  : OperSrc := .none
  rows : Nat := 0
  len  : Nat := 0
  data : Option Nat := none
  deriving DecidableEq, Repr, Inhabited

/-- The command block and descriptors that `sctr` captures (R172, R173), and the operand elements it has fetched. -/
structure SctrJob where
  ya    : BitVec 512
  yb    : BitVec 512
  yc    : BitVec 512
  block : BitVec 512
  baseA : W64
  baseB : W64
  elemA : List (Nat × Nat) := []
  elemB : List (Nat × Nat) := []
  ready : Bool := false
  deriving DecidableEq, Repr

/-- The kinds of array operation (R134). -/
inductive ArrayKind where
  | zero
  | write (slice : Nat) (v : VReg)
  | mma (f : MmaFmt)
  | sparse (f : SpFmt)
  | ternary
  | scaled (f : XFmt)
  | wb (f : WbFmt) (prune : Option PruneKind) (rows : List (Nat × Nat))
  | sctr (job : SctrJob)
  deriving DecidableEq, Repr

/-- An array operation that has been issued and has not finished (R134, R146); `cyc` and `addr` are the contract cycle
and the address of its bundle, `troot`, `tasid` and `sup` what its operand fetch translates with (R282). `before` holds
what the bytes that sibling stores of its bundle wrote held before the bundle, as its fetch reads them (R13, R146), and
`cid` the command that it follows on (R156), `kept` the physical ranges that later slots of its bundle stored to, which its own
stores leave alone (R14, R154). The rows that a `wb` writes are its `a`; `strong` says that one lies on a strongly ordered page
(R269), `again` that they are translated anew when they are written (R292). -/
structure ArrayOp where
  kind : ArrayKind
  bank : Nat
  z    : Bool := false
  a    : Oper := {}
  b    : Oper := {}
  sel  : Nat := 0
  cyc  : Nat := 0
  addr : W64 := 0
  set0 : Option SclSet := none
  follow : Bool := false
  cid  : Nat := 0
  troot : W64 := 0
  tasid : W64 := 0
  sup  : Bool := false
  before : List (Nat × Byte) := []
  kept : List (Nat × Nat) := []
  strong : Bool := false
  again : Bool := false
  deriving DecidableEq, Repr

/-- The captured follow-on of a `cpy.mm` (R311, R347). -/
structure Follow where
  word : Nat := 0
  ga   : W64 := 0
  gb   : W64 := 0
  sel  : Nat := 0
  deriving DecidableEq, Repr, Inhabited

/-- A queued engine command (R297, R347): `desc` with the argument added, translation registers as at issue (R282),
`seqNo` the number of this `coll` among those of its task with its GROUP and MASK (R315), `cid` a number of the command's own. -/
structure Cmd where
  desc   : BitVec 512
  bop    : W64
  op     : Nat
  bank   : Nat := 0
  follow : Option Follow := none
  uid    : Nat
  gid    : Nat
  i0     : Nat
  core   : Nat
  troot  : W64
  tasid  : W64
  dva    : W64
  priv   : Bool := false
  seqNo  : Nat := 0
  cid    : Nat := 0
  deriving DecidableEq, Repr

/-- Where a started command stands (R302, R307, R308, R323). -/
inductive EngState where
  | moving      -- the reads of the body are done, its writes have not landed
  | waiting     -- waits for ring entries or stream room (R308, R309)
  | stopped     -- an access failed; waits for REPLAY (R323)
  | entering    -- the body has landed, its follow-on has not entered the array (R156, R329)
  | meeting     -- a collective that waits for its members (R315)
  | acking      -- the body is written; an aperture has not acknowledged all of it, or an earlier post of the channel is under way (R298, R396)
  deriving DecidableEq, Repr, Inhabited

/-- A started command: body `body`, next element `elem`, its destination bytes, those for FIFO banks apart by their linear
offset, and how many have landed, flags and bytes of the body, whether the body has reserved its ring entries or stream bytes
and the number of the first, the FIFO entries and the block-table entries it took, answers of apertures, the writes to a peer
that failed (address, bytes, value), the cycle count it started at. -/
structure Active where
  cmd   : Cmd
  state : EngState
  body  : Nat := 0
  elem  : Nat := 0
  start : Nat := 0
  buf   : List (Nat × Byte) := []
  push  : List (Nat × Byte) := []
  landed : Nat := 0
  bytes : Nat := 0
  flags : BitVec 8 := 0
  resvd : Bool := false
  taken : List VReg := []
  blocks : List (Nat × Nat) := []
  answers : List (Nat × Nat) := []
  failed : List (Nat × Nat × Nat) := []
  since  : Nat := 0
  deriving DecidableEq, Repr

/-- An element of a body read: its bytes and where they go, those for a FIFO bank by linear offset, its flags, the bytes it
counts, the sticky bits of format windows that reading it sets (R261) and the walks it leaves cached (R289). -/
structure ElemOut where
  writes : List (Nat × Byte) := []
  pushes : List (Nat × Byte) := []
  flags  : BitVec 8 := 0
  bytes  : Nat := 0
  marks  : List (Nat × BitVec 8) := []
  fills  : List TlbEntry := []
  deriving DecidableEq, Repr, Inhabited

/-- What reading one element of a body comes to: the element; a FIFO entry to take from a bank first; nothing to take; units
of an aperture to be answered first; a fault. -/
inductive ElemRes where
  | ok (e : ElemOut)
  | pop (bank : Nat)
  | empty
  | need (units : List Nat)
  | bad (i : TrapInfo)
  deriving DecidableEq, Repr

/-- A channel of a core (R297, R298). -/
structure Channel where
  queue  : List Cmd := []
  active : List Active := []
  deriving DecidableEq, Repr, Inhabited

/-- A counting flag (R225). -/
structure CFlag where
  value : Nat := 0
  ovf   : Bool := false
  deriving DecidableEq, Repr, Inhabited

/-- A named barrier (R231). -/
structure Barrier where
  target  : Nat := 1
  arrived : Nat := 0
  pending : Nat := 0
  phase   : Nat := 0
  ovr     : Bool := false
  excess  : Nat := 0
  deriving DecidableEq, Repr, Inhabited

/-- The events of one physical cycle at a barrier (R233): the barrier before them, when they fell, by clock cycle and by the
commits of the group's tasks after them, and what they bring. -/
structure BarCycle where
  bar      : Nat
  base     : Barrier
  cycle    : Nat
  stamp    : Nat
  inits    : List Nat := []
  arrivals : List Nat := []
  lands    : List Nat := []
  expects  : List Nat := []
  deriving DecidableEq, Repr, Inhabited

/-- On whose behalf an access is made: translation registers, privilege, requester code of R288, whether it is an
access of a core's L slot that may reach the regions of R247 directly, and the core and group of the task windows. -/
structure Ctx where
  troot : W64
  tasid : W64
  sup   : Bool
  req   : Nat
  slotL : Bool
  core  : Nat
  gid   : Nat
  deriving DecidableEq, Repr

/-- What a translation gives: the physical address, the leaf it used (0 for a task window), the entries the walk may
leave cached. -/
structure Trans where
  pa    : Nat
  leaf  : W64 := 0
  fills : List TlbEntry := []
  deriving DecidableEq, Repr, Inhabited

/-- A failing check of R35: step 1 to 5, and for step 1 and 5 the reason, value and field of R36. -/
structure EncFail where
  step   : Nat
  reason : Nat := 0
  value  : Nat := 0
  field  : Nat := 0
  deriving DecidableEq, Repr

/-- An entry of an eviction schedule (R254); `frames` the physical ranges of its lines, translated at capture (R255). -/
structure EvEntry where
  line  : Nat
  nline : Nat
  bar   : Nat
  phase : Nat
  frames : List (Nat × Nat) := []
  deriving DecidableEq, Repr

/-- What a bundle can wait on (R213, R239, R324): the object codes of R240 follow from it. A wait for a stream or a FIFO bank
holds the pops and pushes of earlier slots of its bundle (R14, R251), a wait for rows the physical ranges of an access,
whether it stores and whether a page of it is strongly ordered (R146, R154, R269). -/
inductive Wait where
  | flag (f n : Nat)
  | barrier (b p : Nat)
  | ringFull (n need : Nat)
  | ringIdle (n : Nat)
  | streamIdle (z : Nat)
  | stream (z before : Nat)
  | banks (first count : Nat)
  | carried (first count : Nat)
  | fifoPush (bank pushes pops : Nat)
  | fifoPop (bank pushes pops : Nat)
  | history
  | channelRoom (ch : Nat)
  | drain (ch : Nat) (bound : Nat)
  | pub
  | queueRoom (q : Nat)
  | cadence (n : Nat)
  | gangRoots
  | arrayIdle
  | bankIdle (first count : Nat)
  | arrayOwn
  | rows (store strong : Bool) (l : List (Nat × Nat))
  | answer (pa : Nat)
  | atomicBack
  | atomsDone
  | outside
  | modeSwitch (banks : List Nat)
  | windowIdle (w : Nat)
  | savePoint
  | landed (bodies stores : List (Nat × Nat)) (bound : Nat)
  | gang
  deriving DecidableEq, Repr

/-- One effect of a slot, performed when its bundle commits (R14). `atomic` holds of each lane its physical address, number,
operand and comparand (R279, R280). -/
inductive Effect where
  | wr (file : RegFile) (reg : Nat) (mask : BitVec 256) (val : VReg) (lat : Nat)
  | wrKeep (file : RegFile) (reg : Nat) (mask : BitVec 256) (val : VReg) (lat : Nat)
  | wrPart (reg : Nat) (mask : BitVec 256) (val : VReg) (lat : Nat) (part : Part)
  | target (t : Nat) (addr : W64)
  | jump (addr : W64)
  | loopOpen (l : Loop)
  | skipTo (addr : W64)
  | leave
  | raise (cause : Cause) (word : W64)
  | setSel (q : Nat) (v : BitVec 256)
  | setDesc (y : Nat) (d : Option (BitVec 512))
  | store (pa size val : Nat)
  | outStore (pa size val : Nat)
  | outAtomic (op : AtomOp) (pa b d : Nat) (reg : Code)
  | fifoPush (bank : Nat) (v : VReg)
  | fifoPop (bank reg lat : Nat)
  | enter (e : ATEntry)
  | dropEntry (vec : Bool) (reg : Nat)
  | setRing (n : Nat) (r : Ring)
  | popRing (n : Nat)
  | setStream (z : Nat) (st : Stream)
  | popStream (z reg : Nat) (p : Pred) (lat : Nat) (v : VReg)
  | alloc (first count : Nat)
  | free (first count : Nat)
  | arr (op : ArrayOp)
  | bankIs (bank : Nat) (v : Bank)
  | scl (rows : BitVec 768) (cols : BitVec 1536)
  | solve (sv : Solve)
  | histWrite (slot : Nat) (v : Bank)
  | histTake
  | histGive
  | post (f n : Nat)
  | postRemote (core f n : Nat)
  | take (f n : Nat)
  | clearOvf (f : Nat)
  | barInit (b target : Nat)
  | barArrive (b n reg : Nat)
  | barExpect (b n reg : Nat)
  | cmd (ch : Nat) (c : Cmd)
  | pub (e : Nat)
  | cancel (ch : Nat) (tag : Nat) (all : Bool)
  | statClear (ch : Nat)
  | launch (q : Nat) (data : Nat)
  | launchAt (q at' data : Nat)
  | crWrite (n : Nat) (v : W64)
  | tlbInv (kind asid s len : Nat)
  | xltInval (troot : W64) (s len : Nat)
  | xltPin (pin : Bool) (s len : Nat)
  | xltHint (m : Tier) (s len : Nat)
  | ucode (bytes : List Byte)
  | ctxSave (va : W64)
  | ctxLoad (parts : List (Nat × Nat × Nat))
  | ctxLoadNew (parts : List (Nat × Nat × Nat)) (slot : Nat)
  | counterTake (reg pa : Nat)
  | counterClear (pa : Nat)
  | windowFlags (w : Nat) (f : Nat)
  | leadIs (v : W64)
  | lateFlags (f : Nat)
  | schedule (l : List EvEntry)
  | touch (pa size : Nat)
  | rfe
  | captureSel (v : Nat)
  | latch (n : Nat) (mask : BitVec 256) (v : VReg)
  | hold (n : Nat) (v : VReg)
  | atomic (op : AtomOp) (l : List (Nat × Nat × Nat × Nat)) (d : Code) (vec : Bool)
  deriving DecidableEq, Repr

/-- What a slot of the bundle being issued has come to: the checks it fails, a fault of its operand fetch that is posted
and not trapped (R146, R176), what it waits for, and its effects (R14, R35, R332). -/
structure Staged where
  op      : Nat := 0
  cls     : Nat := 0
  stop    : Bool := true
  encs    : List EncFail := []
  fault   : Option TrapInfo := none
  fetch   : Option TrapInfo := none
  waits   : List Wait := []
  dests   : List (RegFile × Nat) := []
  effects : List Effect := []
  flags   : BitVec 8 := 0
  fills   : List TlbEntry := []
  deriving DecidableEq, Repr, Inhabited

/-- The bundle being issued: its address, the address after it, its schedule mode and
region (R53; start and end addresses), the context slot that issues it, all its words, those not yet executed,
what its executed slots have come to, and the select words its translation captured (R371). -/
structure Bundle where
  live    : Bool := false
  slot    : Nat := 0
  addr    : W64 := 0
  next    : W64 := 0
  exposed : Bool := false
  region  : Option (Nat × Nat) := none
  code    : List Nat := []
  words   : List Nat := []
  staged  : List Staged := []
  sel     : Option Nat := none
  deriving DecidableEq, Repr, Inhabited

/-- A bundle that waits: what it waits for and in which slots, the slot mask of the first wait that was not met, and the cycles
its wait timer has counted (R239). -/
structure Stall where
  bundle : Bundle
  waits  : List Wait
  slots  : List Nat := []
  mask   : Nat := 0
  waited : Nat := 0
  deriving DecidableEq, Repr

/-- Whether a resident task can issue (R213, R333). -/
inductive Run where
  | ready
  | parked (r : Rec) (posted : Bool)
  | saving       -- parked with *save area fault* (R348)
  deriving DecidableEq, Repr, Inhabited

/-- A resident task context (R5, R9, R25, R91, R100, R183, R282, R337); `entry` holds ENTRY until the first bundle is fetched
(R204), `objid` the OBJID of its code object once its header is read (R362), `tier1` the depth of the loop whose run is one atom
and `atomRoom` the slots that still fit into it (R364, R381), 0 none (R381), `micro` what the codes above 47 read in a microcode
body (R375; empty outside one). -/
structure Task where
  uid     : Nat := 0
  gid     : Nat := 0
  launch  : Nat := 0
  i0      : Nat := 0
  wid     : W64 := 0
  vcnt    : Nat := 16
  code    : W64 := 0
  entry   : Option Nat := none
  objid   : Option W64 := none
  wtexp   : Nat := 24
  g       : Vector W64 48 := Vector.replicate 48 0
  v       : Vector VReg 48 := Vector.replicate 48 0
  k       : Vector Pred 16 := Vector.replicate 16 0
  c       : BitVec 8 := 0
  t       : Vector Target 8 := Vector.replicate 8 {}
  q       : Vector (BitVec 256) 8 := Vector.replicate 8 0
  y       : Vector (Option (BitVec 512)) 16 := Vector.replicate 16 none
  n       : Vector Ring 16 := Vector.replicate 16 {}
  z       : Vector Stream 16 := Vector.replicate 16 {}
  acc     : Vector (Option Bank) 64 := Vector.replicate 64 none
  asw     : W64 := 0
  pc      : W64 := 0
  cycle   : Nat := 0
  exposed : Bool := false
  pending : List Pend := []
  loops   : List Loop := []
  tier1   : Nat := 0
  atomRoom : Nat := 0
  held    : Option Held := none
  keepMode : Bool := false
  scl     : List SclSet := []
  atab    : List ATEntry := []
  slv     : Solve := {}
  arrayQ  : List ArrayOp := []
  arrayStop : Option Rec := none
  chst    : Vector W64 2 := Vector.replicate 2 0
  troot   : W64 := 0
  tasid   : W64 := 0
  tvec    : W64 := 0
  saveptr : W64 := 0
  epc     : W64 := 0
  estat   : W64 := 0
  deleg   : W64 := 0x0007071F0F09037E
  trec    : Rec := {}
  run     : Run := .ready
  stall   : Option Stall := none
  preempt : Bool := false
  answers : List (Nat × Nat) := []
  fetched : List (Nat × Nat) := []
  poison  : List (RegFile × Nat) := []
  micro   : List (Nat × VReg) := []
  deriving DecidableEq, Repr, Inhabited

/-- A context image as it is read back (R345 to R347): STATE, CORE, SLOT, LAUNCH, the registers, the pending writes and
loops, the unstarted commands by channel, the history columns. -/
structure Image where
  state   : Nat
  core    : Nat
  slot    : Nat
  tag     : W64
  resume  : W64
  task    : Task
  cmds    : List (Nat × Cmd)
  columns : List (Nat × Bank)
  deriving DecidableEq, Repr

/-- Parts of an image as they are read (R353): offset, bytes and content, the units of apertures still needed, the places read
(R255, R261) and the walks that they leave cached (R289). -/
structure ImageRead where
  parts : List (Nat × Nat × Nat) := []
  needs : List Nat := []
  reads : List (Nat × Nat × W64) := []
  fills : List TlbEntry := []
  deriving DecidableEq, Repr, Inhabited

/-- An image held in the spill area (R348): its parts (offset, bytes, content), where it was to go, the task slot, and whether a
pre-emption (else a `ctx.save`) was interrupted, and the bundle of the `ctx.save`, which commits once the image is written. -/
structure Spill where
  parts   : List (Nat × Nat × Nat)
  va      : W64
  slot    : Nat
  preempt : Bool
  bundle  : Bundle := {}
  deriving DecidableEq, Repr

/-- A core (R213, R225, R227, R184, R297, R348, R358, R359, R361). -/
structure Core where
  running   : Option Nat := none
  last      : Nat := 3
  serves    : Option Nat := none
  flags     : Vector CFlag 32 := Vector.replicate 32 {}
  waiters   : List (Nat × Nat) := []
  histOwner : Option Nat := none
  hist      : Vector Bank 64 := Vector.replicate 64 0
  histBad   : List Nat := []
  ch        : Vector Channel 2 := Vector.replicate 2 {}
  spill     : Option Spill := none
  issued    : Nat := 0
  noI1      : Bool := false
  noV1      : Bool := false
  fenced    : Bool := false
  latches   : Vector VReg 8 := Vector.replicate 8 0
  holds     : Vector VReg 16 := Vector.replicate 16 0
  deriving DecidableEq, Repr, Inhabited

/-- A cluster-store bank (R249 to R253): owning group, mode code, FIFO pointers. -/
structure BankSt where
  owner  : Option Nat := none
  mode   : Nat := 0
  head   : Nat := 0
  tail   : Nat := 0
  fenced : Bool := false
  deriving DecidableEq, Repr, Inhabited

/-- A cluster: its store's banks and its dispatcher (R209, R210): queue served last, deficits, admitted groups in order. -/
structure Cluster where
  banks    : Vector BankSt 32 := Vector.replicate 32 {}
  last     : Option Nat := none
  deficits : List (Nat × Nat) := []
  waiting  : List Nat := []
  deriving DecidableEq, Repr, Inhabited

/-- How far a group is (R205). -/
inductive GroupPhase where
  | admitted | started | finished
  deriving DecidableEq, Repr, Inhabited

/-- A group (R201, R205, R231, R252). `cores` by i_0; `nsBase` near-store base of the reservation on each core; `barCycles` the
last cycle with events at each barrier (R233); `dead` the physical ranges of lines marked dead (R255); `lead` the control values
of the lead of a gang and `stream` the bundles it has fetched for the gang, with their OBJID, by contract cycle (R219). -/
structure Group where
  gid      : Nat := 0
  launch   : Nat := 0
  index    : Nat := 0
  cluster  : Nat := 0
  phase    : GroupPhase := .admitted
  cores    : List Nat := []
  nsBase   : List (Nat × Nat) := []
  banks    : List Nat := []
  barriers : List Barrier := []
  barCycles : List BarCycle := []
  csmode   : W64 := 0
  evbase   : W64 := 0
  evcnt    : W64 := 0
  sched    : List EvEntry := []
  dead     : List (Nat × Nat) := []
  alive    : Nat := 0
  origin   : Option Nat := none
  colls    : List ((Nat × Nat × Nat) × Nat) := []
  lead     : List (Nat × W64) := []
  stream   : List (Nat × W64 × Bundle) := []
  deriving DecidableEq, Repr, Inhabited

/-- The fields of a launch packet (R202). -/
structure Packet where
  kind     : Nat := 1
  mode     : Nat := 0
  prio     : Nat := 0
  eclass   : Nat := 0
  vcnt     : Nat := 16
  scope    : Nat := 0
  serial   : Bool := false
  starve   : Nat := 0
  gsize    : Nat := 0
  skew     : Nat := 0
  narg     : Nat := 0
  fw       : List Nat := []
  nsb      : Nat := 0
  bars     : Nat := 0
  csn      : Nat := 0
  wtexp    : Nat := 24
  entry    : Nat := 0
  csmode   : W64 := 0
  code     : W64 := 0
  ext      : List Nat := []
  cpladdr  : W64 := 0
  cplval   : W64 := 0
  depmask  : W64 := 0
  args     : List W64 := []
  pcount   : Nat := 0
  deriving DecidableEq, Repr, Inhabited

/-- The control values a queue's CTXPTR block gives (R405). -/
structure CtxVals where
  troot    : W64 := 0
  tasid    : W64 := 0
  tvec     : W64 := 0
  deleg    : W64 := 0
  savebase : W64 := 0
  deriving DecidableEq, Repr, Inhabited

/-- How far a launch is (R206, R209, R216). -/
inductive LaunchPhase where
  | waiting | candidate | done
  | taking      -- its dispatcher could not read the packet (R414)
  deriving DecidableEq, Repr, Inhabited

/-- A launch (R202 to R216, R400): `groups` its number of groups, `fail` a value written in place of CPLVAL, `parent`
the graph instance and the member number, `slotPa` the packet's slot. -/
structure Launch where
  id       : Nat := 0
  queue    : Nat := 0
  cluster  : Nat := 0
  slotPa   : Nat := 0
  pkt      : Packet := {}
  ctx      : CtxVals := {}
  groups   : Nat := 0
  admitted : Nat := 0
  finished : Nat := 0
  since    : Nat := 0
  phase    : LaunchPhase := .waiting
  fail     : Option W64 := none
  parent   : Option (Nat × Nat) := none
  stopped  : Option Rec := none
  deriving DecidableEq, Repr, Inhabited

/-- A pre-empted task whose image is in its save area (R343, R344), with what the image has no place for: the task's
number, its contract cycle, where its handler stands, an entry not reached yet, the mode of its last bundle, of each unstarted
command the descriptor address, the number among the collectives, and the privilege, of each pending write the elements
smaller than a byte, and its rings and streams with what bodies have reserved in them (R308, R309); `vcnt`, `banks` and `hist` are
the vector entries, the banks and the history store that it needs of its core again (R344), `answers` what apertures have answered
to the reads of its image. -/
structure Gone where
  core   : Nat
  slot   : Nat
  va     : W64
  troot  : W64
  tasid  : W64
  gid    : Nat
  marked : Bool := false
  uid    : Nat := 0
  cycle  : Nat := 0
  inner  : Option (W64 × List Pend × List Loop) := none
  entry  : Option Nat := none
  exposed : Bool := true
  keepMode : Bool := false
  tags   : List (W64 × Nat × Bool) := []
  parts  : List Part := []
  i0     : Nat := 0
  n      : Vector Ring 16 := Vector.replicate 16 {}
  z      : Vector Stream 16 := Vector.replicate 16 {}
  vcnt   : Nat := 0
  banks  : Nat := 0
  hist   : Bool := false
  answers : List (Nat × Nat) := []
  deriving DecidableEq, Repr

/-- An entry of the translation cache (R362): the die that holds it, the key (the latency profile is 0 everywhere), the
physical addresses of the words translated, the words, the region of the bundle, the select words captured by a `sel.ld`
of the bundle, whether the signature of its object was verified, and whether it was translated at tier 1 (R374). -/
structure XEntry where
  die     : Nat
  objid   : W64
  va      : Nat
  shape   : Nat
  exposed : Bool
  pas     : List Nat
  region  : Option (Nat × Nat) := none
  words   : List Nat
  sel     : Option Nat := none
  signed  : Bool := false
  tier1   : Bool := false
  deriving DecidableEq, Repr

/-- A loop head that a die counts (R363): its entries, whether its tier-1 translation is built, and for an `lp` loop the address
of the `lp` bundle, which ends at the head (R382). -/
structure HeadCount where
  die   : Nat
  objid : W64
  va    : Nat
  count : Nat
  tier1 : Bool := false
  lp    : Option Nat := none
  deriving DecidableEq, Repr

/-- A pinned word of an object on a die (R373): its address modulo 2^57. -/
structure CodeMark where
  die   : Nat
  objid : W64
  va    : Nat
  deriving DecidableEq, Repr

/-- A hinted range of an object on a die (R374): `len` bytes from an address modulo 2^57. -/
structure CodeHint where
  die   : Nat
  objid : W64
  start : Nat
  len   : Nat
  mode  : Tier
  deriving DecidableEq, Repr

/-- A code object as the Skiver keeps it from the first translation of one of its bundles (R54): the physical address of its
header, the physical pages of the object, OBJID, CODEOFF and CODESZ, whether header and region table keep R52 and R53,
and its regions (start offset, length, whether exposed). -/
structure CodeObj where
  pa      : Nat
  pages   : List Nat
  objid   : W64
  off     : Nat
  size    : Nat
  ok      : Bool
  regions : List (Nat × Nat × Bool) := []
  deriving DecidableEq, Repr

/-- An entry of the microcode store (R376). -/
structure UEntry where
  ep    : Nat
  f     : Nat
  cls   : Nat
  priv  : Bool
  fd    : Nat
  fa    : Nat
  fb    : Nat
  len   : Nat
  start : Nat
  deriving DecidableEq, Repr

/-- A format window (R259). -/
structure FWindow where
  raw    : W64 := 0
  len    : W64 := 0
  scale  : W64 := 0
  mirror : W64 := 0
  ctl    : W64 := 0
  deriving DecidableEq, Repr, Inhabited

/-- A publish entry (R316). -/
structure PubEntry where
  front : W64 := 0
  shad  : W64 := 0
  ctl   : W64 := 0
  deriving DecidableEq, Repr, Inhabited

/-- The network a remote post travels on (R389, R393, R394). -/
inductive Net where
  | mesh | dynamic | escape
  deriving DecidableEq, Repr, Inhabited

/-- A remote post in flight (R229, R389): the step at which it was ready, on the static mesh the steps at which it leaves and is
applied where the table in force gives them (R387), and whether it is held back for another table (R392). -/
structure Post where
  src    : Nat
  dst    : Nat
  flag   : Nat
  count  : Nat
  launch : Nat
  net    : Net := .mesh
  sent   : Nat := 0
  steps  : Option (Nat × Nat) := none
  held   : Bool := false
  chan   : Option (Nat × Nat) := none
  deriving DecidableEq, Repr

/-- Who makes an access to an aperture: the number of a task, a command or a launch; the launch it works for; of an engine
its core and channel (R206, R320, R396). -/
structure Source where
  uid    : Nat
  launch : Nat := 0
  chan   : Option (Nat × Nat) := none
  deriving DecidableEq, Repr, Inhabited

/-- An access to the host or peer aperture that has not been answered (R267, R279, R396). `store` gives the value
written, `atomic` the operation of a read-modify-write with its operands; a read has neither. `fetch` marks a read of an
operand fetcher (R146), `writer` the core that stores (R92). -/
structure Outside where
  ident  : Nat
  src    : Source
  pa     : Nat
  size   : Nat
  store  : Option Nat := none
  atomic : Option (AtomOp × Nat × Nat) := none
  since  : Nat
  fetch  : Bool := false
  writer : Option Nat := none
  deriving DecidableEq, Repr

/-- A device link (R391, R395): `await` names the flit whose replay comes next (source, flow, sequence number), `buffer` holds
the flits sent on it that may have to be replayed. -/
structure Link where
  up      : Bool := false
  train   : Bool := false
  retrain : Nat := 0
  retry   : Nat := 0
  peer    : Nat := 0
  fails   : Nat := 0
  await   : Option (BitVec 8 × Nat × BitVec 16) := none
  buffer  : List Flit := []
  deriving DecidableEq, Repr, Inhabited

/-- A flow of device-link flits: next sequence number to deliver and flits that arrived early (R395). -/
structure Flow where
  src   : Nat
  flow  : Nat
  next  : Nat
  early : List Flit := []
  deriving DecidableEq, Repr

/-- The device-wide control registers (R294, R338, R370, R391, R418). -/
structure Regs where
  ctrbase  : W64 := 0
  ctrthr   : W64 := 0
  fqbase   : W64 := 0
  fqctl    : W64 := 0
  fqwr     : Nat := 0
  fqrd     : Nat := 0
  xltctl   : W64 := 0x4002
  devid    : W64 := 0
  stbase   : W64 := 0
  ststat   : W64 := 2
  esccnt   : W64 := 0
  tsc      : Nat := 0
  cgctl    : W64 := 0
  cgstat   : W64 := 0
  collbase : W64 := 0
  nqbase   : W64 := 0
  nqctl    : W64 := 0
  nqwr     : Nat := 0
  nqrd     : Nat := 0
  qtbase   : W64 := 0
  hinvaddr : W64 := 0
  hinvlen  : W64 := 0
  hinvctl  : W64 := 0x4000000000000000
  herr     : W64 := 0
  bootstat : W64 := 0xFF
  hctxsel  : W64 := 0
  attctl   : W64 := 2
  attbuf   : W64 := 0
  lcidx    : W64 := 0
  pwr      : Vector W64 8 := Vector.replicate 8 250
  nonce    : Vector W64 4 := Vector.replicate 4 0
  windows  : Vector FWindow 8 := Vector.replicate 8 {}
  pubs     : Vector PubEntry 64 := Vector.replicate 64 {}
  links    : Vector Link 16 := Vector.replicate 16 {}
  route    : List (Nat × W64) := []
  deriving DecidableEq, Repr, Inhabited

/-- A fence of a unit (R415): unit code and number. -/
structure UnitFence where
  code : Nat
  num  : Nat
  deriving DecidableEq, Repr

/-- A record that waits to be posted, and the party it stops (R339): unit, slot or channel, requester. -/
structure Waiting where
  record : Rec
  unit : Nat
  slot : Nat
  req  : Nat
  deriving DecidableEq, Repr

/-- A signature result (R369): the physical address of the object's header, the physical pages of the object, the result. -/
structure SigRes where
  pa    : Nat
  pages : List Nat
  good  : Bool
  deriving DecidableEq, Repr

/-- The Skiver of the device: translation cache, code objects, signature results, pins, hints, loop heads (R54, R362 to
R374), and the microcode store that every core holds alike (R375, R376). -/
structure Skiver where
  xlat   : List XEntry := []
  objs   : List CodeObj := []
  sigs   : List SigRes := []
  pins   : List CodeMark := []
  hints  : List CodeHint := []
  heads  : List HeadCount := []
  uver   : Nat := 0
  uents  : List UEntry := []
  uslots : List Nat := []
  deriving DecidableEq, Repr, Inhabited

/-- A write of the host through BAR0 that waits for accesses under way, or for the answers of an aperture (R253, R260, R403):
`ident` names it as the source of its own reads, `key` and `uid` the parked task meant (R404). -/
structure HostWrite where
  ident   : Nat
  key     : Option Nat
  uid     : Nat
  num     : Nat
  value   : W64
  answers : List (Nat × Nat) := []
  deriving DecidableEq, Repr, Inhabited

/-- Records and notices that wait for room in their queue, the counts of MSI-X messages (R339, R407, R408), and the writes of
the host that wait (R253, R260, R403). -/
structure Notices where
  fqWait  : List Waiting := []
  nqWait  : List Rec := []
  msix0   : Nat := 0
  msix1   : Nat := 0
  hostOut : Option W64 := none
  hostWrites : List HostWrite := []
  deriving DecidableEq, Repr, Inhabited

/-- What is under way between parties: remote posts, the stitch table in force (its image by offset; none for the built-in
default table), the load asked for (true for LOAD), the
table checked and waiting for its switch (R385 to R394), accesses to
the host and peer apertures, device-link flows (R395, R396), and the line requests sent to the host in this clock cycle: line,
compute die, number of the party (R295). -/
structure Nets where
  posts     : List Post := []
  stitch    : Option (List Host.Cell) := none
  stitchReq : Option Bool := none
  stitchNew : Option (Option (List Host.Cell)) := none
  outside   : List Outside := []
  flows     : List Flow := []
  inbox     : List Flit := []
  lines     : List (Nat × Nat × Nat) := []
  deriving DecidableEq, Repr, Inhabited

/-- Clock, power, errors and life of the part (R397 to R399, R410 to R417). `holdStep` has the time-step counter keep its value
for one cycle; `measured`: a follower has measured since it joined its group (R398). -/
structure Chip where
  poison      : List Nat := []
  bubble      : Nat := 0
  bubbles     : List (Nat × Nat) := []
  lastBudget  : Nat := 0
  lastScrub   : Nat := 0
  lastFlush   : Nat := 0
  lastMeasure : Nat := 0
  lastCorrect : Nat := 0
  holdStep    : Bool := false
  measured    : Bool := false
  hot         : Bool := false
  halted      : Bool := false
  memOn       : Bool := true
  errs        : List (Nat × Nat × Nat × Nat) := []
  fences      : List UnitFence := []
  fencing     : List UnitFence := []
  fenceHold   : List (UnitFence × Nat) := []
  cycles      : Nat := 0
  life        : List (Nat × Nat) := []
  lifeNv      : List (Nat × Nat) := []
  reports     : Nat := 0
  measure     : Vector (BitVec 512) 8 := Vector.replicate 8 0
  deriving DecidableEq, Repr, Inhabited

/-- The state of the machine. `agenda`, `draws`, `cur` and `bundle` say what is being issued and are the model's own. -/
structure State where
  agenda   : List Turn := []
  draws    : Nat := 0
  cur      : Nat := 0
  bundle   : Bundle := {}
  mem      : List Host.Cell := []
  tlb      : List TlbEntry := []
  cores    : List (Nat × Core) := []
  tasks    : List (Nat × Task) := []
  clusters : List (Nat × Cluster) := []
  groups   : List (Nat × Group) := []
  launches : List (Nat × Launch) := []
  gone     : List Gone := []
  nextId   : Nat := 0
  sky      : Skiver := {}
  regs     : Regs := {}
  notes    : Notices := {}
  nets     : Nets := {}
  chip     : Chip := {}
  power    : Bool := true
  deriving DecidableEq, Repr, Inhabited

/-- The machine right after reset (R410): no task, no queue, every register at the value its rule gives, memory with
nothing listed. Where the spec gives no value the log entries 2, 3 and 4 name it. -/
def State.reset : State := {}

end Sys2Proof.Machine
end

