-- ==== Sys2Proof/Machine/Flags.lean ====
section
/-! DEFINITION. The arithmetic flags and the arithmetic status word (01 R9 to R11). -/

namespace Sys2Proof.Machine

/-- Invalid operation, ASW[0] (R9). -/
def fNV : BitVec 8 := 1
/-- Division by zero, ASW[1]. -/
def fDZ : BitVec 8 := 2
/-- Overflow, ASW[2]. -/
def fOF : BitVec 8 := 4
/-- Underflow, ASW[3]. -/
def fUF : BitVec 8 := 8
/-- Inexact, ASW[4]. -/
def fNX : BitVec 8 := 16
/-- Saturated, ASW[5]. -/
def fSAT : BitVec 8 := 32
/-- Bad ternary byte, ASW[6]. -/
def fTRN : BitVec 8 := 64
/-- A count saturated, ASW[7]. -/
def fCNT : BitVec 8 := 128

/-- A flag where a condition holds. -/
def flagIf (c : Bool) (f : BitVec 8) : BitVec 8 := if c then f else 0

/-- The sticky flags of an ASW (R9). -/
def aswFlags (asw : W64) : BitVec 8 := asw.extractLsb' 0 8
/-- The trap enables of an ASW (R9). -/
def aswEnables (asw : W64) : BitVec 8 := asw.extractLsb' 16 8

/-- The ASW with flags recorded (R10, R75). -/
def aswOr (asw : W64) (f : BitVec 8) : W64 := asw ||| f.setWidth 64

/-- What a write leaves in the ASW: reserved bits read as zero (R9). -/
def aswMask (v : W64) : W64 := v &&& 0xFF00FF

/-- The new flags of an operation: those clear in the ASW before the bundle (R10). -/
def newFlags (asw : W64) (f : BitVec 8) : BitVec 8 := f &&& ~~~(aswFlags asw)

/-- Whether an operation raises a new flag that is enabled (R11). -/
def trapsFlag (asw : W64) (f : BitVec 8) : Bool := newFlags asw f &&& aswEnables asw != 0

end Sys2Proof.Machine
end

