-- ==== Sys2Proof/Machine/Mem.lean ====
section
/-! DEFINITION. Maps keyed by numbers, and physical memory: a list of (address, byte) with rising addresses and no zero
byte; an unlisted byte reads as zero (log entry 3). -/

namespace Sys2Proof.Machine

/-- The entry of a key. -/
def mapGet {α : Type} (k : Nat) : List (Nat × α) → Option α
  | [] => none
  | (j, v) :: l => if j = k then some v else mapGet k l

/-- The map with an entry set; the keys stay rising. -/
def mapSet {α : Type} (k : Nat) (v : α) : List (Nat × α) → List (Nat × α)
  | [] => [(k, v)]
  | (j, w) :: l => if k < j then (k, v) :: (j, w) :: l else if j = k then (k, v) :: l else (j, w) :: mapSet k v l

/-- The map without an entry. -/
def mapDel {α : Type} (k : Nat) (l : List (Nat × α)) : List (Nat × α) := l.filter fun e => e.1 != k

/-- The byte at a physical address. -/
def memGet (m : List Host.Cell) (a : Nat) : Byte := (mapGet a m).getD 0

/-- Memory with a byte written: a zero byte is not listed. -/
def memSet (a : Nat) (b : Byte) (m : List Host.Cell) : List Host.Cell :=
  if b = 0 then mapDel a m else mapSet a b m

/-- Rising addresses and no listed zero byte: the canonical form of memory. -/
def memWf : List Host.Cell → Bool
  | [] => true
  | [c] => c.2 != 0
  | c :: d :: l => c.2 != 0 && decide (c.1 < d.1) && memWf (d :: l)

/-- The number whose `n` little-endian bytes stand at an address. -/
def memNat (m : List Host.Cell) (a : Nat) : Nat → Nat
  | 0 => 0
  | n + 1 => (memGet m a).toNat + 256 * memNat m (a + 1) n

/-- Memory with the `n` low bytes of a number written little-endian. -/
def memPut (a v : Nat) : Nat → List Host.Cell → List Host.Cell
  | 0, m => m
  | n + 1, m => memPut (a + 1) (v / 256) n (memSet a (BitVec.ofNat 8 v) m)

/-- Memory with bytes written from an address on. -/
def memPutBytes (a : Nat) : List Byte → List Host.Cell → List Host.Cell
  | [], m => m
  | b :: l, m => memPutBytes (a + 1) l (memSet a b m)

/-- The bytes at an address. -/
def memBytes (m : List Host.Cell) (a : Nat) : Nat → List Byte
  | 0 => []
  | n + 1 => memGet m a :: memBytes m (a + 1) n

/-- Memory with `n` bytes set to zero. -/
def memZero (a n : Nat) (m : List Host.Cell) : List Host.Cell := m.filter fun c => !(decide (a ≤ c.1) && decide (c.1 < a + n))

/-- The number of a list of bytes, the first lowest. -/
def bytesNat : List Byte → Nat
  | [] => 0
  | b :: l => b.toNat + 256 * bytesNat l

/-- The `n` low bytes of a number. -/
def natBytes (v : Nat) : Nat → List Byte
  | 0 => []
  | n + 1 => BitVec.ofNat 8 v :: natBytes (v / 256) n

/-- The bits of a number from `lo` up, `n` of them. -/
def bitsOf (x lo n : Nat) : Nat := x / 2 ^ lo % 2 ^ n

/-- A number read as a signed integer of `n` bits. -/
def toSigned (n x : Nat) : Int :=
  let y := x % 2 ^ n
  if 2 * y ≥ 2 ^ n then (y : Int) - (2 : Int) ^ n else (y : Int)

/-- The low `n` bits of an integer. -/
def ofSigned (n : Nat) (i : Int) : Nat := (i % (2 : Int) ^ n).toNat

end Sys2Proof.Machine
end

