-- ==== Sys2Proof/Machine/Float.lean ====
section
/-! DEFINITION. Numbers: formats, rounding, conversions, elementary functions and the order of sums (03 R55 to R74).
Finite values are exact dyadics; every rounding is one of the functions below. -/

namespace Sys2Proof.Machine

/-- Width of the fraction field (R57). -/
def fracBits : FFmt → Nat
  | .e2m1 => 1 | .e4m3 => 3 | .e5m2 => 2 | .f16 => 10 | .bf16 => 7 | .f32 => 23 | .f64 => 52

/-- Width of the exponent field (R57). -/
def expBits : FFmt → Nat
  | .e2m1 => 2 | .e4m3 => 4 | .e5m2 => 5 | .f16 => 5 | .bf16 => 8 | .f32 => 8 | .f64 => 11

/-- The exponent bias (R57). -/
def fbias : FFmt → Nat
  | .e2m1 => 1 | .e4m3 => 7 | .e5m2 => 15 | .f16 => 15 | .bf16 => 127 | .f32 => 127 | .f64 => 1023

/-- The significand width p of R65. -/
def prec (f : FFmt) : Nat := fracBits f + 1

/-- The position of the sign bit. -/
def signPos (f : FFmt) : Nat := fracBits f + expBits f

/-- Encoding of the largest finite magnitude (R57). -/
def maxFinite : FFmt → Nat
  | .e2m1 => 0x7 | .e4m3 => 0x7E
  | f => (2 ^ expBits f - 1) * 2 ^ fracBits f - 1

/-- Encoding of the magnitude that stands for an overflow to infinity (R66). -/
def overflowCode : FFmt → Nat
  | .e2m1 => 0x7 | .e4m3 => 0x7F
  | f => (2 ^ expBits f - 1) * 2 ^ fracBits f

/-- The canonical NaN (R58); E2M1 has none and takes +0 (R66). -/
def canonNan : FFmt → Nat
  | .e2m1 => 0 | .e4m3 => 0x7F
  | f => (2 ^ expBits f - 1) * 2 ^ fracBits f + 2 ^ (fracBits f - 1)

/-- An encoding with its sign. -/
def withSign (f : FFmt) (neg : Bool) (mag : Nat) : Nat := if neg then mag + 2 ^ signPos f else mag

/-- The value of an encoding (R57, R58). -/
def fvOf (f : FFmt) (x : Nat) : Fv :=
  let m := fracBits f
  let neg := x / 2 ^ signPos f % 2 == 1
  let e := x / 2 ^ m % 2 ^ expBits f
  let frac := x % 2 ^ m
  let num : Fv :=
    if e = 0 then .fin { neg := neg, man := frac, exp := 1 - (fbias f : Int) - m }
    else .fin { neg := neg, man := 2 ^ m + frac, exp := (e : Int) - fbias f - m }
  match f with
  | .e2m1 => num
  | .e4m3 => if x % 128 = 0x7F then .nan false else num
  | _ =>
    if e = 2 ^ expBits f - 1 then
      if frac = 0 then .inf neg else .nan (frac / 2 ^ (m - 1) % 2 == 0)
    else num

/-- NV for a signalling NaN operand (R58). -/
def sigFlag : Fv → BitVec 8
  | .nan s => flagIf s fNV
  | _ => 0

/-- An exact zero. -/
def dyZero : Dy := {}

/-- The dyadic of an integer. -/
def dyOfInt (i : Int) : Dy := { neg := decide (i < 0), man := i.natAbs, exp := 0 }

/-- The exact sum; an exact zero is +0 except that two −0 give −0 (R65, R108). -/
def dyAdd (a b : Dy) : Dy :=
  if a.man = 0 then (if b.man = 0 then { neg := a.neg && b.neg } else b)
  else if b.man = 0 then a
  else
    let e := min a.exp b.exp
    let x := a.man * 2 ^ (a.exp - e).toNat
    let y := b.man * 2 ^ (b.exp - e).toNat
    if a.neg = b.neg then { neg := a.neg, man := x + y, exp := e }
    else if x = y then dyZero
    else if x < y then { neg := b.neg, man := y - x, exp := e }
    else { neg := a.neg, man := x - y, exp := e }

/-- The exact product. -/
def dyMul (a b : Dy) : Dy := { neg := a.neg != b.neg, man := a.man * b.man, exp := a.exp + b.exp }

/-- Whether a dyadic is below another; −0 and +0 are equal. -/
def dyLt (a b : Dy) : Bool :=
  let d := dyAdd a { b with neg := !b.neg }
  d.man != 0 && d.neg

/-- The rounding mode without its `.sat` (R41). -/
def baseMode : Rounding → Rounding
  | .rnSat => .rn | .rzSat => .rz | m => m

/-- Whether a rounding code saturates (R41). -/
def satMode : Rounding → Bool
  | .rnSat => true | .rzSat => true | _ => false

/-- A magnitude shifted right by `k` bits and rounded (R64), and whether a nonzero bit was discarded. -/
def roundShift (mode : Rounding) (neg : Bool) (man k : Nat) : Nat × Bool :=
  let hi := man / 2 ^ k
  let lo := man % 2 ^ k
  if lo = 0 then (hi, false)
  else
    let up : Bool := match baseMode mode with
      | .rz => false
      | .ru => !neg
      | .rd => neg
      | .ro => hi % 2 == 0
      | _ => decide (2 * lo > 2 ^ k) || (decide (2 * lo = 2 ^ k) && hi % 2 == 1)
    (if up then hi + 1 else hi, true)

/-- A nonzero dyadic rounded to a multiple of 2^q: the multiple, and whether it is inexact. -/
def roundAt (mode : Rounding) (q : Int) (d : Dy) : Nat × Bool :=
  if d.exp ≥ q then (d.man * 2 ^ (d.exp - q).toNat, false)
  else roundShift mode d.neg d.man (q - d.exp).toNat

/-- Round-to-odd at a precision, with unbounded exponent range (R64, R65). -/
def roundOdd (p : Nat) (d : Dy) : Dy :=
  if d.man < 2 ^ p then d
  else
    let k := Nat.log2 d.man + 1 - p
    { d with man := (roundShift .ro d.neg d.man k).1, exp := d.exp + k }

/-- The final rounding of a dyadic to a format, with its flags (R59, R64 to R66, R74). -/
def finalRound (f : FFmt) (mode : Rounding) (ftz : Bool) (d : Dy) : Nat × BitVec 8 :=
  if d.man = 0 then (withSign f d.neg 0, 0)
  else
    let m := fracBits f
    let emin : Int := 1 - (fbias f : Int)
    let qn : Int := d.exp + (Nat.log2 d.man : Int) - m
    let q := max qn (emin - m)
    let r := roundAt mode q d
    let u := (roundAt mode qn d).1
    let eu : Int := qn + m + (if u ≥ 2 ^ (m + 1) then 1 else 0)
    let tiny := decide (eu < emin)
    let mag := ((q + m + fbias f).toNat - 1) * 2 ^ m + r.1
    if mag > maxFinite f then
      if satMode mode then (withSign f d.neg (maxFinite f), fSAT ||| fNX)
      else
        let toInf : Bool := match baseMode mode with
          | .rn => true
          | .ru => !d.neg
          | .rd => d.neg
          | _ => false
        (withSign f d.neg (if toInf then overflowCode f else maxFinite f), fOF ||| fNX)
    else if ftz && tiny then (withSign f d.neg 0, fUF ||| fNX)
    else (withSign f d.neg mag, flagIf r.2 fNX ||| flagIf (r.2 && tiny) fUF)

/-- A value delivered in a format (R58, R66). -/
def fvTo (f : FFmt) (mode : Rounding) (ftz : Bool) : Fv → Nat × BitVec 8
  | .nan _ => (canonNan f, flagIf (f == .e2m1) fNV)
  | .inf neg =>
    match f with
    | .e2m1 => (withSign f neg 0x7, if satMode mode then fSAT ||| fNX else fOF ||| fNX)
    | .e4m3 => if satMode mode then (withSign f neg 0x7E, fSAT) else (withSign f neg 0x7F, fNV)
    | _ => (withSign f neg (overflowCode f), 0)
  | .fin d => finalRound f mode ftz d

/-- The exact sum of two values, and NV for a signalling NaN or for infinities of opposite sign (R74). -/
def fvAdd (a b : Fv) : Fv × BitVec 8 :=
  let fl := sigFlag a ||| sigFlag b
  match a, b with
  | .nan _, _ => (.nan false, fl)
  | _, .nan _ => (.nan false, fl)
  | .inf x, .inf y => if x = y then (.inf x, fl) else (.nan false, fNV)
  | .inf x, .fin _ => (.inf x, fl)
  | .fin _, .inf y => (.inf y, fl)
  | .fin x, .fin y => (.fin (dyAdd x y), fl)

/-- The exact product of two values, and NV for a signalling NaN or for 0 × ∞ (R74). -/
def fvMul (a b : Fv) : Fv × BitVec 8 :=
  let fl := sigFlag a ||| sigFlag b
  match a, b with
  | .nan _, _ => (.nan false, fl)
  | _, .nan _ => (.nan false, fl)
  | .inf x, .inf y => (.inf (x != y), fl)
  | .inf x, .fin d => if d.man = 0 then (.nan false, fNV) else (.inf (x != d.neg), fl)
  | .fin d, .inf y => if d.man = 0 then (.nan false, fNV) else (.inf (d.neg != y), fl)
  | .fin x, .fin y => (.fin (dyMul x y), fl)

/-- The value with its sign changed. -/
def fvNeg : Fv → Fv
  | .nan s => .nan s
  | .inf n => .inf (!n)
  | .fin d => .fin { d with neg := !d.neg }

/-- A sum rounded to odd at an internal node (R65). -/
def fvOdd (p : Nat) : Fv → Fv
  | .fin d => .fin (roundOdd p d)
  | v => v

/-- A product, quotient or root rounded to odd at an internal node: an exact zero is +0, since only the sum of two −0 is −0
(R65). -/
def fvNode (p : Nat) : Fv → Fv
  | .fin d => .fin (if d.man = 0 then dyZero else roundOdd p d)
  | v => v

/-- Addition of two encodings with one rounding (R107). -/
def fAdd (f : FFmt) (ftz : Bool) (a b : Nat) : Nat × BitVec 8 :=
  let r := fvAdd (fvOf f a) (fvOf f b)
  let o := fvTo f .rn ftz r.1
  (o.1, r.2 ||| o.2)

/-- Subtraction of two encodings with one rounding (R107). -/
def fSub (f : FFmt) (ftz : Bool) (a b : Nat) : Nat × BitVec 8 :=
  let r := fvAdd (fvOf f a) (fvNeg (fvOf f b))
  let o := fvTo f .rn ftz r.1
  (o.1, r.2 ||| o.2)

/-- Multiplication of two encodings with one rounding (R107). -/
def fMul (f : FFmt) (ftz : Bool) (a b : Nat) : Nat × BitVec 8 :=
  let r := fvMul (fvOf f a) (fvOf f b)
  let o := fvTo f .rn ftz r.1
  (o.1, r.2 ||| o.2)

/-- Product of two encodings plus an addend, each with a sign, rounded once (R108). -/
def fFma (f : FFmt) (negProd negAdd : Bool) (a b d : Nat) : Nat × BitVec 8 :=
  let p := fvMul (fvOf f a) (fvOf f b)
  let pv := if negProd then fvNeg p.1 else p.1
  let dv := if negAdd then fvNeg (fvOf f d) else fvOf f d
  let r := fvAdd pv dv
  let o := fvTo f .rn false r.1
  (o.1, p.2 ||| r.2 ||| o.2)

/-- Whether `a` comes before `b` in the order of `vmin` and `vmax`: −0 below +0 (R60). -/
def fvBelow : Fv → Fv → Bool
  | .inf true, .inf true => false
  | .inf true, _ => true
  | _, .inf true => false
  | .inf false, _ => false
  | _, .inf false => true
  | .fin x, .fin y => dyLt x y || (decide (x.man = 0 ∧ y.man = 0) && x.neg && !y.neg)
  | _, _ => false

/-- The lesser or greater of two encodings (R60). -/
def fMinMax (f : FFmt) (isMax : Bool) (a b : Nat) : Nat × BitVec 8 :=
  let x := fvOf f a
  let y := fvOf f b
  match x, y with
  | .nan _, _ => (canonNan f, sigFlag x ||| sigFlag y)
  | _, .nan _ => (canonNan f, sigFlag x ||| sigFlag y)
  | _, _ => (if (if isMax then fvBelow x y else fvBelow y x) then b else a, 0)

/-- Whether `a` is less than `b` as values, −0 equal to +0. -/
def fvLt : Fv → Fv → Bool
  | .nan _, _ => false
  | _, .nan _ => false
  | .inf x, .inf y => x && !y
  | .inf x, .fin _ => x
  | .fin _, .inf y => !y
  | .fin x, .fin y => dyLt x y

/-- Whether two values are equal, −0 equal to +0; a NaN is equal to nothing. -/
def fvEq : Fv → Fv → Bool
  | .nan _, _ => false
  | _, .nan _ => false
  | .inf x, .inf y => x == y
  | .fin x, .fin y => (dyAdd x { y with neg := !y.neg }).man == 0
  | _, _ => false

/-- The conditions of `vcmp` on encodings (R40, R109). -/
def fCmp (f : FFmt) (c : VCond) (a b : Nat) : Bool × BitVec 8 :=
  let x := fvOf f a
  let y := fvOf f b
  let r := match c with
    | .eq => fvEq x y
    | .ne => !fvEq x y
    | .lt => fvLt x y
    | .le => fvLt x y || fvEq x y
  (r, sigFlag x ||| sigFlag y)

/-- The bounds of an integer type (R55). -/
def intMin (signed : Bool) (n : Nat) : Int := if signed then -((2 : Int) ^ (n - 1)) else 0
/-- The upper bound of an integer type (R55). -/
def intMax (signed : Bool) (n : Nat) : Int := if signed then (2 : Int) ^ (n - 1) - 1 else (2 : Int) ^ n - 1

/-- An exact integer kept modulo the width, or clamped under `.sat` (R55, R56). -/
def intTo (signed sat : Bool) (n : Nat) (i : Int) : Nat × BitVec 8 :=
  if sat then
    if i < intMin signed n then (ofSigned n (intMin signed n), fSAT)
    else if i > intMax signed n then (ofSigned n (intMax signed n), fSAT)
    else (ofSigned n i, 0)
  else (ofSigned n i, 0)

/-- A value converted to an integer type (R67). -/
def fvToInt (signed : Bool) (n : Nat) (mode : Rounding) (v : Fv) : Nat × BitVec 8 :=
  let indef := ofSigned n (intMin signed n)
  match v with
  | .nan _ => if satMode mode then (0, fNV) else (indef, fNV)
  | .inf neg =>
    if satMode mode then (ofSigned n (if neg then intMin signed n else intMax signed n), fSAT ||| fNX)
    else (indef, fNV)
  | .fin d =>
    let r := roundAt mode 0 d
    let i : Int := if d.neg then -(r.1 : Int) else r.1
    if i < intMin signed n then
      if satMode mode then (ofSigned n (intMin signed n), fSAT ||| fNX) else (indef, fNV)
    else if i > intMax signed n then
      if satMode mode then (ofSigned n (intMax signed n), fSAT ||| fNX) else (indef, fNV)
    else (ofSigned n i, flagIf r.2 fNX)

/-- A value converted to E8M0 (R68). -/
def fvToE8M0 (v : Fv) : Nat × BitVec 8 :=
  match v with
  | .fin d =>
    if d.man = 0 || d.neg then (0xFF, fNV)
    else
      let l := Nat.log2 d.man
      let up := decide (2 * d.man ≥ 3 * 2 ^ l)
      let e : Int := d.exp + l + (if up then 1 else 0)
      if e < -127 then (0, fUF ||| fNX)
      else if e > 127 then (0xFF, fOF ||| fNX)
      else ((e + 127).toNat, flagIf (d.man != 2 ^ l) fNX)
  | _ => (0xFF, fNV)

/-- The value of an E8M0 byte (R61). -/
def e8m0Value (s : Nat) : Fv := if s = 0xFF then .nan false else .fin { man := 1, exp := (s : Int) - 127 }

/-- A value converted to a ternary digit (R63, R68). -/
def fvToDigit (v : Fv) : Nat × BitVec 8 :=
  match v with
  | .fin d =>
    if d.man = 0 then (0, 0)
    else if (dyAdd d { neg := true, man := 1 }).man = 0 then (1, 0)
    else if (dyAdd d { man := 1 }).man = 0 then (2, 0)
    else (0, fNV)
  | _ => (0, fNV)

/-- Digit `i` of a packed ternary byte (R63). -/
def ternDigit (b i : Nat) : Nat := if b ≥ 243 then 0 else b / 3 ^ i % 3

/-- The weight of a digit (R63). -/
def digitWeight (t : Nat) : Int := if t = 1 then 1 else if t = 2 then -1 else 0

-- Elementary functions (R73). ------------------------------------------------------------------------------------

/-- The integer square root of `n`, given the number of bits of the root. -/
def isqrtBits (n : Nat) : Nat → Nat → Nat
  | 0, r => r
  | k + 1, r => let c := r + 2 ^ k; isqrtBits n k (if c * c ≤ n then c else r)

/-- The integer square root. -/
def isqrt (n : Nat) : Nat := isqrtBits n (Nat.log2 n / 2 + 1) 0

/-- A quotient or root of a real number cut after enough bits: the bits kept, with a last bit that is set where bits
were lost. -/
def sticky (q : Nat) (exact : Bool) : Nat := 2 * q + (if exact then 0 else 1)

/-- 1/x of a nonzero dyadic to at least `p + 4` bits. -/
def dyRcp (p : Nat) (d : Dy) : Dy :=
  let k := Nat.log2 d.man + p + 4
  { neg := d.neg, man := sticky (2 ^ k / d.man) (2 ^ k % d.man == 0), exp := -(k : Int) - 1 - d.exp }

/-- √x of a positive dyadic to at least `p + 4` bits. -/
def dySqrt (p : Nat) (d : Dy) : Dy :=
  let odd := decide (d.exp % 2 ≠ 0)
  let m := if odd then 2 * d.man else d.man
  let e := if odd then d.exp - 1 else d.exp
  let n := m * 2 ^ (2 * (p + 4))
  let r := isqrt n
  { man := sticky r (r * r == n), exp := e / 2 - ((p : Int) + 4) - 1 }

/-- 1/√x of a positive dyadic to at least `p + 4` bits. -/
def dyRsqrt (p : Nat) (d : Dy) : Dy :=
  let odd := decide (d.exp % 2 ≠ 0)
  let m := if odd then 2 * d.man else d.man
  let e := if odd then d.exp - 1 else d.exp
  let k := Nat.log2 m + p + 4
  let r := isqrt (2 ^ (2 * k) / m)
  { man := sticky r (r * r * m == 2 ^ (2 * k)), exp := -(k : Int) - 1 - e / 2 }

/-- The scale of the fixed-point bounds. -/
def fixS : Nat := 2 ^ 160
/-- floor(ln 2 × 2^160). -/
def ln2Lo : Nat := 1013035739299659071135698605846798551586536899366

/-- Lower bound of Σ y^k / k! in fixed point: terms from `k` on, term first. -/
def expLo (y : Nat) : Nat → Nat → Nat → Nat
  | 0, _, t => t
  | n + 1, k, t => t + expLo y n (k + 1) (t * y / (fixS * k))

/-- Upper bound of Σ y^k / k! in fixed point, for y < 1. -/
def expHi (y : Nat) : Nat → Nat → Nat → Nat
  | 0, _, t => 2 * t + 2
  | n + 1, k, t => t + expHi y n (k + 1) (t * y / (fixS * k) + 1)

/-- Lower bound of Σ z^(2k+1) / (2k+1) in fixed point. -/
def atanhLo (zz : Nat) : Nat → Nat → Nat → Nat
  | 0, _, _ => 0
  | n + 1, k, t => t / k + atanhLo zz n (k + 2) (t * zz / fixS)

/-- Upper bound of Σ z^(2k+1) / (2k+1) in fixed point, for z < 1/2. -/
def atanhHi (zz : Nat) : Nat → Nat → Nat → Nat
  | 0, k, t => 2 * t / k + 2
  | n + 1, k, t => t / k + 1 + atanhHi zz n (k + 2) (t * zz / fixS + 1)

/-- The greatest multiple of 2^e, from `lo` on, that a real is not below, and whether the real is more: `reaches m` says
whether the real is at least m × 2^e, and `n` multiples are tried. -/
def lastReached (reaches : Nat → Bool) : Nat → Nat → Nat
  | 0, lo => lo
  | n + 1, lo => if reaches (lo + 1) then lastReached reaches n (lo + 1) else lo

/-- The rounding of a real that is no multiple of 2^e and lies strictly between `lo` and `hi` such multiples: decided by the
ends where they round alike, else by comparing the real itself with the multiples between them. Every number halfway
between two neighbours of the format is such a multiple. -/
def roundBetween (f : FFmt) (neg : Bool) (lo hi : Nat) (e : Int) (reaches : Nat → Bool) : Nat × BitVec 8 :=
  let near (m : Nat) : Nat × BitVec 8 := finalRound f .rn false { neg := neg, man := 2 * m + 1, exp := e - 1 }
  if near lo = near (hi - 1) then near lo else near (lastReached reaches (hi - lo) lo)

/-- Whether 2^(i / 2^k) is at least m × 2^e, by comparing whole numbers: 2^i against the power 2^k of m × 2^e. -/
def exp2Reaches (i : Int) (k : Nat) (e : Int) (m : Nat) : Bool :=
  let j : Int := i - e * 2 ^ k
  if j ≥ 0 then decide (m ^ (2 ^ k) ≤ 2 ^ j.toNat) else m == 0

/-- Whether |log2 (n / 2^l)|, plus a whole number, is at least m / 2^160: the whole number and the sign are in `c`, so that
what is compared is n^(2^160) against 2^(l × 2^160 + c). -/
def log2Reaches (n l : Nat) (up : Bool) (c : Int) : Bool :=
  let j : Int := l * 2 ^ 160 + c
  if up then decide (j < 0) || decide (2 ^ j.toNat ≤ n ^ (2 ^ 160)) else decide (j ≥ 0) && decide (n ^ (2 ^ 160) ≤ 2 ^ j.toNat)

/-- 2^x of a nonzero dyadic (R73). -/
def fvExp2 (f : FFmt) (d : Dy) : Nat × BitVec 8 :=
  let k := (-d.exp).toNat
  let i : Int := if d.neg then -(d.man * 2 ^ d.exp.toNat : Int) else (d.man * 2 ^ d.exp.toNat : Int)
  let n := i / (2 : Int) ^ k
  let fr := (i % (2 : Int) ^ k).toNat
  let nc := max (-20000) (min 20000 n)
  if fr = 0 then finalRound f .rn false { man := 1, exp := nc }
  else
    let flo := fr * fixS / 2 ^ k
    let lo := expLo (flo * ln2Lo / fixS) 40 1 fixS
    let hi := expHi ((flo + 1) * (ln2Lo + 1) / fixS + 1) 40 1 fixS
    roundBetween f false lo hi (nc - 160) fun m => exp2Reaches (fr : Int) k (-160) m

/-- log2 x of a positive dyadic (R73). -/
def fvLog2 (f : FFmt) (d : Dy) : Nat × BitVec 8 :=
  let l := Nat.log2 d.man
  let e : Int := d.exp + l
  if d.man = 2 ^ l then finalRound f .rn false (dyOfInt e)
  else
    let z := (d.man - 2 ^ l) * fixS / (d.man + 2 ^ l)
    let lo := 2 * atanhLo (z * z / fixS) 60 1 z * fixS / (ln2Lo + 1)
    let hi := 2 * atanhHi ((z + 1) * (z + 1) / fixS + 1) 60 1 (z + 1) * fixS / ln2Lo + 1
    if e ≥ 0 then
      roundBetween f false (e.toNat * fixS + lo) (e.toNat * fixS + hi) (-160) fun m => log2Reaches d.man l true (m - e * fixS)
    else
      roundBetween f true ((-e).toNat * fixS - hi) ((-e).toNat * fixS - lo) (-160) fun m =>
        log2Reaches d.man l false (-(m : Int) - e * fixS)

/-- `vrcp` (R73). -/
def fRcp (f : FFmt) (x : Nat) : Nat × BitVec 8 :=
  match fvOf f x with
  | .nan s => (canonNan f, flagIf s fNV)
  | .inf n => (withSign f n 0, 0)
  | .fin d => if d.man = 0 then (withSign f d.neg (overflowCode f), fDZ) else finalRound f .rn false (dyRcp (prec f) d)

/-- `vrsqrt` (R73). -/
def fRsqrt (f : FFmt) (x : Nat) : Nat × BitVec 8 :=
  match fvOf f x with
  | .nan s => (canonNan f, flagIf s fNV)
  | .inf n => if n then (canonNan f, fNV) else (0, 0)
  | .fin d =>
    if d.man = 0 then (withSign f d.neg (overflowCode f), fDZ)
    else if d.neg then (canonNan f, fNV)
    else finalRound f .rn false (dyRsqrt (prec f) d)

/-- `vsqrt` (R73). -/
def fSqrt (f : FFmt) (x : Nat) : Nat × BitVec 8 :=
  match fvOf f x with
  | .nan s => (canonNan f, flagIf s fNV)
  | .inf n => if n then (canonNan f, fNV) else (overflowCode f, 0)
  | .fin d =>
    if d.man = 0 then (withSign f d.neg 0, 0)
    else if d.neg then (canonNan f, fNV)
    else finalRound f .rn false (dySqrt (prec f) d)

/-- `vexp2` (R73). -/
def fExp2 (f : FFmt) (x : Nat) : Nat × BitVec 8 :=
  match fvOf f x with
  | .nan s => (canonNan f, flagIf s fNV)
  | .inf n => if n then (0, 0) else (overflowCode f, 0)
  | .fin d => if d.man = 0 then finalRound f .rn false { man := 1 } else fvExp2 f d

/-- `vlog2` (R73). -/
def fLog2 (f : FFmt) (x : Nat) : Nat × BitVec 8 :=
  match fvOf f x with
  | .nan s => (canonNan f, flagIf s fNV)
  | .inf n => if n then (canonNan f, fNV) else (overflowCode f, 0)
  | .fin d =>
    if d.man = 0 then (withSign f true (overflowCode f), fDZ)
    else if d.neg then (canonNan f, fNV)
    else fvLog2 f d

-- The order of sums (R69 to R72). -------------------------------------------------------------------------------

/-- One level of the tree of R70. -/
def treeLevel {α : Type} (op : α → α → α) : List (Option α) → List (Option α)
  | a :: b :: l =>
    (match a, b with
      | none, y => y
      | x, none => x
      | some x, some y => some (op x y)) :: treeLevel op l
  | l => l

/-- The tree of R70 over at most 2^n leaves: the root, or none where every leaf is absent. -/
def treeRoot {α : Type} (op : α → α → α) : Nat → List (Option α) → Option α
  | 0, l => (l.head?).join
  | n + 1, l => treeRoot op n (treeLevel op l)

/-- A node of a sum: the exact sum rounded to odd, with the flags of the operands (R65, R70). -/
def sumNode (p : Nat) (a b : Fv × BitVec 8) : Fv × BitVec 8 :=
  let r := fvAdd a.1 b.1
  (fvOdd p r.1, a.2 ||| b.2 ||| r.2)

/-- Exact sum of two values with their flags (R69). -/
def exactNode (a b : Fv × BitVec 8) : Fv × BitVec 8 :=
  let r := fvAdd a.1 b.1
  (r.1, a.2 ||| b.2 ||| r.2)

/-- The sum of the finite members of an exact sum, with whether a NaN, +∞ and −∞ occur (R69). -/
def exactParts : List Fv → Dy → Bool → Bool → Bool → Dy × Bool × Bool × Bool
  | [], d, n, p, m => (d, n, p, m)
  | .nan _ :: l, d, _, p, m => exactParts l d true p m
  | .inf s :: l, d, n, p, m => exactParts l d n (p || !s) (m || s)
  | .fin x :: l, d, n, p, m => exactParts l (dyAdd d x) n p m

/-- The exact sum of all members at once (R69): a NaN member gives a NaN and no flag of its own, infinities of
opposite sign give a NaN and NV. The sum starts from −0, so that a sum of −0 alone is −0 (R65). DESIGN CHOICE: where a NaN
and infinities of both signs occur together, the spec does not say whether the infinities set NV; here they do not (log
entry 57). -/
def exactSum : List Fv → Fv × BitVec 8
  | [] => (.fin dyZero, 0)
  | v :: l =>
    let r := exactParts (v :: l) { neg := true } false false false
    if r.2.1 then (.nan false, 0)
    else if r.2.2.1 && r.2.2.2 then (.nan false, fNV)
    else if r.2.2.1 then (.inf false, 0)
    else if r.2.2.2 then (.inf true, 0)
    else (.fin r.1, 0)

end Sys2Proof.Machine
end

