-- ==== Sys2Proof/Machine/View.lean ====
section
/-! DEFINITION. The named accessors of State: cores, tasks, clusters, groups, launches, and the updates every later
operation goes through. A core, cluster or group that is not listed is at its reset value. -/

namespace Sys2Proof.Machine

/-- The key of a task: context slot `slot` of core `core` (R213). -/
def taskKey (core slot : Nat) : Nat := 4 * core + slot

/-- The state with its tasks replaced. -/
def State.withTasks (s : State) (l : List (Nat × Task)) : State := { s with tasks := l }
/-- The state with its cores replaced. -/
def State.withCores (s : State) (l : List (Nat × Core)) : State := { s with cores := l }
/-- The state with its clusters replaced. -/
def State.withClusters (s : State) (l : List (Nat × Cluster)) : State := { s with clusters := l }
/-- The state with its groups replaced. -/
def State.withGroups (s : State) (l : List (Nat × Group)) : State := { s with groups := l }
/-- The state with its launches replaced. -/
def State.withLaunches (s : State) (l : List (Nat × Launch)) : State := { s with launches := l }
/-- The state with its memory replaced. -/
def State.withMem (s : State) (m : List Host.Cell) : State := { s with mem := m }
/-- The state with its translation caches replaced. -/
def State.withTlb (s : State) (l : List TlbEntry) : State := { s with tlb := l }
/-- The state with the bundle being issued replaced. -/
def State.withBundle (s : State) (b : Bundle) : State := { s with bundle := b }
/-- The state with the Skiver replaced. -/
def State.withSky (s : State) (k : Skiver) : State := { s with sky := k }
/-- The state with its control registers replaced. -/
def State.withRegs (s : State) (r : Regs) : State := { s with regs := r }
/-- The state with its waiting records and notices replaced. -/
def State.withNotes (s : State) (n : Notices) : State := { s with notes := n }
/-- The state with what is under way between parties replaced. -/
def State.withNets (s : State) (n : Nets) : State := { s with nets := n }
/-- The state with clock, power and error state replaced. -/
def State.withChip (s : State) (c : Chip) : State := { s with chip := c }

/-- Core `c`. -/
def State.core (s : State) (c : Nat) : Core := (mapGet c s.cores).getD {}
/-- Core `c` set. -/
def State.setCore (s : State) (c : Nat) (x : Core) : State := s.withCores (mapSet c x s.cores)
/-- Core `c` changed. -/
def State.updCore (s : State) (c : Nat) (f : Core → Core) : State := s.setCore c (f (s.core c))

/-- The task of a key. -/
def State.task (s : State) (k : Nat) : Option Task := mapGet k s.tasks
/-- The task of a key set. -/
def State.setTask (s : State) (k : Nat) (t : Task) : State := s.withTasks (mapSet k t s.tasks)
/-- The task of a key changed, where there is one. -/
def State.updTask (s : State) (k : Nat) (f : Task → Task) : State :=
  match s.task k with
  | some t => s.setTask k (f t)
  | none => s
/-- The state without the task of a key. -/
def State.dropTask (s : State) (k : Nat) : State := s.withTasks (mapDel k s.tasks)

/-- Cluster `c`. -/
def State.cluster (s : State) (c : Nat) : Cluster := (mapGet c s.clusters).getD {}
/-- Cluster `c` changed. -/
def State.updCluster (s : State) (c : Nat) (f : Cluster → Cluster) : State :=
  s.withClusters (mapSet c (f (s.cluster c)) s.clusters)

/-- Group `g`. -/
def State.group (s : State) (g : Nat) : Group := (mapGet g s.groups).getD {}
/-- Group `g` set. -/
def State.setGroup (s : State) (g : Nat) (x : Group) : State := s.withGroups (mapSet g x s.groups)
/-- Group `g` changed. -/
def State.updGroup (s : State) (g : Nat) (f : Group → Group) : State := s.setGroup g (f (s.group g))

/-- Launch `l`. -/
def State.launch (s : State) (l : Nat) : Launch := (mapGet l s.launches).getD {}
/-- Launch `l` set. -/
def State.setLaunch (s : State) (l : Nat) (x : Launch) : State := s.withLaunches (mapSet l x s.launches)
/-- Launch `l` changed. -/
def State.updLaunch (s : State) (l : Nat) (f : Launch → Launch) : State := s.setLaunch l (f (s.launch l))

/-- The key of the task whose bundle is being issued, where there is one. -/
def State.curKey (s : State) : Option Nat := if s.bundle.live then some (taskKey s.cur s.bundle.slot) else none

/-- The task whose bundle is being issued. -/
def State.curTask (s : State) : Option Task := s.curKey.bind s.task

/-- The issuing task changed. -/
def State.updCur (s : State) (f : Task → Task) : State :=
  match s.curKey with
  | some k => s.updTask k f
  | none => s

/-- A fresh identifier (the model's own). -/
def State.fresh (s : State) : Nat × State := (s.nextId, { s with nextId := s.nextId + 1 })

/-- The cluster of a core (R208): eight cores each. -/
def clusterOf (core : Nat) : Nat := core / 8
/-- The compute die of a core: 64 cores each (R257). -/
def dieOf (core : Nat) : Nat := core / 64

/-- Whether a task is at supervisor privilege (R337). -/
def Task.sup (t : Task) : Bool := t.estat.getLsbD 0
/-- Whether a task is in its handler (R337). -/
def Task.inh (t : Task) : Bool := t.estat.getLsbD 2
/-- The privilege `rfe` restores (R337). -/
def Task.pprv (t : Task) : Bool := t.estat.getLsbD 1

/-- ESTAT from its three fields (R337). -/
def estatOf (inh pprv prv : Bool) : W64 :=
  BitVec.ofNat 64 ((if inh then 4 else 0) + (if pprv then 2 else 0) + (if prv then 1 else 0))

/-- The group of a task. -/
def State.groupOf (s : State) (t : Task) : Group := s.group t.gid

/-- The launch of a task. -/
def State.launchOf (s : State) (t : Task) : Launch := s.launch t.launch

/-- Whether a task is a member of a cadenced gang (R217). -/
def State.cadenced (s : State) (t : Task) : Bool := (s.launch t.launch).pkt.mode == 1

/-- The tasks of a group, as (key, task). -/
def State.tasksOf (s : State) (gid : Nat) : List (Nat × Task) := s.tasks.filter fun e => e.2.gid == gid

/-- The physical address of byte 0 of core `c`'s near store (R246). -/
def nearPa (c : Nat) : Nat := 0x080000000000 + c * 0x40000
/-- The physical address of byte 0 of bank `b` of cluster `k`'s store (R246, R247). -/
def bankPa (k b : Nat) : Nat := 0x080100000000 + k * 0x400000 + b * 0x20000

end Sys2Proof.Machine
end

