-- ==== Sys2Proof/Machine/Xlate.lean ====
section
/-! DEFINITION. Address translation, rights, the task windows and the checks of an access (14 R246 to R248, R259 to R262,
16 R282 to R289). -/

namespace Sys2Proof.Machine

/-- Base of the near-store window (R248). -/
def nearBase : Nat := 0xF000000000
/-- Base of the cluster-store window (R248). -/
def clusterBase : Nat := 0xF100000000

/-- Usable bytes of device memory (R415): the fenced pseudo-channels are code 5. -/
def usableSize (s : State) : Nat :=
  let h := 1280 - (s.chip.fences.filter fun f => f.code == 5).length
  min (2 ^ 39) (h * 1677722 * 256 / 2 ^ 30 * 2 ^ 30)

/-- The region of a physical address (R246, R415); offsets of 2^39 or more in a peer aperture are reserved (R247). -/
def regionOf (s : State) (pa : Nat) : Region :=
  if pa < 2 ^ 39 then (if pa < usableSize s then .device else .reserved)
  else if 0x040000000000 ≤ pa ∧ pa < 0x080000000000 then .decoded
  else if 0x080000000000 ≤ pa ∧ pa < 0x080008000000 then .near
  else if 0x080100000000 ≤ pa ∧ pa < 0x080110000000 then .cluster
  else if 0x081000000000 ≤ pa ∧ pa < 0x081100000000 then .control
  else if 0x1000000000000 ≤ pa ∧ pa < 0x2000000000000 then .host
  else if 0x4000000000000 ≤ pa ∧ pa < 0x8000000000000 then (if pa % 2 ^ 42 < 2 ^ 39 then .peer else .reserved)
  else .reserved

/-- Whether a virtual address is canonical (R283, R87). -/
def canonical (va : W64) : Bool := va.extractLsb' 56 8 == 0 || va.extractLsb' 56 8 == 0xFF

/-- A field of a page-table entry. -/
def pteField (pte : W64) (lo n : Nat) : Nat := bitsOf pte.toNat lo n

/-- The ADDR of an entry as a physical address (R284). -/
def pteAddr (pte : W64) : Nat := pteField pte 12 40 * 4096

/-- The number of entries of a leaf's group (R285). -/
def contOf (pte : W64) : Nat := 4 ^ pteField pte 52 2

/-- The page size of a leaf at a level (R285). -/
def pageSize (level : Nat) : Nat := 2 ^ (12 + 9 * level)

/-- The index of an address at a level (R283). -/
def vaIndex (va level : Nat) : Nat := va / pageSize level % 512

/-- The reason for which an entry read at a level fails (R284, R287), checks in rising order of the reasons. -/
def pteBad (level : Nat) (va : Nat) (pte : W64) : Option Nat :=
  let leaf := pte.getLsbD 1
  if !pte.getLsbD 0 then some 0x02
  else if pteField pte 58 6 ≠ 0 ∨ pteField pte 7 3 ≠ 0 then some 0x03
  else if !leaf then
    if pteField pte 52 6 ≠ 0 ∨ pteField pte 2 10 ≠ 0 then some 0x03
    else if level = 0 then some 0x04
    else if pteAddr pte ≥ 2 ^ 39 then some 0x07
    else none
  else if level = 4 then some 0x04
  else if pteField pte 10 2 = 3 ∨ (pte.getLsbD 4 ∧ ¬ pte.getLsbD 3) ∨ (pte.getLsbD 5 ∧ pte.getLsbD 4) then some 0x05
  else
    let p := pageSize level
    let i := vaIndex va level
    let n := contOf pte
    if pteAddr pte % p ≠ 0 then some 0x06
    else if (pteAddr pte + 2 ^ 52 - (i % n) * p) % (n * p) ≠ 0 then some 0x06
    else none

/-- The walk from a table at a level down (R283, R287): the leaf, its level and the entries read, or the reason, level
and table of the entry that fails, with the good entries above it. -/
def walkFrom (mem : List Host.Cell) (asid va : Nat) (fills : List TlbEntry) :
    Nat → Nat → Except (Nat × Nat × Nat × List TlbEntry) (W64 × Nat × List TlbEntry)
  | 0, table =>
    let pte := BitVec.ofNat 64 (memNat mem (table + 8 * vaIndex va 0) 8)
    match pteBad 0 va pte with
    | some r => .error (r, 0, table, fills)
    | none => .ok (pte, 0, { asid := asid, level := 0, key := va / pageSize 0, table := table, pte := pte } :: fills)
  | l + 1, table =>
    let pte := BitVec.ofNat 64 (memNat mem (table + 8 * vaIndex va (l + 1)) 8)
    let e : TlbEntry := { asid := asid, level := l + 1, key := va / pageSize (l + 1), table := table, pte := pte }
    match pteBad (l + 1) va pte with
    | some r => .error (r, l + 1, table, fills)
    | none => if pte.getLsbD 1 then .ok (pte, l + 1, e :: fills) else walkFrom mem asid va (e :: fills) l (pteAddr pte)

/-- The addresses of the table entries that the walk from a table at a level down reads. -/
def walkReads (mem : List Host.Cell) (va : Nat) : Nat → Nat → List Nat
  | 0, table => [table + 8 * vaIndex va 0]
  | l + 1, table =>
    let a := table + 8 * vaIndex va (l + 1)
    let pte := BitVec.ofNat 64 (memNat mem a 8)
    if (pteBad (l + 1) va pte).isSome || pte.getLsbD 1 then [a] else a :: walkReads mem va l (pteAddr pte)

/-- The first poisoned granule that a walk reads (R414; log entry 32). -/
def walkPoison (s : State) (va level table : Nat) : Option Nat :=
  if s.chip.poison = [] then none
  else (walkReads s.mem va level table).findSome? fun a => s.chip.poison.find? fun g => decide (g ≤ a) && decide (a < g + 64)

/-- The physical address a leaf with index `i` of its own gives (R286). -/
def leafPa (va level i : Nat) (pte : W64) : Nat :=
  let p := pageSize level
  (pteAddr pte + vaIndex va level * p + 2 ^ 52 - i * p + va % p) % 2 ^ 52

/-- The right an access lacks, where it lacks one (R287). -/
def rightsMissing (sup : Bool) (acc : Acc) (pte : W64) : Bool :=
  (!sup && !pte.getLsbD 2) ||
  (match acc with
    | .read => !pte.getLsbD 3
    | .write => !pte.getLsbD 4
    | .atomic => !(pte.getLsbD 3 && pte.getLsbD 4)
    | .exec => !pte.getLsbD 5)

/-- What the cached entries of an address space allow an access to use (R286, R289): physical address and leaf. A
choice that would fault is none: a fault comes from a fresh walk. With each use come the entries that its walk leaves cached. -/
def cachedUses (s : State) (asid va : Nat) (sup : Bool) (acc : Acc) : List TlbEntry → List (Nat × W64 × List TlbEntry)
  | [] => []
  | e :: l =>
    let rest := cachedUses s asid va sup acc l
    if e.asid ≠ asid then rest
    else if e.pte.getLsbD 1 then
      let i := va / pageSize e.level
      if i / contOf e.pte = e.key / contOf e.pte ∧ ¬ rightsMissing sup acc e.pte then
        (leafPa va e.level (e.key % 512) e.pte, e.pte, []) :: rest
      else rest
    else if e.level ≥ 1 ∧ va / pageSize e.level = e.key ∧ (walkPoison s va (e.level - 1) (pteAddr e.pte)).isNone then
      match walkFrom s.mem asid va [] (e.level - 1) (pteAddr e.pte) with
      | .ok (pte, lv, f) =>
        if rightsMissing sup acc pte then rest else (leafPa va lv (vaIndex va lv) pte, pte, f) :: rest
      | .error _ => rest
    else rest

/-- The word of *page fault* (R288). -/
def pageFaultWord (reason level : Nat) (acc : Acc) (req table : Nat) : W64 :=
  BitVec.ofNat 64 (reason + level * 2 ^ 8 + acc.code * 2 ^ 16 + req * 2 ^ 20 + table / 4096 * 2 ^ 24)

/-- The word of *permission* raised by the rights table (R288). -/
def rightsWord (acc : Acc) (req : Nat) (pte : W64) : W64 :=
  BitVec.ofNat 64 (pteField pte 0 6 + acc.code * 2 ^ 16 + req * 2 ^ 20 + 2 ^ 63)

/-- Translation of a canonical address by a fresh walk and the rights table (R287, R288); a walk that meets poison is an
*uncorrectable error* of the access (R414). -/
def walkFresh (s : State) (c : Ctx) (acc : Acc) (va : W64) : Except TrapInfo Trans :=
  let a := va.toNat % 2 ^ 57
  let root := c.troot.toNat / 4096 % 2 ^ 40 * 4096
  let asid := c.tasid.toNat % 2 ^ 16
  if root ≥ 2 ^ 39 then
    .error { cause := .pageFault, word := pageFaultWord 0x07 4 acc c.req root, target := some va }
  else
    match walkPoison s a 4 root, walkFrom s.mem asid a [] 4 root with
    | some g, _ => .error { cause := .uncorrectable, word := BitVec.ofNat 64 g, target := some va }
    | none, .error (r, l, t, f) => .error { cause := .pageFault, word := pageFaultWord r l acc c.req t, target := some va, fills := f }
    | none, .ok (pte, l, fills) =>
      if rightsMissing c.sup acc pte then
        .error { cause := .permission, word := rightsWord acc c.req pte, target := some va, fills := fills }
      else .ok { pa := leafPa a l (vaIndex a l) pte, leaf := pte, fills := fills }

/-- Translation of a canonical address: a fresh walk, or one of the uses that the cached entries allow. The free value
chooses where they differ (R286, R289, R293). -/
def translate (s : State) (c : Ctx) (acc : Acc) (va : W64) : Except TrapInfo Trans :=
  let fresh := walkFresh s c acc va
  let uses := cachedUses s (c.tasid.toNat % 2 ^ 16) (va.toNat % 2 ^ 57) c.sup acc s.tlb
  let same : Bool := match fresh with
    | .ok r => uses.all fun u => u.1 == r.pa && u.2.1 == r.leaf
    | .error _ => uses.isEmpty
  if same then fresh
  else
    let p := Config.tlbPick s.draws va.toNat 0
    if p = 0 then fresh
    else
      match uses[(p - 1) % uses.length]? with
      | some u => .ok { pa := u.1, leaf := u.2.1, fills := u.2.2 }
      | none => fresh

/-- The word of *permission* at a task window (R248). -/
def windowWord (o : Nat) (cluster : Bool) : W64 :=
  BitVec.ofNat 64 (o % 2 ^ 32 + (if cluster then 2 ^ 61 else 0) + 2 ^ 62)

/-- The mode code of the group's bank `i` (R252). -/
def bankMode (g : Group) (i : Nat) : Nat := bitsOf g.csmode.toNat (2 * i) 2

/-- Whether an address lies in the near-store window range (R248). -/
def inNear (va : W64) : Bool := decide (nearBase ≤ va.toNat) && decide (va.toNat < nearBase + 2 ^ 32)
/-- Whether an address lies in the cluster-store window range (R248). -/
def inCluster (va : W64) : Bool := decide (clusterBase ≤ va.toNat) && decide (va.toNat < clusterBase + 2 ^ 32)

/-- Size in bytes of the near-store reservation of a group on a core (R205); 0 without one. -/
def nearSize (s : State) (gid core : Nat) : Nat :=
  match mapGet core (s.group gid).nsBase with
  | some _ => (s.launch (s.group gid).launch).pkt.nsb * 1024
  | none => 0

/-- A byte of the near-store window (R120, R248). -/
def nearPlace (s : State) (gid core : Nat) (va : W64) : Except TrapInfo Nat :=
  let o := va.toNat - nearBase
  match mapGet core (s.group gid).nsBase with
  | some b =>
    if o < nearSize s gid core then .ok (nearPa core + b + o)
    else .error { cause := .permission, word := windowWord o false, target := some va }
  | none => .error { cause := .permission, word := windowWord o false, target := some va }

/-- A byte of the cluster-store window (R248, R251): a bank in cache-way mode and a bank in FIFO mode are refused. -/
def clusterPlace (s : State) (gid : Nat) (va : W64) : Except TrapInfo Nat :=
  let o := va.toNat - clusterBase
  let g := s.group gid
  let i := o / 0x20000
  match g.banks[i]? with
  | some b =>
    if bankMode g i = 1 then .ok (bankPa g.cluster b + o % 0x20000)
    else if bankMode g i = 2 then .error { cause := .permission, word := BitVec.ofNat 64 i, target := some va }
    else .error { cause := .permission, word := windowWord o true, target := some va }
  | none => .error { cause := .permission, word := windowWord o true, target := some va }

/-- The enabled format window that covers an alias address (R259, R262). -/
def windowAt (s : State) (pa : Nat) : Option Nat :=
  (List.range 8).find? fun w =>
    match s.regs.windows[w]? with
    | some f =>
      let ctl := f.ctl.toNat
      let epb := if bitsOf ctl 0 4 = 0 then 2 else if bitsOf ctl 0 4 = 3 then 5 else 1
      let ed := if bitsOf ctl 4 4 = 1 then 2 else 1
      bitsOf ctl 8 1 == 1 && decide (f.mirror.toNat ≤ pa) && decide (pa < f.mirror.toNat + f.len.toNat * epb * ed)
    | none => false

/-- The bank of a physical address of the cluster-store region, and whether it is a plain store there (R247). -/
def bankPlain (s : State) (pa : Nat) : Bool :=
  let o := pa - 0x080100000000
  let b := (s.cluster (o / 0x400000)).banks[o % 0x400000 / 0x20000]?
  match b with
  | some x => x.mode == 1
  | none => false

/-- The enabled publish entry of an address space whose range F holds a physical address (R316, R317). -/
def pubEntryAt (s : State) (asid pa : Nat) : Option PubEntry :=
  s.regs.pubs.toList.find? fun e =>
    let ctl := e.ctl.toNat
    bitsOf ctl 0 1 == 1 && bitsOf ctl 32 16 == asid && decide (e.front.toNat ≤ pa) &&
      decide (pa < e.front.toNat + bitsOf ctl 8 20 * 4096)

/-- The physical address that a page of a publishable buffer gives an access (R317). -/
def pubPlace (s : State) (c : Ctx) (acc : Acc) (va : W64) (r : Trans) : Except TrapInfo Trans :=
  let deny : Except TrapInfo Trans := .error { cause := .permission, word := BitVec.ofNat 64 r.pa, target := some va }
  if !r.leaf.getLsbD 6 then .ok r
  else
    match pubEntryAt s (c.tasid.toNat % 2 ^ 16) r.pa with
    | none => deny
    | some e =>
      let o := r.pa - e.front.toNat
      let side := bitsOf e.ctl.toNat 1 1 == 1
      let visible := if side then e.shad.toNat else e.front.toNat
      let shadow := if side then e.front.toNat else e.shad.toNat
      match acc with
      | .read => .ok { r with pa := visible + o }
      | .exec => .ok { r with pa := visible + o }
      | .write => if c.req = 2 then .ok { r with pa := shadow + o } else deny
      | .atomic => deny

/-- The region checks of a translated access (R247, R262). -/
def regionCheck (s : State) (c : Ctx) (acc : Acc) (size : Nat) (va : W64) (r : Trans) : Except TrapInfo Trans :=
  let deny : Except TrapInfo Trans := .error { cause := .permission, word := BitVec.ofNat 64 r.pa, target := some va }
  let plain := match acc with | .read => true | .write => true | _ => false
  match regionOf s r.pa with
  | .reserved => deny
  | .near => if c.slotL && c.sup && plain then .ok r else deny
  | .cluster => if c.slotL && c.sup && plain && bankPlain s r.pa then .ok r else deny
  | .control => if c.slotL && c.sup && plain && size == 8 && r.pa % 8 == 0 then .ok r else deny
  | .decoded =>
    if (windowAt s r.pa).isNone then deny
    else match acc with
      | .write => .error { cause := .storeToDecoded, target := some va }
      | .atomic => .error { cause := .storeToDecoded, target := some va }
      | _ => .ok r
  | _ => .ok r

/-- The checks of an access to one page from an address: canonical, window, translation, rights, region, alias (R87,
R122, R247, R248, R262, R287). -/
def place (s : State) (c : Ctx) (acc : Acc) (size : Nat) (va : W64) : Except TrapInfo Trans :=
  if !canonical va then
    .error { cause := .pageFault, word := pageFaultWord 0x01 0 acc c.req 0, target := some va }
  else if inNear va then
    if acc == .exec then .error { cause := .permission, word := windowWord (va.toNat - nearBase) false, target := some va }
    else (nearPlace s c.gid c.core va).map fun pa => { pa := pa }
  else if inCluster va then
    if acc == .exec then
      .error { cause := .permission, word := windowWord (va.toNat - clusterBase) true, target := some va }
    else (clusterPlace s c.gid va).map fun pa => { pa := pa }
  else
    match translate s c acc va with
    | .error e => .error e
    | .ok r =>
      match (pubPlace s c acc va r).bind (regionCheck s c acc size va) with
      | .error e => .error { e with fills := r.fills }
      | .ok q => .ok q

/-- The context of a core's L slot for a task (R282). -/
def slotCtx (core : Nat) (t : Task) : Ctx :=
  { troot := t.troot, tasid := t.tasid, sup := t.sup, req := 0, slotL := true, core := core, gid := t.gid }

-- Reading what an access reaches. --------------------------------------------------------------------------------

/-- A decoded element of a format window with its flags (R261): window registers, element number. -/
def decodeElem (m : List Host.Cell) (f : FWindow) (n : Nat) : Nat × BitVec 8 :=
  let ctl := f.ctl.toNat
  let sf := bitsOf ctl 0 4
  let raw := f.raw.toNat
  if sf = 3 then
    let b := (memGet m (raw + n / 5)).toNat
    (ofSigned 8 (digitWeight (ternDigit b (n % 5))), flagIf (b ≥ 243) fTRN)
  else
    let scale := (memGet m (f.scale.toNat + n / 32)).toNat
    let fmt : FFmt := if sf = 0 then .e2m1 else if sf = 1 then .e4m3 else .e5m2
    let x := if sf = 0 then bitsOf (memGet m (raw + n / 2)).toNat (4 * (n % 2)) 4 else (memGet m (raw + n)).toNat
    if bitsOf ctl 4 4 = 0 then fvTo .e4m3 .rn false (fvOf .e2m1 x)
    else
      let v := fvOf fmt x
      if scale = 0xFF then (0x7FC0, fNV ||| sigFlag v)
      else
        match v with
        | .fin d => finalRound .bf16 .rn false (dyMul d { man := 1, exp := (scale : Int) - 127 })
        | w => let o := fvTo .bf16 .rn false w; (o.1, o.2 ||| sigFlag w)

/-- The decoded byte at an alias address and the flags of its decoding (R261, R262). -/
def aliasByte (s : State) (pa : Nat) : Byte × Nat × BitVec 8 :=
  match windowAt s pa with
  | some w =>
    match s.regs.windows[w]? with
    | some f =>
      let o := pa - f.mirror.toNat
      let ed := if bitsOf f.ctl.toNat 4 4 = 1 then 2 else 1
      let r := decodeElem s.mem f (o / ed)
      (BitVec.ofNat 8 (r.1 / 256 ^ (o % ed)), w, r.2)
    | none => (0, 0, 0)
  | none => (0, 0, 0)

/-- The byte a load by a task reads at a physical address: memory, a decoded alias, or the answer of an aperture. -/
def loadByte (s : State) (answers : List (Nat × Nat)) (pa : Nat) : Byte :=
  match regionOf s pa with
  | .decoded => (aliasByte s pa).1
  | .host => BitVec.ofNat 8 ((mapGet (pa / 8 * 8) answers).getD 0 / 256 ^ (pa % 8))
  | .peer => BitVec.ofNat 8 ((mapGet (pa / 8 * 8) answers).getD 0 / 256 ^ (pa % 8))
  | _ => memGet s.mem pa

/-- The little-endian number that a load of `n` bytes reads. -/
def loadNat (s : State) (answers : List (Nat × Nat)) (pa : Nat) : Nat → Nat
  | 0 => 0
  | n + 1 => (loadByte s answers pa).toNat + 256 * loadNat s answers (pa + 1) n

/-- The aligned units of the host and peer apertures that `n` bytes at an address need and no answer has given yet. -/
def unanswered (s : State) (answers : List (Nat × Nat)) (pa n : Nat) : List Nat :=
  match regionOf s pa with
  | .host => needed
  | .peer => needed
  | _ => []
where needed : List Nat :=
  ((List.range ((n + pa % 8 + 7) / 8)).map fun i => pa / 8 * 8 + 8 * i).filter fun u => (mapGet u answers).isNone

/-- The sticky flags of format windows that a load of `n` bytes sets (R261): window and flags. -/
def aliasFlags (s : State) (pa : Nat) : Nat → List (Nat × BitVec 8)
  | 0 => []
  | n + 1 =>
    match regionOf s pa with
    | .decoded =>
      let r := aliasByte s pa
      if r.2.2 = 0 then aliasFlags s (pa + 1) n else (r.2.1, r.2.2) :: aliasFlags s (pa + 1) n
    | _ => []

/-- The raw byte and, where its decoding uses one, the scale byte that an alias byte decodes from (R261, R262). -/
def aliasSources (s : State) (pa : Nat) : List Nat :=
  match (windowAt s pa).bind fun w => s.regs.windows[w]? with
  | some f =>
    let ctl := f.ctl.toNat
    let sf := bitsOf ctl 0 4
    let n := (pa - f.mirror.toNat) / (if bitsOf ctl 4 4 = 1 then 2 else 1)
    let raw := f.raw.toNat + (if sf = 3 then n / 5 else if sf = 0 then n / 2 else n)
    if sf ≠ 3 ∧ bitsOf ctl 4 4 ≠ 0 then [raw, f.scale.toNat + n / 32] else [raw]
  | none => []

/-- The physical ranges that `n` bytes at an address depend on besides the bytes themselves: those an alias decodes from
(R262). -/
def sourceRanges (s : State) (pa n : Nat) : List (Nat × Nat) :=
  match regionOf s pa with
  | .decoded => ((List.range n).flatMap fun i => aliasSources s (pa + i)).eraseDups.map fun a => (a, 1)
  | _ => []

/-- A poisoned 64-byte granule among `n` bytes at an address, or among those that an alias decodes from (R262, R414). -/
def poisonAt (s : State) (pa n : Nat) : Option Nat :=
  if s.chip.poison = [] then none
  else
    let l := (pa, n) :: sourceRanges s pa n
    s.chip.poison.find? fun g => l.any fun r => decide (g < r.1 + r.2) && decide (r.1 < g + 64)

/-- The first of `n` bytes at an address whose read meets poison, with its granule (R414). -/
def firstPoison (s : State) (pa n : Nat) : Option (Nat × Nat) :=
  if s.chip.poison = [] then none
  else (List.range n).findSome? fun i => (poisonAt s (pa + i) 1).map fun g => (i, g)

end Sys2Proof.Machine
end

