-- ==== Sys2Proof/Machine/Operands.lean ====
section
/-! DEFINITION. Operand codes: which codes a field admits, what a source reads, what a destination names (01 R5 to R8,
02 R32 to R36), elements and lanes of vectors (05 R104). -/

namespace Sys2Proof.Machine

-- Which codes a field admits (R32, R33, R35). The second argument of each is the field number of R36. -------------

/-- *physical-only operand*: step 3 of R35. -/
def physical : List EncFail := [{ step := 3 }]
/-- *undefined encoding* with a reason: step 1 of R35. -/
def undef (reason value field : Nat) : List EncFail := [{ step := 1, reason := reason, value := value, field := field }]

/-- A source code of the general file (R32). -/
def srcG (c : Code) (field : Nat) : List EncFail :=
  let n := c.toNat
  if n < 48 ∨ n = 56 ∨ n = 57 then []
  else if n < 56 ∨ n = 62 then physical
  else undef 4 n field

/-- A destination code of the general file (R32). -/
def dstG (c : Code) (field : Nat) : List EncFail :=
  let n := c.toNat
  if n < 48 ∨ n = 56 then []
  else if n < 56 ∨ n = 62 then physical
  else undef 4 n field

/-- A source code of the vector file, for a task with `vcnt` vector registers (R7, R32). -/
def srcV (vcnt : Nat) (c : Code) (field : Nat) : List EncFail :=
  let n := c.toNat
  if n < 48 then (if n < vcnt then [] else undef 0x11 n field)
  else if n = 56 ∨ n = 57 then []
  else if n < 56 ∨ n = 62 then physical
  else undef 4 n field

/-- A destination code of the vector file (R7, R32). -/
def dstV (vcnt : Nat) (c : Code) (field : Nat) : List EncFail :=
  let n := c.toNat
  if n < 48 then (if n < vcnt then [] else undef 0x11 n field)
  else if n = 56 then []
  else if n < 56 ∨ n = 62 then physical
  else undef 4 n field

/-- A code of a file of `count` registers without special codes (R33). -/
def inFile (count : Nat) (c : Code) (field : Nat) : List EncFail :=
  if c.toNat < count then [] else undef 5 c.toNat field

-- What a source reads (R6, R13, R32). ----------------------------------------------------------------------------

/-- Register `gN` of a task. -/
def Task.gReg (t : Task) (n : Nat) : W64 := t.g[n]?.getD 0
/-- Register `vN` of a task. -/
def Task.vReg (t : Task) (n : Nat) : VReg := t.v[n]?.getD 0
/-- Predicate `kN`; `k0` reads as all ones (R6). -/
def Task.kReg (t : Task) (n : Nat) : Pred := if n = 0 then BitVec.allOnes 256 else t.k[n]?.getD 0
/-- Condition `cN`. -/
def Task.cReg (t : Task) (n : Nat) : Bool := t.c.getLsbD n
/-- Target entry `tN`. -/
def Task.tReg (t : Task) (n : Nat) : Target := t.t[n]?.getD {}

/-- What a code above 47 reads in a microcode body; 0 outside one, and for code 56 (R32, R375). -/
def Task.bodyValue (t : Task) (n : Nat) : VReg := (mapGet n t.micro).getD 0

/-- The value of a source field of the general file on core `core` (R32). -/
def rdG (core : Nat) (t : Task) (c : Code) : W64 :=
  if c.toNat < 48 then t.gReg c.toNat else if c.toNat = 57 then BitVec.ofNat 64 core else (t.bodyValue c.toNat).setWidth 64

/-- Element size in bytes (R104). -/
def vtyBytes : VTy → Nat
  | .i8 => 1 | .i16 => 2 | .i32 => 4 | .i64 => 8 | .f16 => 2 | .bf16 => 2 | .f32 => 4 | .f64 => 8

/-- The format of a floating-point element type; none for an integer type. -/
def vtyFmt : VTy → Option FFmt
  | .f16 => some .f16 | .bf16 => some .bf16 | .f32 => some .f32 | .f64 => some .f64
  | _ => none

/-- Element size in bytes of an integer width. -/
def ityBytes : ITy → Nat
  | .i8 => 1 | .i16 => 2 | .i32 => 4 | .i64 => 8

/-- The element type of an integer width. -/
def ityVty : ITy → VTy
  | .i8 => .i8 | .i16 => .i16 | .i32 => .i32 | .i64 => .i64

/-- The format of a floating-point element type. -/
def ftyFmt : FTy → FFmt
  | .f16 => .f16 | .bf16 => .bf16 | .f32 => .f32 | .f64 => .f64

/-- The element type of a floating-point type. -/
def ftyVty : FTy → VTy
  | .f16 => .f16 | .bf16 => .bf16 | .f32 => .f32 | .f64 => .f64

/-- The number whose elements of `e` bytes are `f 0, …, f (n-1)`. -/
def packElems (e : Nat) (f : Nat → Nat) : Nat → Nat
  | 0 => 0
  | n + 1 => packElems e f n + f n % 256 ^ e * 256 ^ (e * n)

/-- Element `i` of `e` bytes of a register. -/
def elem (e : Nat) (v : VReg) (i : Nat) : Nat := v.toNat / 256 ^ (e * i) % 256 ^ e

/-- The lane index of an element type: element i holds i, converted exactly (R32). -/
def laneIndex (t : VTy) : VReg :=
  let e := vtyBytes t
  BitVec.ofNat 2048 (packElems e (fun i =>
    match vtyFmt t with
    | some f => (finalRound f .rn false (dyOfInt i)).1
    | none => i) (256 / e))

/-- The value of a source field of the vector file, read with an element type (R32). -/
def rdV (t : Task) (c : Code) (ty : VTy) : VReg :=
  if c.toNat < 48 then t.vReg c.toNat else if c.toNat = 57 then laneIndex ty else t.bodyValue c.toNat

-- What a destination names (R12, R32). ---------------------------------------------------------------------------

/-- The destination a field of the general file names. -/
def destG (c : Code) : List (RegFile × Nat) := if c.toNat < 48 then [(.g, c.toNat)] else []
/-- The destination a field of the vector file names. -/
def destV (c : Code) : List (RegFile × Nat) := if c.toNat < 48 then [(.v, c.toNat)] else []
/-- The destination a predicate field names: `k0` counts as none (R12). -/
def destK (n : Nat) : List (RegFile × Nat) := if n = 0 then [] else [(.k, n)]

/-- The bypass latch a destination code names (R358), as a microcode body may use it. -/
def latchOf (c : Code) : Option Nat := if 48 ≤ c.toNat ∧ c.toNat < 56 then some (c.toNat - 48) else none

/-- All lanes. -/
def allLanes : Pred := BitVec.allOnes 256

/-- The write of a general register with a contract latency; code 56 writes nothing (R18, R32). -/
def wrG (c : Code) (lat : Nat) (v : W64) : List Effect :=
  if c.toNat < 48 then [.wr .g c.toNat 0xFF (v.setWidth 2048) lat]
  else
    match latchOf c with
    | some n => [.latch n allLanes ((Config.latchUpper n v <<< 64) ||| v.setWidth 2048)]
    | none => []

/-- The write of lanes of a vector register. -/
def wrV (c : Code) (lat : Nat) (mask : Pred) (v : VReg) : List Effect :=
  if c.toNat < 48 then [.wr .v c.toNat mask v lat]
  else
    match latchOf c with
    | some n => [.latch n mask v]
    | none => []

/-- The write of bits of a predicate; a write to `k0` is discarded (R6). -/
def wrK (n lat : Nat) (mask v : Pred) : List Effect :=
  if n = 0 then [] else [.wr .k n mask (v.setWidth 2048) lat]

/-- The write of a condition. -/
def wrC (n lat : Nat) (b : Bool) : List Effect := [.wr .c n 1 (if b then 1 else 0) lat]

/-- The bits of a register that a byte-lane mask covers. -/
def laneBits (mask : Pred) : Nat → Nat
  | 0 => 0
  | n + 1 => laneBits mask n + (if mask.getLsbD n then 255 * 256 ^ n else 0)

/-- A vector register with the lanes of a mask replaced (R8). -/
def mergeLanes (mask : Pred) (old new : VReg) : VReg :=
  if mask = allLanes then new
  else
    let m := BitVec.ofNat 2048 (laneBits mask 256)
    (old &&& ~~~m) ||| (new &&& m)

/-- Whether element `i` of `e` bytes is active under a predicate (R8, R104). -/
def active (p : Pred) (e i : Nat) : Bool := p.getLsbD (i * e)

/-- The elements of an element-wise operation: their values, the lanes written and the flags raised. `f i` is none for
an element that is not written (R104, R105). -/
def lanes (e : Nat) (f : Nat → Option (Nat × BitVec 8)) : Nat → Nat × Nat × BitVec 8
  | 0 => (0, 0, 0)
  | n + 1 =>
    let r := lanes e f n
    match f n with
    | none => r
    | some x => (r.1 + x.1 % 256 ^ e * 256 ^ (e * n), r.2.1 + (2 ^ e - 1) * 2 ^ (e * n), r.2.2 ||| x.2)

/-- Elements of `e` bytes computed where the predicate is set (R104). -/
def onActive (p : Pred) (e : Nat) (f : Nat → Nat × BitVec 8) (i : Nat) : Option (Nat × BitVec 8) :=
  if active p e i then some (f i) else none

-- Registers written (R5, R18). -----------------------------------------------------------------------------------

/-- A register written in full holds no poison any more (R414). -/
def Task.clean (t : Task) (file : RegFile) (n : Nat) : Task :=
  if t.poison = [] then t else { t with poison := t.poison.filter fun p => p != (file, n) }

/-- A task with a register written under a mask: bits of a predicate, lanes of a vector, whole otherwise. -/
def Task.write (t : Task) (file : RegFile) (n : Nat) (mask : Pred) (v : VReg) : Task :=
  match file with
  | .g => { t.clean .g n with g := t.g.setIfInBounds n (v.setWidth 64) }
  | .v => { (if mask = allLanes then t.clean .v n else t) with v := t.v.setIfInBounds n (mergeLanes mask (t.vReg n) v) }
  | .k => { t with k := t.k.setIfInBounds n (((t.k[n]?.getD 0) &&& ~~~mask) ||| (v.setWidth 256 &&& mask)) }
  | .c => { t with c := if v.getLsbD 0 then t.c ||| (1#8 <<< n) else t.c &&& ~~~(1#8 <<< n) }
  | _ => t

/-- A byte with the nibbles or digits replaced that a write holds (R114, R182): `j` is its lane; a packed ternary byte of
243 or above is first read as five zero digits, and sets no flag then (log entry 65). -/
def mergePart (part : Part) (j old new : Nat) : Nat :=
  match part with
  | .bytes => new
  | .nibbles m =>
    (if m.getLsbD (2 * j) then new % 16 else old % 16) + 16 * (if m.getLsbD (2 * j + 1) then new / 16 else old / 16)
  | .digits m =>
    ((List.range 5).map fun i => (if m.getLsbD (5 * j + i) then new / 3 ^ i % 3 else ternDigit old i) * 3 ^ i).foldl (· + ·) 0

/-- The value that a write in flight has when it lands: elements smaller than a byte that are not active are those that the
register holds then (R182). -/
def Pend.value (p : Pend) (t : Task) : VReg :=
  match p.part with
  | .bytes => p.val
  | part =>
    BitVec.ofNat 2048 ((List.range 256).map fun j =>
      mergePart part j (bitsOf (t.vReg p.reg).toNat (8 * j) 8) (bitsOf p.val.toNat (8 * j) 8) * 256 ^ j).sum

/-- Hoisted-load entries of other registers than `n` of a file (R92, item 3). -/
def dropHoisted (vec : Bool) (n : Nat) (l : List ATEntry) : List ATEntry :=
  l.filter fun e => !(e.vec == vec && e.reg == n)

end Sys2Proof.Machine
end

