-- ==== Sys2Proof/Machine/Regs.lean ====
section
/-! DEFINITION. Control registers: which numbers exist, who may name them, what a read returns and which writes are
refused (R9, R252, R259, R260, R282, R294, R316, R337 to R342, R354, R355, R370, R391, R418). -/

namespace Sys2Proof.Machine

/-- The numbers that some rule assigns (R355, R370, R391, R418). -/
def crAssigned (n : Nat) : Bool :=
  n == 0 || (0x10 ≤ n && n ≤ 0x12) || (0x20 ≤ n && n ≤ 0x28) || (0x2C ≤ n && n ≤ 0x35) || n == 0x40 || n == 0x41 ||
  (0x100 ≤ n && n < 0x140 && n % 8 < 5) || (0x200 ≤ n && n < 0x300 && n % 4 < 3) || (0x300 ≤ n && n ≤ 0x308) ||
  (0x320 ≤ n && n < 0x330) || (0x400 ≤ n && n < 0x50B) || (0x510 ≤ n && n < 0x518) || (0x520 ≤ n && n ≤ 0x525) ||
  n == 0x528 || n == 0x529

/-- The numbers open to a task, for a read or a write (R9, R252, R391). -/
def crOpen (n : Nat) (write : Bool) : Bool := n == 0 || (0x10 ≤ n && n ≤ 0x12) || (n == 0x305 && !write)

/-- The registers held by a task or a group (R355). -/
def crOfTask (n : Nat) : Bool :=
  n == 0 || (0x10 ≤ n && n ≤ 0x12) || n == 0x20 || n == 0x21 || (0x24 ≤ n && n ≤ 0x28) || (0x2C ≤ n && n ≤ 0x2F)

/-- The bits of DELEG that can be set (R337): those of every cause of R330 but 0x00, 0x38 and 0x39. -/
def delegMask : W64 := 0x0007071F0F1F037E

/-- LPF bytes pinned on a die, or on all dies (R370, R373). -/
def pinnedBytes (s : State) (die : Option Nat) : Nat :=
  4 * (s.sky.pins.filter fun p => match die with | some d => p.die == d | none => true).length

/-- Whether a task is inside a loop whose run is one atom (R381). -/
def inAtom (t : Task) : Bool := t.tier1 != 0 && decide (t.tier1 ≤ t.loops.length)

/-- Whether the bundle of a task has sent its atomics to an aperture and waits for their values (R279). -/
def waitsAtomic (t : Task) : Bool := match t.stall with | some st => st.waits.contains .atomicBack | none => false

/-- A counter of the nonvolatile store (R416). -/
def lifeGet (s : State) (i : Nat) : Nat := (mapGet i s.chip.life).getD 0

/-- LINKSTAT of a link (R391). -/
def linkWord (l : Link) : W64 :=
  BitVec.ofNat 64 ((if l.up then 1 else 0) + (if l.train then 2 else 0) + l.peer % 256 * 2 ^ 8 +
    min l.retry (2 ^ 32 - 1) * 2 ^ 16 + min l.retrain (2 ^ 16 - 1) * 2 ^ 48)

/-- The value a read of control register `n` returns, on the die of the reader (none through BAR0), with the task
whose registers are meant (R354). -/
def crRead (s : State) (die : Option Nat) (t : Task) (n : Nat) : W64 :=
  let r := s.regs
  let g := s.group t.gid
  if n = 0 then t.asw
  else if n = 0x10 then g.csmode
  else if n = 0x11 then g.evbase
  else if n = 0x12 then g.evcnt
  else if n = 0x20 then t.troot
  else if n = 0x21 then t.tasid
  else if n = 0x22 then r.ctrbase
  else if n = 0x23 then r.ctrthr
  else if n = 0x24 then t.tvec
  else if n = 0x25 then t.saveptr
  else if n = 0x26 then t.epc
  else if n = 0x27 then t.estat
  else if n = 0x28 then t.deleg
  else if n = 0x2C then t.trec.w0
  else if n = 0x2D then t.trec.w1
  else if n = 0x2E then t.trec.w2
  else if n = 0x2F then t.trec.w3
  else if n = 0x31 then r.fqbase
  else if n = 0x32 then r.fqctl
  else if n = 0x33 then BitVec.ofNat 64 r.fqwr
  else if n = 0x34 then BitVec.ofNat 64 r.fqrd
  else if n = 0x40 then r.xltctl
  else if n = 0x41 then BitVec.ofNat 64 (s.sky.uver % 2 ^ 16 * 2 ^ 48 + pinnedBytes s die % 2 ^ 23)
  else if 0x100 ≤ n ∧ n < 0x140 then
    let f := r.windows[(n - 0x100) / 8]?.getD {}
    match n % 8 with
    | 0 => f.raw | 1 => f.len | 2 => f.scale | 3 => f.mirror | _ => f.ctl
  else if 0x200 ≤ n ∧ n < 0x300 then
    let e := r.pubs[(n - 0x200) / 4]?.getD {}
    match n % 4 with
    | 0 => e.front | 1 => e.shad | _ => e.ctl
  else if n = 0x300 then r.devid
  else if n = 0x301 then r.stbase
  else if n = 0x303 then r.ststat
  else if n = 0x304 then r.esccnt
  else if n = 0x305 then BitVec.ofNat 64 r.tsc
  else if n = 0x306 then r.cgctl
  else if n = 0x307 then r.cgstat
  else if n = 0x308 then r.collbase
  else if 0x320 ≤ n ∧ n < 0x330 then linkWord (r.links[n - 0x320]?.getD {})
  else if 0x400 ≤ n ∧ n < 0x500 then (mapGet (n - 0x400) r.route).getD 0
  else if n = 0x500 then r.nqbase
  else if n = 0x501 then r.nqctl
  else if n = 0x502 then BitVec.ofNat 64 r.nqwr
  else if n = 0x503 then BitVec.ofNat 64 r.nqrd
  else if n = 0x504 then r.qtbase
  else if n = 0x505 then r.hinvaddr
  else if n = 0x506 then r.hinvlen
  else if n = 0x507 then r.hinvctl
  else if n = 0x508 then r.herr
  else if n = 0x509 then r.bootstat
  else if n = 0x50A then r.hctxsel
  else if 0x510 ≤ n ∧ n < 0x518 then r.pwr[n - 0x510]?.getD 0
  else if 0x520 ≤ n ∧ n < 0x524 then r.nonce[n - 0x520]?.getD 0
  else if n = 0x524 then r.attctl
  else if n = 0x525 then r.attbuf
  else if n = 0x528 then r.lcidx
  else if n = 0x529 then BitVec.ofNat 64 (lifeGet s r.lcidx.toNat)
  else 0

/-- Bits `lo` to `hi` of a word set. -/
def bitsMask (lo hi : Nat) : W64 := BitVec.ofNat 64 (2 ^ (hi + 1) - 2 ^ lo)

/-- The bits that are not reserved in a register whose write refuses reserved bits (R282, R294, R337, R370, R391,
R418); all ones where a write ignores them (R354). -/
def crNamed (n : Nat) : W64 :=
  if n = 0x20 then bitsMask 12 51
  else if n = 0x21 then bitsMask 0 15
  else if n = 0x22 then bitsMask 26 51 ||| 1
  else if n = 0x23 then bitsMask 0 23
  else if n = 0x24 then bitsMask 2 56
  else if n = 0x25 then bitsMask 12 56
  else if n = 0x26 then bitsMask 2 56
  else if n = 0x40 then bitsMask 8 23 ||| 3
  else if n = 0x41 then bitsMask 48 63 ||| bitsMask 0 22
  else if n = 0x300 then bitsMask 0 7
  else if n = 0x301 then bitsMask 12 51
  else if n = 0x302 then 3
  else if n = 0x303 then bitsMask 8 23 ||| 3
  else if n = 0x306 then bitsMask 0 8
  else if n = 0x307 then bitsMask 8 15 ||| 3
  else if n = 0x308 then bitsMask 6 51
  else if 0x320 ≤ n ∧ n < 0x330 then bitsMask 8 63 ||| 3
  else if 0x400 ≤ n ∧ n < 0x500 then bitsMask 0 15
  else if n = 0x500 then bitsMask 12 51
  else if n = 0x501 then bitsMask 4 7 ||| 1
  else if n = 0x502 ∨ n = 0x503 then bitsMask 0 31
  else if n = 0x504 then bitsMask 23 51
  else if n = 0x505 then bitsMask 0 56
  else if n = 0x507 then bitsMask 62 63 ||| bitsMask 0 17
  else if n = 0x509 then bitsMask 0 7
  else if n = 0x50A then bitsMask 63 63 ||| bitsMask 32 40 ||| 3
  else if 0x510 ≤ n ∧ n < 0x518 then bitsMask 0 34
  else if n = 0x524 then 7
  else if n = 0x525 then bitsMask 12 51
  else if n = 0x528 then bitsMask 0 15
  else BitVec.allOnes 64

/-- The number of banks of a group (R205). -/
def csnOf (g : Group) : Nat := g.banks.length

/-- Whether a value is refused for CSMODE (R252): code 3, or a nonzero code at or above CSN. -/
def csmodeBad (g : Group) (v : W64) : Bool :=
  (List.range 32).any fun i => let c := bitsOf v.toNat (2 * i) 2; c == 3 || (c != 0 && decide (csnOf g ≤ i))

/-- Ranges [a, a+n) and [b, b+m) that meet. -/
def meet (a n b m : Nat) : Bool := decide (a < b + m) && decide (b < a + n)

/-- Elements in a raw byte and bytes of a decoded element of a window control word (R260). -/
def epbOf (ctl : Nat) : Nat := if bitsOf ctl 0 4 = 0 then 2 else if bitsOf ctl 0 4 = 3 then 5 else 1
/-- Bytes of a decoded element (R260). -/
def edOf (ctl : Nat) : Nat := if bitsOf ctl 4 4 = 1 then 2 else 1

/-- Whether setting EN of format window `w` with control word `v` is refused (R260). -/
def windowBad (s : State) (w : Nat) (v : W64) : Bool :=
  let f := s.regs.windows[w]?.getD {}
  let c := v.toNat
  let pair := (bitsOf c 0 4, bitsOf c 4 4)
  let okPair := pair == (0, 0) || pair == (0, 1) || pair == (1, 1) || pair == (2, 1) || pair == (3, 2)
  let len := f.len.toNat
  let span := len * epbOf c * edOf c
  let dev := usableSize s
  !okPair || decide (f.raw.toNat + len > dev) ||
    (bitsOf c 0 4 != 3 && decide (f.scale.toNat + len * epbOf c / 32 > dev)) ||
    !(decide (0x040000000000 ≤ f.mirror.toNat) && decide (f.mirror.toNat + span ≤ 0x080000000000)) ||
    (List.range 8).any fun o =>
      let h := s.regs.windows[o]?.getD {}
      o != w && bitsOf h.ctl.toNat 8 1 == 1 &&
        meet f.mirror.toNat span h.mirror.toNat (h.len.toNat * epbOf h.ctl.toNat * edOf h.ctl.toNat)

/-- Whether setting EN of publish entry `e` with control word `v` is refused (R316). -/
def pubBad (s : State) (e : Nat) (v : W64) : Bool :=
  let p := s.regs.pubs[e]?.getD {}
  let len := bitsOf v.toNat 8 20 * 4096
  let dev := usableSize s
  len == 0 || decide (p.front.toNat + len > dev) || decide (p.shad.toNat + len > dev) ||
    meet p.front.toNat len p.shad.toNat len ||
    (List.range 64).any fun o =>
      let q := s.regs.pubs[o]?.getD {}
      let m := bitsOf q.ctl.toNat 8 20 * 4096
      o != e && bitsOf q.ctl.toNat 0 1 == 1 &&
        (meet p.front.toNat len q.front.toNat m || meet p.front.toNat len q.shad.toNat m ||
         meet p.shad.toNat len q.front.toNat m || meet p.shad.toNat len q.shad.toNat m)

/-- Whether a cadenced launch runs: one that has not ended and of which a group has been admitted (R391, R400). -/
def cadencedRuns (s : State) : Bool :=
  s.launches.any fun e => e.2.pkt.mode == 1 && e.2.phase != .done && decide (0 < e.2.admitted)

/-- Whether the task in a slot is the stopped party of a requester: parked, or with an operand fetch that stopped (R333, R340,
R348). -/
def residentStopped (s : State) (unit slot req : Nat) : Bool :=
  match s.task (taskKey unit slot) with
  | none => false
  | some t =>
    if req = 1 then t.arrayStop.isSome
    else match t.run with | .parked r _ => bitsOf r.w0.toNat 16 3 == req | .saving => req == 0 | .ready => false

/-- The task slot, channel or launch that a REPLAY value names, where a party of that kind is stopped (R340). -/
def stoppedParty (s : State) (unit slot req : Nat) : Bool :=
  if req = 0 ∨ req = 3 then
    residentStopped s unit slot req || (req == 0 && s.gone.any fun g => g.core == unit && g.slot == slot && !g.marked)
  else if req = 1 then residentStopped s unit slot req
  else if req = 2 then
    match (s.core unit).ch[slot]? with
    | some c => c.active.any fun a => a.state == .stopped
    | none => false
  else if req = 4 then s.launches.any fun e => e.2.cluster == unit && e.2.stopped.isSome
  else false

/-- Whether a REPLAY value is refused (R340): reserved bits, ACTION 3, no stopped party, an action not allowed. -/
def replayBad (s : State) (v : W64) : Bool :=
  let x := v.toNat
  let unit := bitsOf x 32 9
  let slot := bitsOf x 20 2
  let req := bitsOf x 16 3
  let act := bitsOf x 0 2
  let named : W64 := bitsMask 32 40 ||| bitsMask 20 21 ||| bitsMask 16 18 ||| 3
  let parked := match s.task (taskKey unit slot) with
    | some t => (match t.run with
        | .parked r _ => t.tvec != 0 && bitsOf r.w0.toNat 15 1 == 0 && !s.cadenced t
        | _ => false)
    | none => false
  v &&& ~~~named != 0 || act == 3 || !stoppedParty s unit slot req || (act == 1 && !((req == 0 || req == 3) && parked))

/-- Whether a write of `v` to control register `n` is refused with *permission* and the register number in the
cause-specific word; `csmode` and schedule checks are those of the group of `t`. -/
def crRefused (s : State) (t : Task) (n : Nat) (v : W64) : Bool :=
  v &&& ~~~(crNamed n) != 0 ||
  (if n = 0x10 then csmodeBad (s.group t.gid) v
   else if n = 0x11 then v &&& ~~~(bitsMask 4 56) != 0
   else if n = 0x12 then v &&& ~~~(bitsMask 0 12) != 0 || decide (v.toNat > 4096)
   else if n = 0x30 then replayBad s v
   else if n = 0x31 then s.regs.fqctl.getLsbD 0
   else if n = 0x32 then
     decide (bitsOf v.toNat 4 4 > 12) || (s.regs.fqctl.getLsbD 0 && bitsOf v.toNat 4 4 != bitsOf s.regs.fqctl.toNat 4 4)
   else if n = 0x34 then decide ((s.regs.fqwr + 2 ^ 32 - v.toNat % 2 ^ 32) % 2 ^ 32 > 2 ^ (bitsOf s.regs.fqctl.toNat 4 4 + 4))
   else if n = 0x35 then v &&& ~~~(bitsMask 32 40 ||| bitsMask 20 22) != 0
   else if n = 0x40 then bitsOf v.toNat 8 16 == 0
   else if 0x100 ≤ n ∧ n < 0x140 then
     let w := (n - 0x100) / 8
     let en := (s.regs.windows[w]?.getD {}).ctl.getLsbD 8
     if n % 8 < 4 then en else v.getLsbD 8 && windowBad s w v
   else if 0x200 ≤ n ∧ n < 0x300 then
     let e := (n - 0x200) / 4
     let c := (s.regs.pubs[e]?.getD {}).ctl
     if n % 4 < 2 then c.getLsbD 0
     else
       (c.getLsbD 0 && (bitsOf v.toNat 8 20 != bitsOf c.toNat 8 20 || bitsOf v.toNat 32 16 != bitsOf c.toNat 32 16)) ||
       (v.getLsbD 0 && !c.getLsbD 0 && pubBad s e v)
   else if n = 0x302 then s.regs.ststat.getLsbD 0
   else if n = 0x306 then cadencedRuns s
   else if n = 0x500 then s.regs.nqctl.getLsbD 0
   else if n = 0x501 then
     decide (bitsOf v.toNat 4 4 > 12) || (s.regs.nqctl.getLsbD 0 && bitsOf v.toNat 4 4 != bitsOf s.regs.nqctl.toNat 4 4)
   else if n = 0x503 then decide ((s.regs.nqwr + 2 ^ 32 - v.toNat % 2 ^ 32) % 2 ^ 32 > 2 ^ (bitsOf s.regs.nqctl.toNat 4 4 + 4))
   else if n = 0x507 then !s.regs.hinvctl.getLsbD 62
   else false)

/-- The word that reports a refused write: the register number. -/
def crWord (n : Nat) : W64 := BitVec.ofNat 64 n

end Sys2Proof.Machine
end

