-- ==== Sys2Proof/Machine/Ops.lean ====
section
/-! DEFINITION. The operations every instruction goes through: stores, flags, barriers, records, taking a trap and
returning from one (12 R225 to R236, 19 R330 to R339, R351). -/

namespace Sys2Proof.Machine

-- Stores. --------------------------------------------------------------------------------------------------------

/-- Whether a hoisted-load entry of a task on core `owner` is removed by a write of core `writer` (R92, items 1 and 2);
engines and the host are no core. -/
def hoistHit (writer : Option Nat) (owner pa n : Nat) (e : ATEntry) : Bool :=
  e.pas.any fun r => meet r.1 r.2.1 pa n && (!r.2.2 || writer == some owner)

/-- The tasks with the hoisted-load entries removed that a write reaches (R92). -/
def unhoist (writer : Option Nat) (pa n : Nat) (l : List (Nat × Task)) : List (Nat × Task) :=
  l.map fun e =>
    if e.2.atab.any (hoistHit writer (e.1 / 4) pa n) then
      (e.1, { e.2 with atab := e.2.atab.filter fun a => !hoistHit writer (e.1 / 4) pa n a })
    else e

/-- A write of the `n` low bytes of a number at a physical address: memory, the hoisted-load entries it removes, and
the poison it clears (R92, R414). -/
def State.store (s : State) (writer : Option Nat) (pa n v : Nat) : State :=
  let s1 := (s.withMem (memPut pa v n s.mem)).withTasks (unhoist writer pa n s.tasks)
  if s.chip.poison = [] then s1
  else s1.withChip { s1.chip with poison := s1.chip.poison.filter fun g => !(decide (pa ≤ g) && decide (g + 64 ≤ pa + n)) }

/-- A write of bytes at a physical address. -/
def State.storeBytes (s : State) (writer : Option Nat) (pa : Nat) (l : List Byte) : State :=
  s.store writer pa l.length (bytesNat l)

/-- A life counter counts one more, saturating (R416). -/
def State.lifeUp (s : State) (i : Nat) : State :=
  s.withChip { s.chip with life := mapSet i (min (lifeGet s i + 1) (2 ^ 64 - 1)) s.chip.life }

-- The stitch table in force (R388 to R390). ----------------------------------------------------------------------

/-- The entry of the send map of endpoint `q` for step `e` and lane `l` (R388). -/
def sendEntry (m : List Host.Cell) (q e l : Nat) : Nat := memNat m (0x400000 + 0x2000 * q + 2 * (16 * e + l)) 2

/-- The destination of a slot of a send map, where it is valid. -/
def sendDst (m : List Host.Cell) (q e l : Nat) : Option Nat :=
  let x := sendEntry m q e l
  if bitsOf x 15 1 = 1 then some (bitsOf x 0 10) else none

/-- A pair of cores that the table in force gives no slot: its posts go on the dynamic network (R389). The default table gives
every pair one (R390). -/
def onDynamic (s : State) (src dst : Nat) : Bool :=
  match s.nets.stitch with
  | none => false
  | some m => !((List.range 4096).any fun i => sendDst m src (i / 16) (i % 16) == some dst)

/-- The source code of lane `l` of output `o` of router `r` in entry `e` (R388). -/
def stitchSrc (m : List Host.Cell) (r e o l : Nat) : Nat := bitsOf (memNat m (0x8000 * r + 128 * e + 8 * o) 8) (4 * l) 4

/-- The router beyond port `p` (0 E, 1 W, 2 N, 3 S, 4 V) of a router (R386). -/
def routerBeyond (r p : Nat) : Nat :=
  let layer := r / 64 * 64
  let x := r % 8
  let y := r % 64 / 8
  match p with
  | 0 => layer + 8 * y + (x + 1) % 8
  | 1 => layer + 8 * y + (x + 7) % 8
  | 2 => layer + 8 * ((y + 1) % 8) + x
  | 3 => layer + 8 * ((y + 7) % 8) + x
  | _ => (r + 64) % 128

/-- The port by which a link that leaves through port `p` enters the router beyond (R386). -/
def portOpposite (p : Nat) : Nat := match p with | 0 => 1 | 1 => 0 | 2 => 3 | 3 => 2 | _ => 4

/-- The routers and ports to which an endpoint is attached: the host-and-link die to four (R385). -/
def attachments (q : Nat) : List (Nat × Nat) :=
  if q < 512 then [(q / 8, 5 + q % 8)]
  else if q < 768 then [(64 + (q - 512) / 4, 5 + (q - 512) % 4)]
  else if q < 776 then [(64 + 8 * (q - 768), 9)]
  else [(68, 9), (84, 9), (100, 9), (116, 9)]

/-- The hops of a stitch from router `r`, which it enters by input `i` at step `e` on lane `l`, to its endpoint (R387). -/
def pathLen (m : List Host.Cell) (l : Nat) : Nat → Nat → Nat → Nat → Nat
  | 0, _, _, _ => 0
  | n + 1, r, e, i =>
    match (List.range 13).find? fun o => stitchSrc m r e o l == i + 1 with
    | some o => if o ≥ 5 then 0 else pathLen m l n (routerBeyond r o) ((e + 1) % 256) (portOpposite o) + 1
    | none => 0

/-- The lane of the first slot of a pair in step `e` of a table beyond `used` others, where there is one (R388, R389). -/
def slotLane (m : List Host.Cell) (src dst e used : Nat) : Option Nat :=
  ((List.range 16).filter fun l => sendDst m src e l == some dst)[used]?

/-- The step at which a stitch of a pair leaves that is ready at step `t`, the first with a slot that no earlier stitch of the
pair takes, and the step at which its endpoint applies it (R387, R389). `taken` holds the steps at which those leave. -/
def stitchSteps (m : List Host.Cell) (src dst t : Nat) (taken : List Nat) : Option (Nat × Nat) :=
  (List.range (256 * (taken.length + 1))).findSome? fun i =>
    let u := t + 1 + i
    (slotLane m src dst (u % 256) (taken.count u)).map fun l =>
      let a := (attachments src).headD (0, 0)
      (u, u + pathLen m l 4096 a.1 (u % 256) a.2 + 1)

/-- A post that is ready at step `t` given its network and, where the table in force says it, its steps; while another table is
about to come into force it is held back (R389, R392). -/
def planPost (s : State) (t : Nat) (p : Post) : Post :=
  if onDynamic s p.src p.dst then { p with net := .dynamic, sent := t }
  else if s.nets.stitchNew.isSome then { p with net := .mesh, sent := t, held := true }
  else
    match s.nets.stitch with
    | none => { p with net := .mesh, sent := t, held := false }
    | some m =>
      let taken := s.nets.posts.filterMap fun q => if q.src = p.src ∧ q.dst = p.dst then q.steps.map (·.1) else none
      { p with net := .mesh, sent := t, held := false, steps := stitchSteps m p.src p.dst t taken }

/-- Whether no core issues: inside a whole-device bubble, and while the part is too hot (R397, R413). -/
def issueStops (s : State) : Bool := s.chip.halted || s.chip.bubble != 0

/-- Whether a post may arrive now: one on the static mesh when its step has come, and never inside a whole-device bubble (R397);
the built-in table's slots are not given, but
none lets a post arrive before the second step after it was ready (R387, R389; log entry 37). -/
def postDue (s : State) (p : Post) : Bool :=
  p.net != .mesh || (s.chip.bubble == 0 && !p.held && (match p.steps with
    | some u => decide (u.2 ≤ s.regs.tsc)
    | none => decide (p.sent + 2 ≤ s.regs.tsc)))

-- Flags and barriers (chapter 12). -------------------------------------------------------------------------------

/-- A post of `n` to a flag (R226). -/
def postFlag (f : CFlag) (n : Nat) : CFlag :=
  { value := min (f.value + n) (2 ^ 32 - 1), ovf := f.ovf || decide (f.value + n > 2 ^ 32 - 1) }

/-- A flag of a core. -/
def Core.flag (c : Core) (f : Nat) : CFlag := c.flags[f]?.getD {}

/-- A core with a flag set. -/
def Core.setFlag (c : Core) (f : Nat) (x : CFlag) : Core := { c with flags := c.flags.setIfInBounds f x }

/-- A post to a flag of a core (R226, R228). -/
def State.post (s : State) (core f n : Nat) : State := s.updCore core fun c => c.setFlag f (postFlag (c.flag f) n)

/-- Step 3 of R233: phases complete while arrivals and bytes allow. -/
def barAdvance (force : Bool) (b : Barrier) : Barrier :=
  let b1 : Barrier :=
    if force then { b with arrived := b.arrived - min b.arrived b.target, phase := (b.phase + 1) % 2 ^ 32 } else b
  if b1.pending = 0 ∧ b1.target ≥ 1 then
    { b1 with arrived := b1.arrived % b1.target, phase := (b1.phase + b1.arrived / b1.target) % 2 ^ 32 }
  else b1

/-- A fault with a cause-specific word. -/
def faultIf (c : Bool) (i : TrapInfo) : Option TrapInfo := if c then some i else none

/-- *count overflow* (R230): the object code, and the offending operand or OVF. -/
def countOverflow (obj operand : Nat) (ovf : Bool) : TrapInfo :=
  { cause := .countOverflow,
    word := BitVec.ofNat 64 (obj + (if ovf then 2 ^ 16 else min operand (2 ^ 40 - 1) * 2 ^ 24)) }

/-- `bar.init` (R234). -/
def barInit (target : Nat) (b : Barrier) : Barrier :=
  barAdvance false { b with target := target, arrived := 0, pending := 0, excess := 0, ovr := false }

/-- Expected bytes at a barrier (R233 step 4, R236). -/
def barExpect (bytes : Nat) (b : Barrier) : Barrier := { b with pending := b.pending + bytes }

/-- Bytes landing at a barrier in step 2 of R233, and whether they force its phase to complete. -/
def barTake (b : Barrier × Bool) (bytes : Nat) : Barrier × Bool :=
  if bytes ≤ b.1.pending then ({ b.1 with pending := b.1.pending - bytes }, b.2)
  else ({ b.1 with excess := min (b.1.excess + (bytes - b.1.pending)) (2 ^ 40 - 1), pending := 0, ovr := true }, true)

/-- The events of one cycle at a barrier in the order of R233: the inits, the arrivals and landings, the completion of phases,
the expectations. -/
def barCycle (inits arrivals lands expects : List Nat) (b : Barrier) : Barrier :=
  let b1 := inits.foldl (fun x n => barInit n x) b
  let b2 := lands.foldl barTake ({ b1 with arrived := b1.arrived + arrivals.sum }, false)
  expects.foldl (fun x n => barExpect n x) (barAdvance b2.2 b2.1)

/-- Whether phase `p` of a barrier has completed (R237). -/
def phaseDone (phase p : Nat) : Bool :=
  let d := (phase + 2 ^ 32 - p % 2 ^ 32) % 2 ^ 32
  decide (1 ≤ d) && decide (d ≤ 2 ^ 31)

/-- The lines that a barrier which completes a phase marks dead, in table order, after those marked before (R255). -/
def markDead (bar phase : Nat) (l : List EvEntry) (dead : List (Nat × Nat)) : List (Nat × Nat) :=
  l.foldl (fun a e =>
    if e.bar = bar ∧ phaseDone phase e.phase then a ++ e.frames.filter (fun r => !a.contains r) else a) dead

/-- What is left of ranges of marked lines when the lines of `n` bytes at an address are accessed (R255). -/
def cutDead (pa n : Nat) (l : List (Nat × Nat)) : List (Nat × Nat) :=
  let lo := pa / 128 * 128
  let hi := (pa + n + 127) / 128 * 128
  let part (a b : Nat) : List (Nat × Nat) := if a < b then [(a, b - a)] else []
  l.flatMap fun r => part r.1 (min (r.1 + r.2) lo) ++ part (max r.1 hi) (r.1 + r.2)

/-- Barrier `b` of a group. -/
def Group.barrier (g : Group) (b : Nat) : Barrier := g.barriers[b]?.getD {}

/-- A group with a barrier changed; where it completes a phase, the lines of its schedule are marked (R233, R255). -/
def Group.updBarrier (g : Group) (b : Nat) (f : Barrier → Barrier) : Group :=
  let x := f (g.barrier b)
  let g1 := { g with barriers := g.barriers.set b x }
  if x.phase = (g.barrier b).phase then g1 else { g1 with dead := markDead b x.phase g.sched g.dead }

/-- The commits of the tasks of a group so far. -/
def groupCommits (s : State) (gid : Nat) : Nat := ((s.tasksOf gid).map fun e => e.2.cycle).sum

/-- The physical cycle that an event at a barrier falls into (R233): that of the event before it, where neither a commit of the
group nor a clock cycle lies between them and a free value says so, else one of its own. An init joins no arrival or landing,
and these join no expectation, whose PHASE they could change (log entry 61). -/
def barOpen (s : State) (gid b : Nat) (inits moves : Bool) : BarCycle :=
  let own : BarCycle := { bar := b, base := (s.group gid).barrier b, cycle := s.chip.cycles, stamp := 0 }
  match (s.group gid).barCycles.find? fun c => c.bar == b with
  | none => own
  | some c =>
    if c.stamp == groupCommits s gid && c.cycle == s.chip.cycles && Config.sharesCycle gid b c.cycle &&
        (!inits || (c.arrivals == [] && c.lands == [])) && (!(inits || moves) || c.expects == []) then c
    else own

/-- A cycle with more events. -/
def BarCycle.joined (c : BarCycle) (inits arrivals lands expects : List Nat) : BarCycle :=
  { c with inits := c.inits ++ inits, arrivals := c.arrivals ++ arrivals, lands := c.lands ++ lands, expects := c.expects ++ expects }

/-- The barrier after the events of a cycle (R233). -/
def BarCycle.outcome (c : BarCycle) : Barrier := barCycle c.inits c.arrivals c.lands c.expects c.base

/-- The cycle that events at a barrier fall into, these among its events. -/
def barJoin (s : State) (gid b : Nat) (inits arrivals lands expects : List Nat) : BarCycle :=
  (barOpen s gid b (inits != []) (arrivals != [] || lands != [])).joined inits arrivals lands expects

/-- Events reach a barrier of a group (R233); `commits` bundles of the group commit with them. -/
def State.barEvents (s : State) (gid b commits : Nat) (inits arrivals lands expects : List Nat) : State :=
  let c := barJoin s gid b inits arrivals lands expects
  let d : BarCycle := { c with stamp := groupCommits s gid + commits }
  s.updGroup gid fun g => ({ g with barCycles := (g.barCycles.filter fun (x : BarCycle) => x.bar != b) ++ [d] }).updBarrier b fun _ => c.outcome

/-- Whether some line is marked dead (R255). -/
def anyDead (s : State) : Bool := s.groups.any fun g => g.2.dead != []

/-- An access to bytes clears the marks of their lines, whichever group's schedule has made them (R255). -/
def State.touchLines (s : State) (pa n : Nat) : State :=
  if !anyDead s then s else s.withGroups (s.groups.map fun g => (g.1, { g.2 with dead := cutDead pa n g.2.dead }))

-- Trap records (R331, R419). -------------------------------------------------------------------------------------

/-- Word 0 of a record. -/
def recordWord0 (asid unit slot req mask : Nat) (i : TrapInfo) (dbl gang post : Bool) : W64 :=
  let bit (b : Bool) (n : Nat) : Nat := if b then 2 ^ n else 0
  BitVec.ofNat 64 (i.cause.code + mask % 16 * 2 ^ 8 + bit i.target.isSome 12 + bit post 13 + bit gang 14 + bit dbl 15 +
    req % 8 * 2 ^ 16 + slot % 4 * 2 ^ 20 + i.subc % 256 * 2 ^ 24 + unit % 512 * 2 ^ 32 +
    (match i.lane with | some l => l % 32 * 2 ^ 42 + 2 ^ 47 | none => 0) + asid % 2 ^ 16 * 2 ^ 48)

/-- A record: `at'` is the bundle, descriptor or packet it names (R331). -/
def recordOf (asid unit slot req mask : Nat) (i : TrapInfo) (dbl gang post : Bool) (addr : W64) : Rec :=
  { w0 := recordWord0 asid unit slot req mask i dbl gang post, w1 := addr, w2 := i.target.getD 0, w3 := i.word }

/-- A record handed to the fault queue: it waits in its party until FAULT_QUEUE_POST writes it (R339). -/
def State.toFaultQueue (s : State) (w : Waiting) : State := s.withNotes { s.notes with fqWait := s.notes.fqWait ++ [w] }

-- Switching (R213, R214). ----------------------------------------------------------------------------------------

/-- The core no longer issues its task: it picks the next ready one at its next turn (R213, R214). -/
def Core.switch (c : Core) : Core :=
  { c with running := none, last := c.running.getD c.last, issued := 0, latches := Vector.replicate 8 0,
           holds := Vector.replicate 16 0 }

/-- A task that is switched out or stopped holds no hoisted-load entry (R92, item 4). -/
def Task.unhoistAll (t : Task) : Task := { t with atab := [] }

/-- The slots of a core in the order in which it would serve them after slot `last` (R214). -/
def slotOrder (last : Nat) : List Nat := [(last + 1) % 4, (last + 2) % 4, (last + 3) % 4, last % 4]

/-- The pre-empted tasks of a core that wait for their reload, in the order of their REPLAY (R344). -/
def reloadsOf (s : State) (core : Nat) : List Gone := s.gone.filter fun g => g.core == core && g.marked

/-- A waiter gives up its place (R227). -/
def Core.dropWaiter (c : Core) (slot : Nat) : Core := { c with waiters := c.waiters.filter fun w => w.2 != slot }

-- Taking a trap and returning (R333 to R336, R351). --------------------------------------------------------------

/-- Trap entry to the handler (R334): `resume` is the resume address, `r` the record. -/
def enterHandler (resume : W64) (r : Rec) (t : Task) : Task :=
  { t with epc := resume, estat := estatOf true t.sup true, trec := r,
           held := some { pending := t.pending, loops := t.loops, cycle := t.cycle }, pending := [], loops := [], tier1 := 0, pc := t.tvec,
           atab := [], stall := none, keepMode := true, answers := [], entry := none }

/-- Return from the handler (R351): privilege restored, the handler's own writes in flight made visible, the held
writes, loops and contract cycle restored. -/
def leaveHandler (t : Task) : Task :=
  let landed := t.pending.foldl (fun u p => u.write p.file p.reg p.mask (p.value u)) t
  let h := t.held.getD { pending := [], loops := [] }
  { landed with estat := estatOf false t.pprv t.pprv, pending := h.pending, loops := h.loops, held := none,
                pc := t.epc, keepMode := true, cycle := h.cycle }

/-- Whether a trap of a task goes to its handler (R333, R335, R336). -/
def toHandler (s : State) (t : Task) (cause : Cause) : Bool :=
  t.tvec != 0 && t.deleg.getLsbD cause.code && !t.inh && !s.cadenced t

/-- The task is parked with a record and its core switches (R333, R336); its gang issues no more (R220). -/
def State.park (s : State) (core slot : Nat) (t : Task) (resume : W64) (r : Rec) (req : Nat) : State :=
  let t1 := { t.unhoistAll with run := .parked r false, pc := resume, stall := none, answers := [], tier1 := 0 }
  let s1 := (s.setTask (taskKey core slot) t1).updCore core fun c =>
    let c1 := c.dropWaiter slot
    if c1.running = some slot then c1.switch else c1
  s1.toFaultQueue { record := r, unit := core, slot := slot, req := req }

/-- TAKING A TRAP of a task's own bundle, for every cause (R24, R331, R333 to R336): the record, then the handler or
parking. `addr` is the bundle the record names, `resume` where the task goes on, `req` 3 for its code fetch. -/
def State.trap (s : State) (core slot : Nat) (t : Task) (i : TrapInfo) (mask req : Nat) (post : Bool)
    (addr resume : W64) : State :=
  let r := recordOf t.tasid.toNat core slot req mask i t.inh (s.cadenced t) post addr
  let s0 := s.withBundle {}
  if toHandler s t i.cause then
    (s0.setTask (taskKey core slot) (enterHandler resume r t)).updCore core fun c =>
      { c.dropWaiter slot with latches := Vector.replicate 8 0, holds := Vector.replicate 16 0 }
  else s0.park core slot t resume r req

-- Pending writes (R18 to R25). -----------------------------------------------------------------------------------

/-- The writes that become visible now, applied in issue order, so that the later-issued one stays (R18, R20). -/
def applyDue (l : List Pend) (t : Task) : Task :=
  l.foldl (fun u p => if p.left = 0 then u.write p.file p.reg p.mask (p.value u) else u) t

/-- One contract cycle passes: due writes become visible, the others come one cycle nearer (R16, R18). -/
def Task.tick (t : Task) : Task :=
  let l := t.pending.map fun p => { p with left := p.left - 1 }
  { applyDue l t with pending := l.filter (fun p => p.left != 0), cycle := t.cycle + 1 }

/-- Every write in flight becomes visible (R22). -/
def Task.landAll (t : Task) : Task :=
  { t.pending.foldl (fun u p => u.write p.file p.reg p.mask (p.value u)) t with pending := [] }

/-- The number of writes in flight after a bundle that adds writes with the given latencies, not counting those
visible at the next bundle (R23). -/
def inFlightAfter (l : List Pend) (lats : List Nat) : Nat :=
  (l.filter fun p => decide (p.left > 1)).length + (lats.filter fun n => decide (n > 1)).length

end Sys2Proof.Machine
end

