-- ==== Sys2Proof/Machine/Access.lean ====
section
/-! DEFINITION. Accesses of several bytes: split where translation or a window may change, checked lowest byte first
(R87, R121 to R123, R145, R396, R414). -/

namespace Sys2Proof.Machine

/-- The range of `n` bytes from an address, cut at multiples of 1 KiB, the finest grain of a page or a reservation. -/
def pieces (va : W64) : Nat → Nat → List (W64 × Nat)
  | 0, _ => []
  | _, 0 => []
  | fuel + 1, n =>
    let k := min n (1024 - va.toNat % 1024)
    (va, k) :: pieces (va + BitVec.ofNat 64 k) fuel (n - k)

/-- The pieces of a range. -/
def piecesOf (va : W64) (n : Nat) : List (W64 × Nat) := pieces va (n / 1024 + 2) n

/-- The places of the pieces of a range: physical address, length, leaf; or the first fault. -/
def placeAll (s : State) (c : Ctx) (acc : Acc) : List (W64 × Nat) → Except TrapInfo (List (Nat × Nat × W64) × List TlbEntry)
  | [] => .ok ([], [])
  | (va, n) :: l =>
    match place s c acc n va with
    | .error e => .error e
    | .ok r =>
      match placeAll s c acc l with
      | .error e => .error { e with fills := r.fills ++ e.fills }
      | .ok q => .ok ((r.pa, n, r.leaf) :: q.1, r.fills ++ q.2)

/-- *uncorrectable error* for a read of poison (R414). -/
def poisonFault (s : State) (va : Option W64) : List (Nat × Nat × W64) → Option TrapInfo
  | [] => none
  | (pa, n, _) :: l =>
    match poisonAt s pa n with
    | some g => some { cause := .uncorrectable, word := BitVec.ofNat 64 g, target := va }
    | none => poisonFault s va l

/-- *uncorrectable error* for an access to a peer that no link reaches (R396). -/
def peerFault (s : State) (va : Option W64) : List (Nat × Nat × W64) → Option TrapInfo
  | [] => none
  | (pa, _, _) :: l =>
    let n := (pa - 0x4000000000000) / 2 ^ 42
    if regionOf s pa == .peer && bitsOf ((mapGet n s.regs.route).getD 0).toNat 0 16 == 0 then
      some { cause := .uncorrectable, word := BitVec.ofNat 64 (n % 256 + 256), target := va }
    else peerFault s va l

/-- The number read from placed pieces, the first lowest. -/
def readPlaced (s : State) (answers : List (Nat × Nat)) : List (Nat × Nat × W64) → Nat
  | [] => 0
  | (pa, n, _) :: l => loadNat s answers pa n + 256 ^ n * readPlaced s answers l

/-- The units of apertures that placed pieces still need (R267, R396). -/
def needPlaced (s : State) (answers : List (Nat × Nat)) (l : List (Nat × Nat × W64)) : List Nat :=
  l.flatMap fun p => unanswered s answers p.1 p.2.1

/-- The sticky bits of format windows that reading placed pieces sets (R261). -/
def flagsPlaced (s : State) (l : List (Nat × Nat × W64)) : List (Nat × BitVec 8) :=
  l.flatMap fun p => aliasFlags s p.1 p.2.1

/-- Entries that walks leave cached (R289). -/
def State.cacheFills (s : State) (l : List TlbEntry) : State :=
  if l = [] then s else s.withTlb (l.foldl (fun a e => if a.contains e then a else a ++ [e]) s.tlb)

/-- The sticky bits of a format window that a decode sets (R261): TRN, NV, OF and NX at bits 16 to 19. -/
def State.windowFlags (s : State) (w : Nat) (f : BitVec 8) : State :=
  let x := s.regs.windows[w]?.getD {}
  let bits : Nat := (if f &&& fTRN != 0 then 2 ^ 16 else 0) + (if f &&& fNV != 0 then 2 ^ 17 else 0) +
    (if f &&& fOF != 0 then 2 ^ 18 else 0) + (if f &&& fNX != 0 then 2 ^ 19 else 0)
  s.withRegs { s.regs with windows := s.regs.windows.setIfInBounds w { x with ctl := x.ctl ||| BitVec.ofNat 64 bits } }

/-- The sticky bits that the decodes of a read set (R261). -/
def State.raiseWindows (s : State) (l : List (Nat × BitVec 8)) : State := l.foldl (fun x f => x.windowFlags f.1 f.2) s

/-- Accesses to placed pieces clear the marks of their lines (R255). -/
def State.touchPlaces (s : State) (l : List (Nat × Nat × W64)) : State :=
  if anyDead s then l.foldl (fun x p => x.touchLines p.1 p.2.1) s else s

/-- A state after reads of placed pieces, `old` the state in which they are read: the walks cached, the sticky bits of the windows
read, the marks of lines cleared (R255, R261, R289). -/
def State.sawPlaces (s old : State) (fills : List TlbEntry) (l : List (Nat × Nat × W64)) : State :=
  ((s.cacheFills fills).raiseWindows (flagsPlaced old l)).touchPlaces l

/-- Whether bytes may lie in lines that some group's schedule has marked (R255). -/
def lineMarked (s : State) (pa n : Nat) : Bool :=
  s.groups.any fun g => g.2.dead.any fun r => meet (r.1 / 128 * 128) (r.2 + 127) pa n

/-- The effects on its bundle of reading the pieces: the sticky bits (R261), and the marks of lines that it clears (R255). -/
def windowEffects (s : State) (l : List (Nat × Nat × W64)) : List Effect :=
  ((flagsPlaced s l).map fun f => .windowFlags f.1 f.2.toNat) ++
    (l.filter fun p => lineMarked s p.1 p.2.1).map fun p => .touch p.1 p.2.1

/-- What a load of placed pieces comes to besides its value: its fault, the answers it waits for, the sticky bits. -/
def loadStaged (s : State) (t : Task) (va : W64) (r : Except TrapInfo (List (Nat × Nat × W64) × List TlbEntry)) :
    Staged :=
  match r with
  | .error e => { fault := some e }
  | .ok q =>
    match peerFault s (some va) q.1 with
    | some e => { fault := some e, fills := q.2 }
    | none =>
      match poisonFault s (some va) q.1 with
      | some e => { fault := some e, fills := q.2 }
      | none =>
        { waits := (needPlaced s t.answers q.1).map .answer, fills := q.2,
          effects := windowEffects s q.1 }

/-- The number a load of placed pieces reads; 0 where it faults. -/
def loadValue (s : State) (t : Task) (r : Except TrapInfo (List (Nat × Nat × W64) × List TlbEntry)) : Nat :=
  match r with
  | .error _ => 0
  | .ok q => readPlaced s t.answers q.1

/-- Two parts of one slot's staging put together; the first fault decides. -/
def Staged.and (a b : Staged) : Staged :=
  { a with encs := a.encs ++ b.encs, fault := a.fault.or b.fault, waits := a.waits ++ b.waits, dests := a.dests ++ b.dests,
           effects := a.effects ++ b.effects, flags := a.flags ||| b.flags, fills := a.fills ++ b.fills,
           fetch := a.fetch.or b.fetch }

/-- The effects of storing placed pieces (R89, R267): `v` holds their bytes, the first lowest. -/
def storePlaced (s : State) : List (Nat × Nat × W64) → Nat → List Effect
  | [], _ => []
  | (pa, n, _) :: l, v =>
    (match regionOf s pa with
      | .host => .outStore pa n (v % 256 ^ n)
      | .peer => .outStore pa n (v % 256 ^ n)
      | .control => .crWrite ((pa - 0x081000000000) / 8) (BitVec.ofNat 64 v)
      | _ => .store pa n (v % 256 ^ n)) :: storePlaced s l (v / 256 ^ n)

/-- Whether an access that has left for an aperture reads what a later write of its task changes: a read of a bundle that has been
given up, whose data no later access may take (R265). -/
def readsStale (w o : Outside) : Bool :=
  (w.store.isSome || w.atomic.isSome) && w.src.chan.isNone && o.src.uid == w.src.uid && o.src.chan.isNone && !o.fetch &&
    o.store.isNone && o.atomic.isNone && meet o.pa o.size w.pa w.size

/-- The core at which an access of a source starts. -/
def sourceCore (s : State) (src : Source) : Option Nat :=
  match src.chan with
  | some c => some c.1
  | none => (s.tasks.find? fun e => e.2.uid == src.uid).map fun e => e.1 / 4

/-- The line requests to the host that an access makes: each line once in a clock cycle for its party (R295; log entry 27). -/
def linesSent (s : State) (o : Outside) : List (Nat × Nat × Nat) :=
  if regionOf s o.pa == .host then
    ((List.range ((o.pa % 128 + max o.size 1 - 1) / 128 + 1)).map fun i =>
      (o.pa / 128 * 128 + 128 * i, dieOf ((sourceCore s o.src).getD 0), o.src.uid)).filter fun r => !s.nets.lines.contains r
  else []

/-- An access leaves for an aperture (R279, R396): it gets a number of its own, and the count it leaves at. -/
def State.sendOutside (s : State) (o : Outside) : State :=
  let r := s.fresh
  r.2.withNets { r.2.nets with
    lines := r.2.nets.lines ++ linesSent s o,
    outside := (r.2.nets.outside.filter fun x => !readsStale o x) ++ [{ o with ident := r.1, since := r.2.chip.cycles }] }

/-- Reads of apertures asked for on behalf of a party, those not yet under way (R279, R396); `fetch` for the operand fetcher
of a task (R146). -/
def State.askOutside (s : State) (src : Source) (fetch : Bool) : List Nat → State
  | [] => s
  | u :: l =>
    if s.nets.outside.any fun o => o.src == src && o.fetch == fetch && o.pa == u && o.store.isNone && o.atomic.isNone then
      s.askOutside src fetch l
    else (s.sendOutside { ident := 0, src := src, pa := u, size := 8, since := 0, fetch := fetch }).askOutside src fetch l

/-- The hoisted loads of a task that its own write of bytes removes (R92, item 1). -/
def State.unhoistOwn (s : State) (uid pa n : Nat) : State :=
  s.withTasks (s.tasks.map fun e =>
    if e.2.uid == uid then
      (e.1, { e.2 with atab := e.2.atab.filter fun a => !(a.pas.any fun r => meet r.1 r.2.1 pa n) })
    else e)

/-- A write of bytes at a physical address: memory, or an access to an aperture, which is performed when it is acknowledged
(R267, R396); a task's own removes its hoisted loads at once (R92). -/
def State.writeOut (s : State) (writer : Option Nat) (src : Source) (pa n v : Nat) : State :=
  match regionOf s pa with
  | .host => outward
  | .peer => outward
  | _ => s.store writer pa n v
where outward : State :=
  let x := s.sendOutside { ident := 0, src := src, pa := pa, size := n, store := some v, since := 0, writer := writer }
  if writer.isSome then x.unhoistOwn src.uid pa n else x

/-- The source of the accesses of a task. -/
def Task.source (t : Task) : Source := { uid := t.uid, launch := t.launch }

end Sys2Proof.Machine
end

