-- ==== Sys2Proof/Machine/Array.lean ====
section
/-! DEFINITION. What one array operation computes: dense, block-scaled, sparse and ternary products into a tile, and
write-back with conversion and pruning (06 R132 to R155, 03 R69 to R72). -/

namespace Sys2Proof.Machine

/-- Elements of `e` bytes put together, with their flags. -/
def packFlags (e : Nat) (f : Nat → Nat × BitVec 8) : Nat → Nat × BitVec 8
  | 0 => (0, 0)
  | n + 1 =>
    let r := packFlags e f n
    let x := f n
    (r.1 + x.1 % 256 ^ e * 256 ^ (e * n), r.2 ||| x.2)

/-- The little-endian elements of `e` bytes of a number, from byte `base` on (R133). -/
def rowElems (e base n x : Nat) : List Nat := (List.range n).map fun k => x / 256 ^ (base + e * k) % 256 ^ e

/-- The E2M1 elements of a row (R133). -/
def rowNibbles (base n x : Nat) : List Nat := (List.range n).map fun k => bitsOf x (8 * base + 4 * k) 4

/-- Bytes of an operand row of a dense operation (R132). -/
def rowLen : Nat := 192

/-- Row `i` of an operand as values of a format. -/
def rowValues (f : FFmt) (e k i x : Nat) : List Fv := (rowElems e (rowLen * i) k x).map (fvOf f)

/-- The flags of a list of values. -/
def orFlags (l : List (Fv × BitVec 8)) : BitVec 8 := l.foldl (fun a p => a ||| p.2) 0

/-- The exact sum of products and an incoming element, rounded once to FP32 (R69, R147, R148). -/
def dotExact (c : Option Nat) (a b : List Fv) : Nat × BitVec 8 :=
  let ps := List.zipWith fvMul a b
  let cv := c.map (fvOf .f32)
  let s := exactSum (cv.toList ++ ps.map (·.1))
  let o := fvTo .f32 .rn false s.1
  (o.1, o.2 ||| s.2 ||| orFlags ps ||| (cv.map sigFlag).getD 0)

/-- The tree sum of products and an incoming element (R71, R147). -/
def dotTree (f : FFmt) (c : Option Nat) (a b : List Fv) : Nat × BitVec 8 :=
  let p := prec f + 8
  let leaves := (List.zipWith fvMul a b).map fun x => some (fvNode p x.1, x.2)
  let root := (treeRoot (sumNode p) 7 leaves).getD (.fin dyZero, 0)
  let s := match c with
    | some x => let v := fvOf f x; exactNode (v, sigFlag v) root
    | none => root
  let o := fvTo f .rn false s.1
  (o.1, o.2 ||| s.2)

/-- The sum of integer products modulo 2^32 (R69, R147). -/
def dotInt (c : Nat) (a b : List Int) : Nat := ofSigned 32 ((List.zipWith (· * ·) a b).foldl (· + ·) (toSigned 32 c))

/-- Element (i, j) of a bank of 4-byte elements (R135). -/
def accElem (b : Bank) (q : Nat) : Nat := b.toNat / 256 ^ (4 * q) % 2 ^ 32

/-- Element (i, j) of a pair of banks of 8-byte elements (R135). -/
def accElem8 (b0 b1 : Bank) (q : Nat) : Nat :=
  if q < 256 then b0.toNat / 256 ^ (8 * q) % 2 ^ 64 else b1.toNat / 256 ^ (8 * (q - 256)) % 2 ^ 64

/-- A tile of 16 × 32 elements of 4 bytes. -/
def tile (f : Nat → Nat → Nat × BitVec 8) : Bank × BitVec 8 :=
  let r := packFlags 4 (fun q => f (q / 32) (q % 32)) 512
  (BitVec.ofNat 16384 r.1, r.2)

/-- The incoming element, absent under `.z` (R147). -/
def incoming (z : Bool) (b : Bank) (i j : Nat) : Option Nat := if z then none else some (accElem b (32 * i + j))

/-- The dense operation on formats with a 4-byte accumulator (R147). -/
def mmaTile (f : MmaFmt) (z : Bool) (a b : Nat) (acc : Bank) : Bank × BitVec 8 :=
  let ints (signed : Bool) (x i : Nat) : List Int :=
    (rowElems 1 (rowLen * i) 192 x).map fun v => if signed then toSigned 8 v else (v : Int)
  let exact (g : FFmt) (e k : Nat) : Bank × BitVec 8 :=
    let ra := (List.range 16).map fun i => rowValues g e k i a
    let rb := (List.range 32).map fun j => rowValues g e k j b
    tile fun i j => dotExact (incoming z acc i j) (ra.getD i []) (rb.getD j [])
  let whole (signed : Bool) : Bank × BitVec 8 :=
    let ra := (List.range 16).map (ints signed a)
    let rb := (List.range 32).map (ints signed b)
    tile fun i j => (dotInt ((incoming z acc i j).getD 0) (ra.getD i []) (rb.getD j []), 0)
  match f with
  | .e4m3 => exact .e4m3 1 192
  | .e5m2 => exact .e5m2 1 192
  | .f16 => exact .f16 2 96
  | .bf16 => exact .bf16 2 96
  | .i8 => whole true
  | .n8 => whole false
  | .f32 =>
    let ra := (List.range 16).map fun i => rowValues .f32 4 48 i a
    let rb := (List.range 32).map fun j => rowValues .f32 4 48 j b
    tile fun i j => dotTree .f32 (incoming z acc i j) (ra.getD i []) (rb.getD j [])
  | .f64 => (acc, 0)

/-- The dense operation on FP64 with a bank pair (R71, R135, R147). -/
def mmaTile64 (z : Bool) (a b : Nat) (b0 b1 : Bank) : Bank × Bank × BitVec 8 :=
  let ra := (List.range 16).map fun i => rowValues .f64 8 24 i a
  let rb := (List.range 32).map fun j => rowValues .f64 8 24 j b
  let cell (q : Nat) : Nat × BitVec 8 :=
    dotTree .f64 (if z then none else some (accElem8 b0 b1 q)) (ra.getD (q / 32) []) (rb.getD (q % 32) [])
  let lo := packFlags 8 cell 256
  let hi := packFlags 8 (fun q => cell (q + 256)) 256
  (BitVec.ofNat 16384 lo.1, BitVec.ofNat 16384 hi.1, lo.2 ||| hi.2)

/-- A scaled value; a scale of 0xFF gives a NaN and NV (R62, R150). -/
def scaled (s : Nat) (v : Fv) : Fv × BitVec 8 :=
  if s = 0xFF then (.nan false, fNV ||| sigFlag v) else fvMul v (e8m0Value s)

/-- The scale byte of row `i`, block `b` of a latch word (R149). -/
def scaleOf (x i b : Nat) : Nat := bitsOf x (8 * (6 * i + b)) 8

/-- The block-scaled operation: `s0` and `s1` are the sets of K-blocks 0 and 1 (R149, R150). DESIGN CHOICE: i8 has no −0, and
the spec does not give the sign of a product of an i8 zero and a negative i8; here that product is −0 (log entry 57). -/
def mmaScaled (f : XFmt) (z : Bool) (s0 s1 : SclSet) (a b : Nat) (acc : Bank) : Bank × BitVec 8 :=
  let vals (x i : Nat) : List Fv :=
    match f with
    | .e4m3 => rowValues .e4m3 1 192 i x
    | .e5m2 => rowValues .e5m2 1 192 i x
    | .e2m1 => (rowNibbles (rowLen * i) 384 x).map (fvOf .e2m1)
    | .i8 => (rowElems 1 (rowLen * i) 192 x).map fun v => .fin (dyOfInt (toSigned 8 v))
  let apply (row : Bool) (i : Nat) (l : List Fv) : List (Fv × BitVec 8) :=
    l.zipIdx.map fun p =>
      let st := if p.2 < 192 then s0 else s1
      scaled (scaleOf (if row then st.rows.toNat else st.cols.toNat) i (p.2 % 192 / 32)) p.1
  let ra := (List.range 16).map fun i => apply true i (vals a i)
  let rb := (List.range 32).map fun j => apply false j (vals b j)
  tile fun i j =>
    let x := ra.getD i []
    let y := rb.getD j []
    let r := dotExact (incoming z acc i j) (x.map (·.1)) (y.map (·.1))
    (r.1, r.2 ||| orFlags x ||| orFlags y)

/-- The elements of a row that the select bytes route to the stored elements of B (R152). -/
def routed {α : Type} (sel : Nat) (row : List α) : List α :=
  (List.range 96).flatMap fun g =>
    let s := bitsOf sel (8 * g) 8
    (row[4 * g + s % 4]?).toList ++ (row[4 * g + s / 16 % 4]?).toList

/-- The structured-sparse operation (R152). -/
def mmaSparse (f : SpFmt) (sel a b : Nat) (acc : Bank) : Bank × BitVec 8 :=
  let rowA (i : Nat) : List Nat := routed sel (rowElems 1 (384 * i) 384 a)
  let rowB (j : Nat) : List Nat := rowElems 1 (rowLen * j) 192 b
  match f with
  | .i8 =>
    let ra := (List.range 16).map fun i => (rowA i).map (toSigned 8)
    let rb := (List.range 32).map fun j => (rowB j).map (toSigned 8)
    tile fun i j => (dotInt (accElem acc (32 * i + j)) (ra.getD i []) (rb.getD j []), 0)
  | g =>
    let fmt : FFmt := if g = .e4m3 then .e4m3 else .e5m2
    let ra := (List.range 16).map fun i => (rowA i).map (fvOf fmt)
    let rb := (List.range 32).map fun j => (rowB j).map (fvOf fmt)
    tile fun i j => dotExact (some (accElem acc (32 * i + j))) (ra.getD i []) (rb.getD j [])

/-- The first group whose select byte is illegal, with the byte (R152). -/
def badSelect (sel : Nat) : Option (Nat × Nat) :=
  (List.range 96).findSome? fun g =>
    let b := bitsOf sel (8 * g) 8
    if b % 8 > 3 ∨ b / 16 % 8 > 3 ∨ b / 8 % 2 = 1 ∨ b / 128 = 1 ∨ b % 8 = b / 16 % 8 then some (g, b) else none

/-- The ternary operation (R153). -/
def mmaTernary (z : Bool) (a b : Nat) (acc : Bank) : Bank × BitVec 8 :=
  let ra := (List.range 16).map fun i => (rowElems 1 (rowLen * i) 192 a).map (toSigned 8)
  let bytes (j : Nat) : List Nat := rowElems 1 (64 * j) 39 b
  let rb := (List.range 32).map fun j =>
    let l := bytes j
    (List.range 192).map fun k => digitWeight (ternDigit (l.getD (k / 5) 0) (k % 5))
  let trn := (List.range 32).any fun j => (bytes j).any fun x => decide (x ≥ 243)
  let r := tile fun i j => (dotInt ((incoming z acc i j).getD 0) (ra.getD i []) (rb.getD j []), 0)
  (r.1, r.2 ||| flagIf trn fTRN)

-- Write-back (R154, R155). ---------------------------------------------------------------------------------------

/-- Bytes of a stored element. -/
def wbBytes : WbFmt → Nat
  | .e4m3 => 1 | .e5m2 => 1 | .i8 => 1 | .i32 => 4 | .f16 => 2 | .bf16 => 2 | .f32 => 4 | .f64 => 8

/-- A stored element from the element of the bank. -/
def wbElem (f : WbFmt) (x : Nat) : Nat × BitVec 8 :=
  let conv (g : FFmt) : Nat × BitVec 8 := let v := fvOf .f32 x; let o := fvTo g .rn false v; (o.1, o.2 ||| sigFlag v)
  match f with
  | .e4m3 => conv .e4m3
  | .e5m2 => conv .e5m2
  | .f16 => conv .f16
  | .bf16 => conv .bf16
  | .i8 => intTo true true 8 (toSigned 32 x)
  | .i32 => (x, 0)
  | .f32 => (x, 0)
  | .f64 => (x, 0)

/-- The magnitude by which pruning compares an element; a NaN is above every number (R155). -/
def pruneKey (f : WbFmt) (x : Nat) : Nat :=
  let fl (g : FFmt) : Nat := match fvOf g x with | .nan _ => 2 ^ 64 | _ => x % 2 ^ signPos g
  match f with
  | .i8 => (toSigned 32 x).natAbs
  | .i32 => (toSigned 32 x).natAbs
  | .f64 => fl .f64
  | _ => fl .f32

/-- N and M of a pruning kind (R155). -/
def pruneNM : PruneKind → Nat × Nat
  | .p2m4 => (2, 4) | .p1m4 => (1, 4) | .p4m8 => (4, 8)

/-- Whether element `j` of a row is kept: fewer than N elements of its group come before it (R155). -/
def keeps (f : WbFmt) (k : PruneKind) (row : Nat → Nat) (j : Nat) : Bool :=
  let nm := pruneNM k
  let base := j / nm.2 * nm.2
  let x := pruneKey f (row j)
  let better := (List.range nm.2).filter fun o =>
    let y := pruneKey f (row (base + o))
    decide (y > x) || (decide (y = x) && decide (base + o < j))
  decide (better.length < nm.1)

/-- The stored bytes of the 16 rows, row after row, and the flags (R154, R155). -/
def wbData (f : WbFmt) (prune : Option PruneKind) (b0 b1 : Bank) : Nat × BitVec 8 :=
  let src (q : Nat) : Nat := if f = .f64 then accElem8 b0 b1 q else accElem b0 q
  packFlags (wbBytes f) (fun q =>
    let keep := match prune with | some k => keeps f k (fun j => src (q / 32 * 32 + j)) (q % 32) | none => true
    if keep then wbElem f (src q) else (0, 0)) 512

end Sys2Proof.Machine
end

