-- ==== Sys2Proof/Machine/Sym.lean ====
section
/-! DEFINITION. Symmetric tensors: descriptors, the storage map and its inverse, orbits, and contraction (chapter 07). -/

namespace Sys2Proof.Machine

/-- Byte `k` of a 64-byte block. -/
def byteOf (d : BitVec 512) (k : Nat) : Nat := bitsOf d.toNat (8 * k) 8

/-- RANK (R160). -/
def symRank (d : BitVec 512) : Nat := byteOf d 0
/-- ETYPE (R160). -/
def symType (d : BitVec 512) : Nat := byteOf d 1
/-- NFAC (R160). -/
def symFacs (d : BitVec 512) : Nat := byteOf d 2
/-- Extent of a slot (R160). -/
def symExt (d : BitVec 512) (k : Nat) : Nat := bitsOf d.toNat (8 * (4 + 2 * k)) 16
/-- Kind of factor `f` (R160). -/
def facKind (d : BitVec 512) (f : Nat) : Nat := byteOf d (0x10 + 4 * f)
/-- Slot mask of factor `f` (R160). -/
def facMask (d : BitVec 512) (f : Nat) : Nat := byteOf d (0x11 + 4 * f) % 64

/-- Whether slot `k` is in a mask. -/
def inMask (m k : Nat) : Bool := m / 2 ^ k % 2 == 1

/-- The slots of a mask in rising order. -/
def maskSlots (m : Nat) : List Nat := (List.range 6).filter (inMask m)

/-- Element size of a descriptor's type (R164). -/
def symBytes (d : BitVec 512) : Nat := match symType d % 8 with
  | 0 => 1 | 1 => 2 | 2 => 4 | 3 => 8 | 4 => 2 | 5 => 2 | 6 => 4 | _ => 8

/-- Binomial coefficients; 0 where `a < b` (R159). -/
def choose : Nat → Nat → Nat
  | _, 0 => 1
  | a, b + 1 => if a < b + 1 then 0 else choose (a - 1) b * a / (b + 1)

/-- A part of a group: kind (0 for a free slot), extent, slots (R159, R164). -/
def symParts (d : BitVec 512) : List (Nat × Nat × List Nat) :=
  (List.range (symRank d)).filterMap fun k =>
    match (List.range (symFacs d)).find? fun f => inMask (facMask d f) k with
    | none => some (0, symExt d k, [k])
    | some f =>
      let sl := maskSlots (facMask d f)
      if sl.head? = some k then some (facKind d f, symExt d k, sl) else none

/-- Part count (R159). -/
def partCount (kind n m : Nat) : Nat :=
  match kind with
  | 1 => choose (n + m - 1) m
  | 2 => choose n m
  | 3 => n ^ (m - 1)
  | 4 => (n + 1) / 2
  | 5 => n / 2
  | _ => n

/-- The representative count (R161). -/
def symCount (d : BitVec 512) : Nat := (symParts d).foldl (fun a p => a * partCount p.1 p.2.1 p.2.2.length) 1

/-- A number inserted into a falling list. -/
def insertDown (x : Nat) : List Nat → List Nat
  | [] => [x]
  | y :: l => if x ≥ y then x :: y :: l else y :: insertDown x l

/-- A list sorted falling. -/
def sortDown : List Nat → List Nat
  | [] => []
  | x :: l => insertDown x (sortDown l)

/-- The number of pairs in rising order: its parity is that of the permutation that sorts the list falling. -/
def risingPairs : List Nat → Nat
  | [] => 0
  | x :: l => (l.filter fun y => decide (x < y)).length + risingPairs l

/-- Whether a list has a repeated member. -/
def hasRepeat : List Nat → Bool
  | [] => false
  | x :: l => l.contains x || hasRepeat l

/-- Σ over k of C(x_k + add − k, m − k) for `sym` (add = m − 1) and C(x_k, m − k) for `asym` (R159). -/
def chooseSum (sym : Bool) : List Nat → Nat
  | [] => 0
  | x :: l => choose (if sym then x + l.length else x) (l.length + 1) + chooseSum sym l

/-- Digits in base `n`, most significant first. -/
def digits (n : Nat) (l : List Nat) : Nat := l.foldl (fun a x => a * n + x) 0

/-- Part offset and sign of a tuple's indices in the slots of a part (R159). -/
def partMap (kind n : Nat) (xs : List Nat) : Nat × Int :=
  match kind with
  | 1 => (chooseSum true (sortDown xs), 1)
  | 2 => if hasRepeat xs then (0, 0) else (chooseSum false (sortDown xs), if risingPairs xs % 2 = 0 then 1 else -1)
  | 3 => let x0 := xs.headD 0; (digits n ((xs.drop 1).map fun x => (x + n - x0) % n), 1)
  | 4 => let x := xs.headD 0; (min x (n - 1 - x), 1)
  | 5 =>
    let x := xs.headD 0
    if x = n - 1 - x then (0, 0) else (min x (n - 1 - x), if x > n - 1 - x then -1 else 1)
  | _ => (xs.headD 0, 1)

/-- What the map makes of a tuple (R164): none out of range, else the offset and the sign, 0 for a forced zero. -/
def symMap (d : BitVec 512) (x : List Nat) : Option (Nat × Int) :=
  if (List.range (symRank d)).any fun k => decide (x.getD k 0 ≥ symExt d k) then none
  else
    let r := (symParts d).foldl (fun (a : Nat × Int) p =>
      let q := partMap p.1 p.2.1 (p.2.2.map fun k => x.getD k 0)
      (a.1 * partCount p.1 p.2.1 p.2.2.length + q.1, a.2 * q.2)) (0, 1)
    some (if r.2 = 0 then (0, 0) else r)

/-- Whether a list never rises, or always falls under `strict`. -/
def falling (strict : Bool) : List Nat → Bool
  | x :: y :: l => (if strict then decide (x > y) else decide (x ≥ y)) && falling strict (y :: l)
  | _ => true

/-- Whether a tuple in range is its own representative with sign +1 (R159, R167). -/
def symCanonical (d : BitVec 512) (x : List Nat) : Bool :=
  (symParts d).all fun p =>
    let xs := p.2.2.map fun k => x.getD k 0
    let x0 := xs.headD 0
    match p.1 with
    | 1 => falling false xs
    | 2 => falling true xs
    | 3 => x0 == 0
    | 4 => decide (x0 ≤ p.2.1 - 1 - x0)
    | 5 => decide (x0 < p.2.1 - 1 - x0)
    | _ => true

/-- The indices of an index tuple (R165). -/
def tupleOf (rank : Nat) (x : Nat) : List Nat := (List.range rank).map fun k => bitsOf x (10 * k) 10

/-- The index tuple of a list of indices (R165). -/
def tupleWord (x : List Nat) : Nat := (x.zipIdx.foldl (fun a p => a + p.1 % 1024 * 2 ^ (10 * p.2)) 0)

/-- The first reason for which a descriptor is not valid, with the byte offset of the offending field (R161, R162).
For reasons 5 and 6 the offending field is the mask byte of the factor, of two that overlap the later one (log entry 64). -/
def symBad (d : BitVec 512) : Option (Nat × Nat) :=
  let r := symRank d
  let nf := symFacs d
  let facs := List.range (min nf 4)
  let need (k m : Nat) : Bool := match k with | 1 => decide (m ≥ 2) | 2 => decide (m ≥ 2) | 3 => decide (m ≥ 1) | _ => m == 1
  if r > 6 then some (1, 0)
  else if symType d > 7 then some (2, 1)
  else if nf > 4 then some (2, 2)
  else
    match (List.range 6).find? fun k =>
        let e := symExt d k
        if k < r then decide (e < 1 ∨ e > 1024) else e != 0 with
    | some k => some (3, 4 + 2 * k)
    | none =>
      match (List.range 4).find? fun f =>
          if f < nf then decide (facKind d f < 1 ∨ facKind d f > 5) else bitsOf d.toNat (8 * (0x10 + 4 * f)) 32 != 0 with
      | some f => some (4, 0x10 + 4 * f)
      | none =>
        match facs.find? fun f =>
            let m := facMask d f
            m == 0 || decide (m ≥ 2 ^ r) || !(need (facKind d f) (maskSlots m).length) ||
              (List.range f).any fun h => (maskSlots m).any (inMask (facMask d h)) with
        | some f => some (5, 0x11 + 4 * f)
        | none =>
          match facs.find? fun f =>
              let sl := maskSlots (facMask d f)
              sl.any fun k => symExt d k != symExt d (sl.headD 0) with
          | some f => some (6, 0x11 + 4 * f)
          | none =>
            if symCount d ≥ 2 ^ 40 then some (7, 4)
            else
              match ([3] ++ (facs.flatMap fun f => [0x11 + 4 * f, 0x12 + 4 * f]) ++ [0x20]).find? fun o =>
                  if o = 3 then byteOf d o != 0
                  else if o = 0x20 then bitsOf d.toNat (8 * 0x20) 256 != 0
                  else if o % 4 = 1 then byteOf d o / 64 != 0
                  else bitsOf d.toNat (8 * o) 16 != 0 with
              | some o => some (8, o)
              | none => none

/-- *invalid descriptor* (R162). -/
def badDesc (reason rest : Nat) (target : Option W64) : TrapInfo :=
  { cause := .invalidDescriptor, word := BitVec.ofNat 64 (reason + rest * 2 ^ 32), target := target }

-- The inverse of the map, and orbits. ----------------------------------------------------------------------------

/-- The greatest x below `n` with `f x ≤ o`. -/
def greatest (f : Nat → Nat) (o : Nat) : Nat → Nat
  | 0 => 0
  | x + 1 => if f x ≤ o then x else greatest f o x

/-- The indices of the representative with a part offset, for the permutation kinds. -/
def unchoose (sym : Bool) (n : Nat) : Nat → Nat → List Nat
  | 0, _ => []
  | m + 1, o =>
    let f (x : Nat) : Nat := choose (if sym then x + m else x) (m + 1)
    let x := greatest f o n
    x :: unchoose sym n m (o - f x)

/-- The `m` digits of a number in base `n`, most significant first. -/
def baseDigits (n : Nat) : Nat → Nat → List Nat
  | 0, _ => []
  | m + 1, o => o / n ^ m % n :: baseDigits n m o

/-- The indices of the representative with a part offset (R159). -/
def partInv (kind n m o : Nat) : List Nat :=
  match kind with
  | 1 => unchoose true n m o
  | 2 => unchoose false n m o
  | 3 => 0 :: baseDigits n (m - 1) o
  | _ => [o]

/-- Indices put at the slots of a tuple. -/
def putSlots : List Nat → List Nat → List Nat → List Nat
  | s :: sl, x :: xs, t => putSlots sl xs (t.set s x)
  | _, _, t => t

/-- The representative with a storage offset: parts are taken last first (R164). -/
def partsInv (rank : Nat) (parts : List (Nat × Nat × List Nat)) (off : Nat) : List Nat :=
  (parts.reverse.foldl (fun (a : List Nat × Nat) p =>
    let c := partCount p.1 p.2.1 p.2.2.length
    (putSlots p.2.2 (partInv p.1 p.2.1 p.2.2.length (a.2 % c)) a.1, a.2 / c)) (List.replicate rank 0, off)).1

/-- A number put at every place of a list. -/
def insertAll (x : Nat) : List Nat → List (List Nat)
  | [] => [[x]]
  | y :: l => (x :: y :: l) :: (insertAll x l).map (y :: ·)

/-- The distinct permutations of a list. -/
def perms : List Nat → List (List Nat)
  | [] => [[]]
  | x :: l => ((perms l).flatMap (insertAll x)).eraseDups

/-- The tuples a part's group reaches from indices of its slots (R158, R159). -/
def partOrbit (kind n : Nat) (xs : List Nat) : List (List Nat) :=
  match kind with
  | 1 => perms xs
  | 2 => perms xs
  | 3 => ((List.range n).map fun t => xs.map fun x => (x + t) % n).eraseDups
  | 4 => [xs, xs.map fun x => n - 1 - x].eraseDups
  | 5 => [xs, xs.map fun x => n - 1 - x].eraseDups
  | _ => [xs]

/-- The orbit of a tuple under a list of parts. -/
def orbit (parts : List (Nat × Nat × List Nat)) (x : List Nat) : List (List Nat) :=
  parts.foldl (fun acc p =>
    (partOrbit p.1 p.2.1 (p.2.2.map fun k => x.getD k 0)).flatMap fun ys => acc.map fun t => putSlots p.2.2 ys t) [x]

-- Contraction (R172 to R177). ------------------------------------------------------------------------------------

/-- Byte `s` of MAPA or MAPB (R172). -/
def mapByte (blk : BitVec 512) (b : Bool) (s : Nat) : Nat := byteOf blk ((if b then 0x0A else 0x04) + s)

/-- Whether slot `s` is contracted (R172). -/
def contracted (blk : BitVec 512) (b : Bool) (s : Nat) : Bool := mapByte blk b s / 128 == 1
/-- Partner of a contracted slot, or slot of C of a free one (R172). -/
def mapSlot (blk : BitVec 512) (b : Bool) (s : Nat) : Nat := mapByte blk b s % 8

/-- A's contracted slots in order: the joint tuple (R174). -/
def jointSlots (ya blk : BitVec 512) : List Nat := (List.range (symRank ya)).filter (contracted blk false)

/-- Whether two kinds act alike (R174). -/
def alike (a b : Nat) : Option Nat :=
  if (a = 1 ∨ a = 2) ∧ (b = 1 ∨ b = 2) then some 1
  else if a = 3 ∧ b = 3 then some 3
  else if (a = 4 ∨ a = 5) ∧ (b = 4 ∨ b = 5) then some 4
  else none

/-- The parts of the joint group, over positions of the joint tuple (R174). -/
def jointParts (ya yb blk : BitVec 512) : List (Nat × Nat × List Nat) :=
  let js := jointSlots ya blk
  (List.range js.length).filterMap fun pos =>
    let s := js.getD pos 0
    let n := symExt ya s
    match (List.range (symFacs ya)).find? fun f => inMask (facMask ya f) s with
    | none => some (0, n, [pos])
    | some f =>
      let sl := maskSlots (facMask ya f)
      let partners := sl.map (mapSlot blk false)
      let joint : Option Nat :=
        if sl.all (contracted blk false) then
          (List.range (symFacs yb)).findSome? fun h =>
            let bl := maskSlots (facMask yb h)
            if bl.length = partners.length ∧ bl.all partners.contains then alike (facKind ya f) (facKind yb h) else none
        else none
      match joint with
      | none => some (0, n, [pos])
      | some k => if sl.head? = some s then some (k, n, sl.map fun x => js.idxOf x) else none

/-- The full tuple of A or B that a tuple of C and a joint tuple make (R175). -/
def fullTuple (ya y blk : BitVec 512) (b : Bool) (t j : List Nat) : List Nat :=
  let js := jointSlots ya blk
  (List.range (symRank y)).map fun s =>
    if contracted blk b s then j.getD (js.idxOf (if b then mapSlot blk true s else s)) 0
    else t.getD (mapSlot blk b s) 0

/-- The joint orbits at a tuple of C: weight, and the representatives of A and B (R175). -/
def jointOrbits (ya yb blk : BitVec 512) (t : List Nat) : List (Int × Nat × Nat) :=
  let js := jointSlots ya blk
  let parts := jointParts ya yb blk
  let count := parts.foldl (fun a p => a * partCount p.1 p.2.1 p.2.2.length) 1
  (List.range count).map fun o =>
    let rep := partsInv js.length parts o
    let all := (orbit parts rep).map fun j =>
      (symMap ya (fullTuple ya ya blk false t j), symMap yb (fullTuple ya yb blk true t j))
    let w := all.foldl (fun (a : Int) p =>
      match p with
      | (some x, some y) => a + x.2 * y.2
      | _ => a) 0
    let offs := (all.findSome? fun p => match p with
      | (some x, some y) => if x.2 * y.2 ≠ 0 then some (x.1, y.1) else none
      | _ => none).getD (0, 0)
    (w, offs.1, offs.2)

/-- The tuples of C whose values an operation needs: each representative, and under `.vs` the others of its orbit, in
row-major order (R175, R177). -/
def resultTuples (yc : BitVec 512) (blk : BitVec 512) (e : Nat) : List Nat :=
  if symRank yc = 0 then [] else partsInv (symRank yc) (symParts yc) (bitsOf blk.toNat (8 * 0x20) 64 + e)

/-- RCNT (R172). -/
def sctrCount (blk : BitVec 512) : Nat := bitsOf blk.toNat (8 * 0x28) 32
/-- Z of FLAGS (R172). -/
def sctrZ (blk : BitVec 512) : Bool := byteOf blk 3 % 2 == 1

/-- Lexicographic order of tuples. -/
def lexLe : List Nat → List Nat → Bool
  | x :: l, y :: m => decide (x < y) || (x == y && lexLe l m)
  | _, _ => true

/-- A tuple put into a list in row-major order. -/
def insertLex (x : List Nat) : List (List Nat) → List (List Nat)
  | [] => [x]
  | y :: l => if lexLe x y then x :: y :: l else y :: insertLex x l

/-- The other tuples of a representative's orbit, in row-major order (R177). -/
def otherTuples (yc : BitVec 512) (r : List Nat) : List (List Nat) :=
  ((orbit (symParts yc) r).filter (· != r)).foldr insertLex []

/-- The stored elements of A and B that an operation reads (R176). -/
def sctrNeeds (ya yb yc blk : BitVec 512) (vs : Bool) : List Nat × List Nat :=
  let ts := (List.range (sctrCount blk)).flatMap fun e =>
    let r := resultTuples yc blk e
    r :: (if vs then otherTuples yc r else [])
  let os := ts.flatMap fun t => (jointOrbits ya yb blk t).filter fun o => o.1 != 0
  ((os.map (·.2.1)).eraseDups, (os.map (·.2.2)).eraseDups)

/-- Whether a type code is an integer type (R40). -/
def intCode (c : Nat) : Bool := decide (c < 4)

/-- The format of a floating-point type code (R40). -/
def fmtOfCode (c : Nat) : FFmt := if c = 4 then .f16 else if c = 5 then .bf16 else if c = 6 then .f32 else .f64

/-- The value of a tuple of C with an incoming element (R175): bits of the bank format, and flags. -/
def sctrValue (job : SctrJob) (t : List Nat) (c : Option Nat) : Nat × BitVec 8 :=
  let ty := symType job.ya
  let e := symBytes job.ya
  let os := jointOrbits job.ya job.yb job.block t
  let rawA (o : Nat) : Nat := (mapGet o job.elemA).getD 0
  let rawB (o : Nat) : Nat := (mapGet o job.elemB).getD 0
  if intCode ty then
    let s := os.foldl (fun (a : Int) o => a + o.1 * toSigned (8 * e) (rawA o.2.1) * toSigned (8 * e) (rawB o.2.2))
      (toSigned 32 (c.getD 0))
    (ofSigned 32 s, 0)
  else
    let f := fmtOfCode ty
    let leaf (o : Int × Nat × Nat) : Option (Fv × BitVec 8) :=
      if o.1 = 0 then none
      else
        let p := fvMul (fvOf f (rawA o.2.1)) (fvOf f (rawB o.2.2))
        let q := fvMul (.fin (dyOfInt o.1)) p.1
        some (q.1, p.2 ||| q.2)
    let leaves := os.map leaf
    if ty < 6 then
      let ps := leaves.filterMap id
      let cv := c.map (fvOf .f32)
      let s := exactSum (cv.toList ++ ps.map (·.1))
      let o := fvTo .f32 .rn false s.1
      (o.1, o.2 ||| s.2 ||| orFlags ps ||| (cv.map sigFlag).getD 0)
    else
      let p := prec f + 8
      let root := treeRoot (sumNode p) (Nat.log2 (leaves.length + 1) + 1)
        (leaves.map fun l => l.map fun x => (fvNode p x.1, x.2))
      let cv := c.map fun x => (fvOf f x, sigFlag (fvOf f x))
      let s := match cv, root with
        | some a, some b => exactNode a b
        | some a, none => a
        | none, some b => b
        | none, none => (.fin dyZero, 0)
      let o := fvTo f .rn false s.1
      (o.1, o.2 ||| s.2)

/-- The banks after `sctr`, with its flags (R175): elements from RCNT on keep their values. -/
def sctrResult (job : SctrJob) (b0 b1 : Bank) : Bank × Bank × BitVec 8 :=
  let n := sctrCount job.block
  let z := sctrZ job.block
  let val (e : Nat) (old : Nat) : Nat × BitVec 8 :=
    if e < n then sctrValue job (resultTuples job.yc job.block e) (if z then none else some old) else (old, 0)
  if symType job.ya = 7 then
    let lo := packFlags 8 (fun q => val q (accElem8 b0 b1 q)) 256
    let hi := packFlags 8 (fun q => val (q + 256) (accElem8 b0 b1 (q + 256))) 256
    (BitVec.ofNat 16384 lo.1, BitVec.ofNat 16384 hi.1, lo.2 ||| hi.2)
  else
    let r := packFlags 4 (fun q => val q (accElem b0 q)) 512
    (BitVec.ofNat 16384 r.1, b1, r.2)

/-- Whether a value equals a sign times another in the bank format: zeros equal, NaNs equal (R177). -/
def sameValue (ty : Nat) (sign : Int) (x y : Nat) : Bool :=
  if intCode ty then ofSigned 32 (sign * toSigned 32 y) == x % 2 ^ 32
  else
    let f : FFmt := if ty = 7 then .f64 else .f32
    let v := fvOf f x
    let w := if sign < 0 then fvNeg (fvOf f y) else fvOf f y
    match v, w with
    | .nan _, .nan _ => true
    | _, _ => fvEq v w

/-- The first tuple at which the symmetry that C declares fails (R177). -/
def symViolation (job : SctrJob) : Option (List Nat) :=
  (List.range (sctrCount job.block)).findSome? fun e =>
    let r := resultTuples job.yc job.block e
    let vr := (sctrValue job r none).1
    (otherTuples job.yc r).find? fun t =>
      let sg := ((symMap job.yc t).getD (0, 0)).2
      !(sameValue (symType job.ya) sg (sctrValue job t none).1 vr)

/-- The reasons of R173 from 0x12 on, with the byte offset of the offending field.
For reason 0x13 the offending field is MAPA, for 0x14 of a result range beyond the count ROFF; nonzero map bytes at or above the
rank are reason 0x12, and A's bytes come before B's (log entry 64). -/
def sctrBad (ya yb yc blk : BitVec 512) : Option (Nat × Nat) :=
  let ra := symRank ya
  let rb := symRank yb
  let rc := symRank yc
  let bad12 : Option Nat :=
    (if byteOf blk 3 ≥ 2 then some 3 else none).or <| ((List.range 6).findSome? fun s =>
      let m := mapByte blk false s
      if s ≥ ra then (if m ≠ 0 then some (4 + s) else none)
      else if m / 8 % 16 ≠ 0 then some (4 + s)
      else if m / 128 = 1 then
        let p := m % 8
        if p < rb ∧ contracted blk true p ∧ mapSlot blk true p = s ∧ symExt ya s = symExt yb p then none else some (4 + s)
      else none).or
    ((List.range 6).findSome? fun s =>
      let m := mapByte blk true s
      if s ≥ rb then (if m ≠ 0 then some (0x0A + s) else none)
      else if m / 8 % 16 ≠ 0 then some (0x0A + s)
      else if m / 128 = 1 then
        let p := m % 8
        if p < ra ∧ contracted blk false p ∧ mapSlot blk false p = s then none else some (0x0A + s)
      else none)
  let freeA := (List.range ra).filter fun s => !contracted blk false s
  let freeB := (List.range rb).filter fun s => !contracted blk true s
  let names := freeA.map (mapSlot blk false) ++ freeB.map (mapSlot blk true)
  let rcnt := sctrCount blk
  let roff := bitsOf blk.toNat (8 * 0x20) 64
  let bad13 : Option Nat :=
    (freeA.findSome? fun s =>
      let c := mapSlot blk false s
      if c < rc ∧ symExt yc c = symExt ya s ∧ names.count c = 1 then none else some (4 + s)).or
    ((freeB.findSome? fun s =>
      let c := mapSlot blk true s
      if c < rc ∧ symExt yc c = symExt yb s ∧ names.count c = 1 then none else some (0x0A + s)).or
    (if names.length ≠ rc then some 4
     else if names = [] ∧ roff ≠ 0 then some 0x20
     else if names = [] ∧ rcnt ≠ 1 then some 0x28
     else none))
  match bad12 with
  | some o => some (0x12, o)
  | none =>
    match bad13 with
    | some o => some (0x13, o)
    | none =>
      if roff + rcnt > symCount yc then some (0x14, 0x20)
      else if rcnt < 1 ∨ rcnt > 512 then some (0x14, 0x28)
      else if bitsOf blk.toNat (8 * 0x2C) 160 ≠ 0 then some (0x14, 0x2C)
      else none

end Sys2Proof.Machine
end

