-- ==== Sys2Proof/Machine/Queue.lean ====
section
/-! DEFINITION. The array queue of a task: operands captured at issue or fetched later, operations finishing in issue
order, faults of the operand fetch (06 R134, R143 to R146, R149, 07 R176, 19 R339). -/

namespace Sys2Proof.Machine

/-- An array operation as its slot issues it (R134): what its operand fetch translates with is that of its bundle (R282). -/
def arrayOp (s : State) (t : Task) (kind : ArrayKind) (bank : Nat) : ArrayOp :=
  { kind := kind, bank := bank, cyc := t.cycle, addr := s.bundle.addr, troot := t.troot, tasid := t.tasid, sup := t.sup }

/-- The context of the operand fetch of an operation (R282, R288): requester 1. -/
def fetchCtx (core : Nat) (t : Task) (op : ArrayOp) : Ctx :=
  { slotCtx core t with troot := op.troot, tasid := op.tasid, sup := op.sup, req := 1, slotL := false }

/-- Memory as the fetch of an operation reads it: the bytes that its own bundle stored are as they were before (R13, R146). -/
def State.asBefore (s : State) (op : ArrayOp) : State :=
  s.withMem (op.before.foldl (fun m p => memPut p.1 p.2.toNat 1 m) s.mem)

/-- The address of a tile handle, canonical by sign extension (R145). -/
def handleAddr (h : W64) : W64 := ((h &&& bitsMask 5 56) <<< 7).sshiftRight 7

/-- The row stride of a tile handle for rows of `len` bytes; none where the code or the stride is refused (R145). -/
def handleStride (h : W64) (len : Nat) : Option Nat :=
  let c := bitsOf h.toNat 0 5
  if c = 0 then some len
  else if 8 ≤ c ∧ c ≤ 27 ∧ 2 ^ c ≥ len then some (2 ^ c)
  else none

/-- The pieces of the rows of an operand. -/
def rowPieces (va : W64) (stride len : Nat) : Nat → Nat → List (W64 × Nat)
  | 0, _ => []
  | n + 1, i => piecesOf (va + BitVec.ofNat 64 (i * stride)) len ++ rowPieces va stride len n (i + 1)

/-- The places of an operand's rows (R145, R146): none for an operand that needs no fetch. -/
def operPlaces (s : State) (c : Ctx) (o : Oper) : Except TrapInfo (List (Nat × Nat × W64) × List TlbEntry) :=
  match o.src with
  | .handle va stride => placeAll s c .read (rowPieces va stride o.len o.rows 0)
  | _ => .ok ([], [])

/-- A fetch of placed pieces for an operand: the fault that an access to poison or to a peer out of reach is (R396, R414). -/
def fetchFault (s : State) (l : List (Nat × Nat × W64)) : Option TrapInfo := (peerFault s none l).or (poisonFault s none l)

/-- An operand with its rows read, where they can be (R146): they are translated in `s`, and `m` holds the bytes read. -/
def operFetch (s m : State) (c : Ctx) (answers : List (Nat × Nat)) (o : Oper) : Except TrapInfo Oper :=
  match o.data with
  | some _ => .ok o
  | none =>
    match o.src with
    | .none => .ok o
    | _ =>
      match operPlaces s c o with
      | .error e => .error e
      | .ok q =>
        match fetchFault s q.1 with
        | some e => .error e
        | none => .ok { o with data := some (readPlaced m answers q.1) }

/-- The places of the elements of a tensor that `sctr` reads. -/
def elemPieces (base : W64) (e : Nat) (l : List Nat) : List (W64 × Nat) := l.map fun o => (base + BitVec.ofNat 64 (o * e), e)

/-- The elements of a tensor that `sctr` reads, where they can be read (R176); `m` as in `operFetch`. -/
def elemFetch (s m : State) (c : Ctx) (answers : List (Nat × Nat)) (base : W64) (e : Nat) :
    List Nat → Except TrapInfo (List (Nat × Nat))
  | [] => .ok []
  | o :: l =>
    match placeAll s c .read (elemPieces base e [o]) with
    | .error x => .error x
    | .ok q =>
      match fetchFault s q.1 with
      | some x => .error x
      | none =>
        match elemFetch s m c answers base e l with
        | .error x => .error x
        | .ok r => .ok ((o, readPlaced m answers q.1) :: r)

/-- A contraction with its operand elements read; `m` as in `operFetch`. DESIGN CHOICE: the spec does not say which of several
faults of one fetch is posted; here A's elements come before B's, in the order in which the sum first uses them (log entry 64). -/
def sctrFetch (s m : State) (c : Ctx) (answers : List (Nat × Nat)) (vs : Bool) (job : SctrJob) : Except TrapInfo SctrJob :=
  if job.ready then .ok job
  else
    let need := sctrNeeds job.ya job.yb job.yc job.block vs
    let e := symBytes job.ya
    match elemFetch s m c answers job.baseA e need.1 with
    | .error x => .error x
    | .ok a =>
      match elemFetch s m c answers job.baseB e need.2 with
      | .error x => .error x
      | .ok b => .ok { job with elemA := a, elemB := b, ready := true }

/-- The pieces of memory that a contraction reads. -/
def sctrPieces (vs : Bool) (job : SctrJob) : List (W64 × Nat) :=
  let need := sctrNeeds job.ya job.yb job.yc job.block vs
  elemPieces job.baseA (symBytes job.ya) need.1 ++ elemPieces job.baseB (symBytes job.ya) need.2

/-- The places of pieces one by one, with the walks they leave cached; a piece that faults has none. -/
def placesOf (s : State) (c : Ctx) (l : List (W64 × Nat)) : List (Nat × Nat × W64) × List TlbEntry :=
  let r := l.filterMap fun p => match placeAll s c .read [p] with | .ok q => some q | .error _ => none
  (r.flatMap (·.1), r.flatMap (·.2))

/-- Where the operands of an operation that have still to be read lie, with the walks that reaching them leaves cached
(R146, R289). -/
def opPlaces (s : State) (c : Ctx) (op : ArrayOp) : List (Nat × Nat × W64) × List TlbEntry :=
  let rows (o : Oper) : List (W64 × Nat) := match o.src, o.data with
    | .handle va stride, none => rowPieces va stride o.len o.rows 0
    | _, _ => []
  placesOf s c (rows op.a ++ rows op.b ++
    (match op.kind with | .sctr job => if job.ready then [] else sctrPieces false job | _ => []))

/-- The units of apertures that the operand fetcher still needs for an operation (R146, R267). -/
def opNeeds (s : State) (core : Nat) (t : Task) (op : ArrayOp) : List Nat :=
  needPlaced s t.fetched (opPlaces s (fetchCtx core t op) op).1

/-- Bank `b` of a task; zero where it is not held. -/
def Task.bank (t : Task) (b : Nat) : Bank := ((t.acc[b]?).join).getD 0

/-- Whether a task holds bank `b` (R138). -/
def Task.holds (t : Task) (b : Nat) : Bool := ((t.acc[b]?).join).isSome

/-- A task with a bank set, where it holds it. -/
def Task.setBank (t : Task) (b : Nat) (v : Bank) : Task :=
  if t.holds b then { t.clean .a b with acc := t.acc.setIfInBounds b (some v) } else t

/-- Flags of an operation that finishes late: they never trap (R75). -/
def Task.lateFlags (t : Task) (f : BitVec 8) : Task := { t with asw := aswOr t.asw f }

/-- The set of edge scale latches before any `scl`: every byte 0x7F (R149). -/
def sclStart : SclSet :=
  { since := 0, rows := BitVec.ofNat 768 (packElems 1 (fun _ => 0x7F) 96), cols := BitVec.ofNat 1536 (packElems 1 (fun _ => 0x7F) 192) }

/-- The last set that a K-block which starts at a contract cycle uses (R149): those written three cycles before it or earlier. -/
def sclAt (t : Task) (limit : Nat) : SclSet :=
  ((t.scl.filter fun x => decide (x.since ≤ limit)).getLast?).getD sclStart

/-- Slice `i` of a bank replaced (R140). -/
def setSlice (b : Bank) (i : Nat) (v : VReg) : Bank :=
  let m : Bank := (BitVec.allOnes 2048).setWidth 16384 <<< (2048 * i)
  (b &&& ~~~m) ||| (v.setWidth 16384 <<< (2048 * i))

/-- Slice `i` of a bank (R140). -/
def slice (b : Bank) (i : Nat) : VReg := b.extractLsb' (2048 * i) 2048

/-- A write of consecutive data at placed pieces, as `wb` and the engines store it. -/
def writePieces (s : State) (writer : Option Nat) (src : Source) : List (Nat × Nat) → Nat → State
  | [], _ => s
  | (pa, n) :: l, v => writePieces (s.writeOut writer src pa n (v % 256 ^ n)) writer src l (v / 256 ^ n)

/-- A write at placed pieces that leaves the bytes of some ranges alone: it goes byte by byte where there are any. -/
def writeAround (kept : List (Nat × Nat)) (s : State) (writer : Option Nat) (src : Source) (l : List (Nat × Nat)) (v : Nat) : State :=
  if !(l.any fun p => kept.any fun k => meet k.1 k.2 p.1 p.2) then writePieces s writer src l v
  else
    let bytes := (l.flatMap fun p => (List.range p.2).map fun i => p.1 + i).zipIdx
    (bytes.filter fun b => !(kept.any fun k => meet k.1 k.2 b.1 1)).foldl
      (fun (x : State) b => x.writeOut writer src b.1 1 (v / 256 ^ b.2 % 256)) s

/-- What an operation with its operands read does to its task: banks and flags. -/
def arrayEffect (op : ArrayOp) (t : Task) : Task :=
  let a := op.a.data.getD 0
  let b := op.b.data.getD 0
  let acc := t.bank op.bank
  let one (r : Bank × BitVec 8) : Task := (t.setBank op.bank r.1).lateFlags r.2
  match op.kind with
  | .zero => t.setBank op.bank 0
  | .write i v => t.setBank op.bank (setSlice acc i v)
  | .mma .f64 =>
    let r := mmaTile64 op.z a b acc (t.bank (op.bank + 1))
    ((t.setBank op.bank r.1).setBank (op.bank + 1) r.2.1).lateFlags r.2.2
  | .mma f => one (mmaTile f op.z a b acc)
  | .sparse f => one (mmaSparse f op.sel a b acc)
  | .ternary => one (mmaTernary op.z a b acc)
  | .scaled f =>
    let q0 := op.set0.getD (sclAt t op.cyc)
    one (mmaScaled f op.z q0 (if op.follow then q0 else sclAt t (op.cyc + 12)) a b acc)
  | .wb f p _ => t.lateFlags (wbData f p acc (t.bank (op.bank + 1))).2
  | .sctr job =>
    let r := sctrResult job acc (t.bank (op.bank + 1))
    let t1 := if symType job.ya = 7 then (t.setBank op.bank r.1).setBank (op.bank + 1) r.2.1 else t.setBank op.bank r.1
    t1.lateFlags r.2.2

/-- The pieces of the 16 rows of a write-back. -/
def wbRows (p st : W64) (len : Nat) : List (W64 × Nat) :=
  (List.range 16).flatMap fun i => piecesOf (p + BitVec.ofNat 64 i * st) len

/-- Whether the page of a leaf is strongly ordered (R269, R285). -/
def leafStrong (leaf : W64) : Bool := bitsOf leaf.toNat 10 2 == 2

/-- An operation of a task's queue with its operands read, or the fault of its fetch. They are translated as memory is now and
hold the bytes from before their bundle (R146, R383); the rows of a `wb` that was held back by a replay or a ring are translated
anew (R289, R292). -/
def opFetch (s : State) (core : Nat) (t : Task) (op : ArrayOp) : Except TrapInfo ArrayOp :=
  let c := fetchCtx core t op
  let m := s.asBefore op
  match operFetch s m c t.fetched op.a with
  | .error e => .error e
  | .ok a =>
    match operFetch s m c t.fetched op.b with
    | .error e => .error e
    | .ok b =>
      match op.kind with
      | .sctr job =>
        match sctrFetch s m c t.fetched false job with
        | .error e => .error e
        | .ok j => .ok { op with a := a, b := b, kind := .sctr j }
      | .wb f p _ =>
        (match op.again, op.a.src with
          | true, .handle va st =>
            (match placeAll s c .write (wbRows va (BitVec.ofNat 64 st) op.a.len) with
              | .error e => .error e
              | .ok q => .ok { op with kind := .wb f p (q.1.map fun x => (x.1, x.2.1)) })
          | _, _ => .ok op)
      | _ => .ok { op with a := a, b := b }

/-- The stores of an operation: `wb` writes its rows (R154). -/
def opStores (s : State) (core : Nat) (t : Task) (op : ArrayOp) : State :=
  match op.kind with
  | .wb f p rows => writeAround op.kept s (some core) t.source rows (wbData f p (t.bank op.bank) (t.bank (op.bank + 1))).1
    |>.touchPlaces (rows.map fun r => (r.1, r.2, 0))
  | _ => s

/-- The record of a failed operand fetch: requester 1, no slot mask (R288, R331, R339). -/
def State.stopFetch (s : State) (core slot : Nat) (addr : W64) (i : TrapInfo) : State :=
  match s.task (taskKey core slot) with
  | some t =>
    let r := recordOf t.tasid.toNat core slot 1 0 i false (s.cadenced t) false addr
    (s.setTask (taskKey core slot) { t with arrayStop := some r }).toFaultQueue
      { record := r, unit := core, slot := slot, req := 1 }
  | none => s

/-- Whether an operand waits for its ring at the array's input (R329). -/
def Oper.stuck (o : Oper) : Bool :=
  match o.src, o.data with
  | .ring _, none => true
  | _, _ => false

/-- Whether every `scl` that an operation may use has been issued (R149): K-block 1 of a scaled E2M1 operation uses sets
written up to nine contract cycles after its own. -/
def scalesKnown (t : Task) (op : ArrayOp) : Bool :=
  match op.kind with
  | .scaled .e2m1 => op.follow || decide (t.cycle ≥ op.cyc + 10)
  | _ => true

/-- The banks of an operation: two for an FP64 tile (R135). -/
def opBanks (op : ArrayOp) : List Nat :=
  match op.kind with
  | .mma .f64 => [op.bank, op.bank + 1]
  | .wb .f64 _ _ => [op.bank, op.bank + 1]
  | .sctr job => if symType job.ya = 7 then [op.bank, op.bank + 1] else [op.bank]
  | _ => [op.bank]

/-- Whether an operation uses one of `n` banks from `b`. -/
def usesBanks (b n : Nat) (op : ArrayOp) : Bool := (opBanks op).any fun x => decide (b ≤ x) && decide (x < b + n)

/-- Whether the operand fetcher has still to read for an operation (R146). -/
def opUnread (op : ArrayOp) : Bool :=
  let unread (o : Oper) : Bool := match o.src, o.data with | .handle _ _, none => true | _, _ => false
  unread op.a || unread op.b || (match op.kind with | .sctr job => !job.ready | _ => false)

/-- Whether an operation issued by a slot has operands in memory still to be read (R146). -/
def ownLoad (op : ArrayOp) : Bool := !op.follow && opUnread op

/-- Whether an operation issued by a slot has still to read or write memory. -/
def ownMem (op : ArrayOp) : Bool := ownLoad op || (match op.kind with | .wb _ _ _ => true | _ => false)

/-- The physical rows that an operation has still to write (R154). -/
def opWrites (op : ArrayOp) : List (Nat × Nat) := match op.kind with | .wb _ _ rows => rows | _ => []

/-- Whether two lists of physical ranges share a byte. -/
def meetAny (l r : List (Nat × Nat)) : Bool := l.any fun p => r.any fun q => meet p.1 p.2 q.1 q.2

/-- Whether an operation of the queue must have read or written memory before an access to physical ranges: rows that it has
still to write, and before a store those that it has still to read, any operand of a slot among them; on strongly ordered
pages both keep their order (R146, R154, R269, R274). -/
def opHolds (s : State) (core : Nat) (t : Task) (store strong : Bool) (l : List (Nat × Nat)) (op : ArrayOp) : Bool :=
  let reads := (opPlaces s (fetchCtx core t op) op).1
  meetAny (opWrites op) l || (store && (ownLoad op || meetAny (reads.map fun p => (p.1, p.2.1)) l)) ||
    (strong && (op.strong || reads.any fun p => leafStrong p.2.2))

/-- Whether an operation reads or writes memory after one that stands before it in the queue (R146, R269, R274). -/
def memAfter (s : State) (core : Nat) (t : Task) (op p : ArrayOp) : Bool :=
  let reads := (opPlaces s (fetchCtx core t op) op).1
  let l := opWrites op ++ reads.map fun x => (x.1, x.2.1)
  ownMem op && opHolds s core t (opWrites op != []) (op.strong || reads.any fun x => leafStrong x.2.2) l p

/-- Whether an operation takes effect after one that stands before it in the queue: they share a bank (R134), or their accesses
to memory are ordered. -/
def runsAfter (s : State) (core : Nat) (t : Task) (op p : ArrayOp) : Bool :=
  (opBanks p).any (opBanks op).contains || memAfter s core t op p

/-- The operations of a queue that must end before those that `want` names can (R134, R149). -/
def neededOps (s : State) (core : Nat) (t : Task) (want : ArrayOp → Bool) : List ArrayOp → List ArrayOp
  | [] => []
  | op :: l =>
    let r := neededOps s core t want l
    if want op || r.any fun x => runsAfter s core t x op then op :: r else r

/-- The operations that a wait names (R134, R146). -/
def wantedBy (s : State) (core : Nat) (t : Task) (w : Wait) (op : ArrayOp) : Bool :=
  match w with
  | .savePoint => true
  | .bankIdle b n => usesBanks b n op
  | .banks b n => usesBanks b n op
  | .carried b n => usesBanks b n op
  | .arrayOwn => ownMem op
  | .rows st sg l => opHolds s core t st sg l op
  | .landed _ w _ => w.contains (t.uid, op.cyc)
  | _ => false

/-- The place of the first operation of a queue that can go on, after those `passed`, and whether it finishes or only reads its
operands. One that waits at the array's input holds the rest (R329). One whose edge scales are not all known yet, unless
it is among those that something waits for (`force`), holds those that take effect after it; no other sees the order in
which they finish (R134). -/
def nextOp (s : State) (core : Nat) (t : Task) (force passed : List ArrayOp) : List ArrayOp → Option (Nat × Bool)
  | [] => none
  | op :: l =>
    if op.a.stuck || op.b.stuck then none
    else if (force.contains op || scalesKnown t op) && !(passed.any fun p => runsAfter s core t op p) then some (passed.length, true)
    else if opUnread op && !(passed.any fun p => memAfter s core t op p) then some (passed.length, false)
    else nextOp s core t force (passed ++ [op]) l

/-- Whether the accesses of a task to an aperture that write are not all performed (R267, R275). -/
def writesOut (s : State) (uid : Nat) : Bool :=
  s.nets.outside.any fun o => o.src.uid == uid && o.src.chan.isNone && (o.store.isSome || o.atomic.isSome)

/-- An operation of a task's queue goes on, or its operand fetch stops (R134, R146). The operations that one of `waits` names
end with the scales given until now (R149; log entry 16). -/
def State.arrayStep (s : State) (waits : List Wait) (core slot : Nat) : State :=
  let k := taskKey core slot
  match s.task k with
  | none => s
  | some t =>
    let force := neededOps s core t (fun op => waits.any fun w => wantedBy s core t w op) t.arrayQ
    match t.arrayStop, (nextOp s core t force [] t.arrayQ).bind fun r => (t.arrayQ[r.1]?).map fun op => (r.1, r.2, op) with
    | none, some (i, ends, op) =>
      (match opFetch s core t op with
      | .error e => (s.cacheFills ((opPlaces s (fetchCtx core t op) op).2 ++ e.fills)).stopFetch core slot op.addr e
      | .ok o =>
        let x := opPlaces s (fetchCtx core t op) op
        let need := needPlaced s t.fetched x.1
        if need ≠ [] then (if x.1.any (fun p => leafStrong p.2.2) && writesOut s t.uid then s else s.askOutside t.source true need)
        else
          let s1 := s.sawPlaces (s.asBefore op) x.2 x.1
          if ends then (opStores s1 core t o).updTask k fun u => arrayEffect o { u with arrayQ := u.arrayQ.eraseIdx i, fetched := [] }
          else s1.updTask k fun u => { u with arrayQ := u.arrayQ.set i o, fetched := [] })
    | _, _ => s

/-- Operations of the queue go on, `n` times. -/
def drainArray (waits : List Wait) (core slot : Nat) : Nat → State → State
  | 0, s => s
  | n + 1, s => drainArray waits core slot n (s.arrayStep waits core slot)

/-- Every operation of the queue of a task finishes, up to one that cannot. -/
def State.settleTask (s : State) (waits : List Wait) (core slot : Nat) : State :=
  match s.task (taskKey core slot) with
  | some t => drainArray waits core slot (2 * t.arrayQ.length) s
  | none => s

/-- The array operations of the tasks of a core brought to their end before the core issues another task, those that a
write-back needs with the scales given until now: its tasks observe each other's accesses in program order (R273; log entry
16). -/
def State.settleCore (s : State) (core : Nat) : State :=
  (List.range 4).foldl (fun (x : State) sl => x.settleTask [.arrayOwn] core sl) s

/-- What a release, a fence or an engine command waits for: the memory accesses of earlier array operations (R272 to
R276). -/
def releaseWaits (t : Task) : List Wait := if t.arrayQ.any ownMem then [.arrayOwn] else []

/-- An operation that a replay or a ring has held back: the rows that it writes are translated again (R289, R292). -/
def ArrayOp.anew (op : ArrayOp) : ArrayOp := { op with again := true }

/-- Whether no operation of a queue waits for a replay or for a ring (R146, R329). -/
def arrayFlows (t : Task) : Bool := t.arrayStop.isNone && !(t.arrayQ.any fun o => o.a.stuck || o.b.stuck)

/-- What a later array operation, and a reader of R134, wait for: a replay, a ring (R146, R329). -/
def flowWaits (t : Task) : List Wait := if arrayFlows t then [] else [.arrayIdle]

/-- What a plain access of the issuing task to placed pieces waits for (R146, R154, R269, R273, R274): the accesses of earlier
array operations that come before it, among them every write-back that a replay or a ring holds back, and on a strongly
ordered page its earlier writes to apertures. -/
def accessWaits (s : State) (t : Task) (store : Bool) (q : List (Nat × Nat × W64)) : List Wait :=
  let strong := q.any fun p => leafStrong p.2.2
  let l := q.map fun p => (p.1, p.2.1)
  (if t.arrayQ.any (opHolds s s.cur t store strong l) then [.rows store strong l] else []) ++
    (if t.arrayQ.any (fun op => opWrites op != []) then flowWaits t else []) ++
    (if strong && writesOut s t.uid then [.outside] else [])

/-- The array operations of the issuing task brought to their end, those that waits name whatever scales they may still be
given. -/
def State.settle (s : State) (waits : List Wait) : State :=
  match s.curTask with
  | some _ => s.settleTask waits s.cur s.bundle.slot
  | none => s

/-- What a reader of `n` banks from `b` waits on (R134, R146). -/
def bankWaits (t : Task) (b n : Nat) : List Wait :=
  (if t.arrayQ.any (usesBanks b n) then [.bankIdle b n] else []) ++ flowWaits t

-- Operand rings and the operands of a matrix slot (R143, R145). ---------------------------------------------------

/-- The address of the entry `i` places behind the head of a ring. -/
def ringEntry (r : Ring) (i : Nat) : W64 := BitVec.ofNat 64 (r.base + (r.head + i) % r.count * r.size)

/-- The bytes of `n` bytes of a ring entry. -/
def ringData (s : State) (core : Nat) (t : Task) (r : Ring) (i n : Nat) : Nat :=
  match placeAll s (slotCtx core t) .read (piecesOf (ringEntry r i) n) with
  | .ok q => readPlaced s [] q.1
  | .error _ => 0

/-- *uncorrectable error* for an entry of a ring that holds poison (R414). -/
def entryPoison (s : State) (core : Nat) (t : Task) (r : Ring) (i n : Nat) : Option TrapInfo :=
  match placeAll s (slotCtx core t) .read (piecesOf (ringEntry r i) n) with
  | .ok q => poisonFault s (some (ringEntry r i)) q.1
  | .error _ => none

/-- Full entries taken from the front of the reservations of a ring, as far as entries are free (R308). -/
def ringAdvance : List Bool → Ring → Ring
  | true :: l, r =>
    if r.full < r.count then
      ringAdvance l { r with full := r.full + 1, tail := if r.count = 0 then 0 else (r.tail + 1) % r.count, done := r.done + 1 }
    else { r with resv := true :: l }
  | l, r => { r with resv := l }

/-- A ring whose head entry has been taken (R143, R308). -/
def ringPop (r : Ring) : Ring := ringAdvance r.resv { r with head := (r.head + 1) % r.count, full := r.full - 1 }

/-- Ring `n` of a task. -/
def Task.ring (t : Task) (n : Nat) : Ring := t.n[n]?.getD {}

/-- The kind of a matrix slot word (R45): operation, rows and row length of A, whether A and B are handles, `.z`. -/
def matrixKind (w : Nat) : Option (ArrayKind × Nat × Bool × Bool × Bool × Nat) :=
  let f := w % 64
  let op := w / 2 ^ 24 % 128
  if op = 0x41 then some (.mma (.ofCode (f / 8)), 192, f / 4 % 2 == 1, f / 2 % 2 == 1, f % 2 == 1, 192)
  else if op = 0x42 then
    if f / 16 = 3 ∨ f / 2 % 8 ≥ 6 then none
    else some (.sparse (.ofCode (f / 16)), 384, false, f % 2 == 1, false, 192)
  else if op = 0x43 then
    if f / 4 ≠ 0 then none else some (.ternary, 192, false, f % 2 == 1, f / 2 % 2 == 1, 64)
  else if op = 0x44 then
    if f / 8 ≥ 4 then none else some (.scaled (.ofCode (f / 8)), 192, f / 4 % 2 == 1, f / 2 % 2 == 1, f % 2 == 1, 192)
  else none

/-- The 96 select bytes of `mma.sp` from register `q` on (R152). -/
def selectBytes (t : Task) (q : Nat) : Nat :=
  (t.q[q]?.getD 0).toNat + (t.q[q + 1]?.getD 0).toNat * 2 ^ 256 + (t.q[q + 2]?.getD 0).toNat * 2 ^ 512

end Sys2Proof.Machine
end

