-- ==== Sys2Proof/Machine/Engine.lean ====
section
/-! DEFINITION. Engine commands: their descriptors and issue checks, bodies, landing and posts, rings and streams,
collectives (chapter 17, 23 R401). -/

namespace Sys2Proof.Machine

-- Fields of a descriptor (R299 to R301). -------------------------------------------------------------------------

/-- `n` bits of a descriptor from byte `o`, bit `b`. -/
def dsc (d : BitVec 512) (o b n : Nat) : Nat := bitsOf d.toNat (8 * o + b) n

/-- TBASE. -/
def tBase (d : BitVec 512) : Nat := dsc d 0 0 64
/-- LBASE. -/
def lBase (d : BitVec 512) : Nat := dsc d 8 0 64
/-- Space code of a base (R300). -/
def spaceOf (b : Nat) : Nat := bitsOf b 60 4
/-- Extent of dimension `k`. -/
def extOf (d : BitVec 512) (k : Nat) : Nat :=
  if k = 0 then dsc d 0x10 0 16 else if k = 1 then dsc d 0x12 0 16 else dsc d (0x14 + (k - 2)) 0 8
/-- Stride of dimension `k`, signed. -/
def strOf (d : BitVec 512) (k : Nat) : Int := toSigned 32 (dsc d (0x18 + 4 * k) 0 32)
/-- CTL. -/
def ctlOf (d : BitVec 512) : Nat := dsc d 0x38 0 64
/-- Destination to linear when false (R301). -/
def dirOf (d : BitVec 512) : Bool := bitsOf (ctlOf d) 2 1 == 1
/-- Source element size. -/
def srcSize (d : BitVec 512) : Nat := 2 ^ bitsOf (ctlOf d) 0 2
/-- CVT. -/
def cvtOf (d : BitVec 512) : Nat := bitsOf (ctlOf d) 4 4
/-- Destination element size (R301). -/
def dstSize (d : BitVec 512) : Nat :=
  match cvtOf d with
  | 1 => 2 | 2 => 2 | 3 => 1 | 4 => 1 | 5 => 4 | 6 => 4 | 7 => 2 | _ => srcSize d
/-- The source size a conversion needs (R301). -/
def cvtSource (c : Nat) : Option Nat :=
  if c = 0 then none else if c ≤ 4 then some 4 else if c ≤ 6 then some 2 else some 1
/-- Linear element size (R302). -/
def linSize (d : BitVec 512) : Nat := if dirOf d then srcSize d else dstSize d
/-- Tensor element size (R303). -/
def tenSize (d : BitVec 512) : Nat := if dirOf d then dstSize d else srcSize d
/-- Elements of a body (R302). -/
def bodyElems (d : BitVec 512) : Nat := (List.range 6).foldl (fun a k => a * extOf d k) 1
/-- Bodies of a command. -/
def bodies (d : BitVec 512) : Nat := bitsOf (ctlOf d) 51 8 + 1
/-- BD. -/
def bdOf (d : BitVec 512) : Nat := bitsOf (ctlOf d) 59 3
/-- CLOSE. -/
def closeOf (d : BitVec 512) : Bool := bitsOf (ctlOf d) 50 1 == 1
/-- ARG. -/
def argOf (d : BitVec 512) : Nat := bitsOf (ctlOf d) 48 2
/-- TAG. -/
def tagOf (d : BitVec 512) : Nat := bitsOf (ctlOf d) 32 16
/-- PFLAG. -/
def pflagOf (d : BitVec 512) : Nat := bitsOf (ctlOf d) 27 5
/-- PTGT. -/
def ptgtOf (d : BitVec 512) : Nat := bitsOf (ctlOf d) 18 9
/-- POST. -/
def postOf (d : BitVec 512) : Nat := bitsOf (ctlOf d) 16 2
/-- PADB. -/
def padOf (d : BitVec 512) : Nat := bitsOf (ctlOf d) 8 8

/-- A base with the argument added (R312). -/
def addArg (b : Nat) (a : W64) : Nat :=
  if spaceOf b = 0 then b / 2 ^ 57 * 2 ^ 57 + (b + a.toNat) % 2 ^ 57
  else spaceOf b * 2 ^ 60 + (b + a.toNat) % 2 ^ 60

/-- A descriptor with the argument added to the bases ARG names (R301, R312). -/
def withArg (d : BitVec 512) (a : W64) : BitVec 512 :=
  let tb := if argOf d % 2 = 1 then addArg (tBase d) a else tBase d
  let lb := if argOf d / 2 = 1 then addArg (lBase d) a else lBase d
  BitVec.ofNat 512 (tb + lb * 2 ^ 64 + d.toNat / 2 ^ 128 * 2 ^ 128)

-- Issue checks (R303 to R306). -----------------------------------------------------------------------------------

/-- The offset or address a base holds, without its space code and target (R300). -/
def baseOffset (b : Nat) : Nat :=
  match spaceOf b with
  | 0 => b % 2 ^ 57
  | 1 => b % 2 ^ 18
  | 2 => b % 2 ^ 22
  | _ => b % 16
/-- The target task of a base (R300). -/
def baseTask (b : Nat) : Nat := bitsOf b 48 5

/-- Whether dimension 0 is a run (R303). -/
def isRun (d : BitVec 512) : Bool := strOf d 0 == (tenSize d : Int)

/-- The first misaligned field: its byte offset and the alignment it needs (R303, R304, R314). -/
def cmdMisaligned (d : BitVec 512) (op : Nat) : Option (Nat × Nat) :=
  let run := isRun d
  let e := tenSize d
  let al := if run then 32 else e
  if baseOffset (tBase d) % al ≠ 0 then some (0, al)
  else
    match (List.range 6).find? fun k =>
        if run then (decide (k ≥ 1) && decide (extOf d k > 1) || op == 0x4B && k == bdOf d) && strOf d k % 32 != 0
        else strOf d k % (e : Int) != 0 with
    | some k => some (0x18 + 4 * k, al)
    | none => if spaceOf (lBase d) ≤ 2 ∧ baseOffset (lBase d) % 32 ≠ 0 then some (8, 32) else none

/-- Lowest and one above the highest byte offset, from its base, that the tensor side of a body reaches, bounds ignored
(R306); `skip` is a dimension left out. -/
def tensorSpan (d : BitVec 512) (skip : Option Nat) : Int × Int :=
  let r := (List.range 6).foldl (fun (a : Int × Int) k =>
    if skip = some k then a
    else
      let x := strOf d k * ((extOf d k : Int) - 1)
      (a.1 + min x 0, a.2 + max x 0)) (0, 0)
  (r.1, r.2 + tenSize d)

/-- Reserved bits of a base (R300). -/
def baseReserved (b : Nat) : Bool :=
  match spaceOf b with
  | 0 => bitsOf b 57 3 != 0
  | 1 => bitsOf b 53 7 != 0 || bitsOf b 18 30 != 0
  | 2 => bitsOf b 22 38 != 0
  | _ => bitsOf b 53 7 != 0 || bitsOf b 4 44 != 0

/-- The key of the task of a group with index `i`, while it is resident (R201). -/
def memberKey (s : State) (gid i : Nat) : Option Nat :=
  (s.tasks.find? fun e => e.2.gid == gid && e.2.i0 == i).map (·.1)

/-- Whether the part of a side in spaces 1 and 2 lies within its reservation or window, in usable banks (R304). -/
def sideInside (s : State) (gid b : Nat) (lo hi : Int) (linear : Bool) (body : Nat) : Bool :=
  let g := s.group gid
  let o : Int := baseOffset b
  match spaceOf b with
  | 1 =>
    let core := g.cores.getD (baseTask b) 0
    decide (o + lo ≥ 0) && decide (o + hi ≤ nearSize s gid core)
  | 2 =>
    let first := ((o + lo) / 0x20000).toNat
    let last := ((o + hi - 1) / 0x20000).toNat
    decide (o + lo ≥ 0) && decide (o + hi ≤ (csnOf g : Int) * 0x20000) &&
      (List.range (last + 1 - first)).all fun k =>
        let m := bankMode g (first + k)
        m == 1 || (m == 2 && linear && body % 256 == 0)
  | _ => true

/-- EXT0 of the launch of a group (R200): the tasks of a group. -/
def groupSize (g : Group) : Nat := g.cores.length

/-- The rings and streams of the task of a group with index `i`: a pre-empted one keeps its descriptors (R141, R327). -/
def memberQueues (s : State) (gid i : Nat) : Option (Vector Ring 16 × Vector Stream 16) :=
  match (memberKey s gid i).bind s.task with
  | some u => some (u.n, u.z)
  | none => (s.gone.find? fun g => g.gid == gid && g.i0 == i).map fun g => (g.n, g.z)

/-- Whether a ring destination has no descriptor or does not take whole entries (R304). -/
def ringMisfit (s : State) (gid b body : Nat) : Bool :=
  match memberQueues s gid (baseTask b) with
  | some u => let r := u.1[baseOffset b]?.getD {}; r.size == 0 || body % r.size != 0
  | none => true

/-- Whether a stream destination has no descriptor (R304). -/
def streamMissing (s : State) (gid b : Nat) : Bool :=
  match memberQueues s gid (baseTask b) with
  | some u => (u.2[baseOffset b]?.getD {}).size == 0
  | none => true

/-- Whether CVT is reserved or does not fit ESZ (R301, R304). -/
def cvtBad (d : BitVec 512) : Bool :=
  decide (cvtOf d > 7) || (match cvtSource (cvtOf d) with | some e => e != srcSize d | none => false)

/-- The first broken condition of the table of R304: reason and byte offset, for a linear span of `lin` bytes of which a
body is `body`. -/
def cmdBounds (s : State) (t : Task) (d : BitVec 512) (op lin body : Nat) : Option (Nat × Nat) :=
  let g := s.group t.gid
  let c := ctlOf d
  let lsp := spaceOf (lBase d)
  let span := tensorSpan d (if op = 0x4B then some (bdOf d) else none)
  let tgt (b : Nat) : Bool := (spaceOf b == 1 || spaceOf b ≥ 3) && decide (baseTask b ≥ groupSize g)
  let bound (lo hi ext : Nat) : Bool := (lo != 0 || hi != 0) && !(decide (lo < hi) && decide (hi ≤ ext))
  if spaceOf (tBase d) > 2 ∨ baseReserved (tBase d) then some (1, 0)
  else if lsp > 4 ∨ (lsp ≥ 3 ∧ dirOf d) ∨ baseReserved (lBase d) then some (1, 8)
  else if bitsOf c 62 2 ≠ 0 ∨ bitsOf c 3 1 ≠ 0 ∨ postOf d = 3 then some (1, 0x38)
  else
    match (List.range 6).find? fun k => extOf d k == 0 with
    | some k => some (2, if k = 0 then 0x10 else if k = 1 then 0x12 else 0x14 + (k - 2))
    | none =>
      if bodyElems d * linSize d ≥ 2 ^ 40 then some (2, 0x10)
      else if cvtBad d then some (3, 0x38)
      else if bound (dsc d 0x30 0 16) (dsc d 0x32 0 16) (extOf d 0) then some (4, 0x30)
      else if bound (dsc d 0x34 0 16) (dsc d 0x36 0 16) (extOf d 1) then some (4, 0x34)
      else if tgt (tBase d) ∨ ¬ sideInside s t.gid (tBase d) span.1 span.2 false body then some (5, 0)
      else if tgt (lBase d) ∨ ¬ sideInside s t.gid (lBase d) 0 lin true body then some (5, 8)
      else if lsp = 3 ∧ ringMisfit s t.gid (lBase d) body then some (5, 8)
      else if lsp = 4 ∧ streamMissing s t.gid (lBase d) then some (5, 8)
      else if postOf d = 1 ∧ (s.core (ptgtOf d)).serves ≠ some t.launch then some (6, 0x38)
      else if postOf d = 2 ∧ ptgtOf d ≥ g.barriers.length then some (6, 0x38)
      else if (op ≠ 0x4B ∧ bdOf d ≠ 0) ∨ bdOf d > 5 ∨ (op ≠ 0x49 ∧ argOf d ≠ 0) ∨ (closeOf d ∧ lsp ≠ 4) ∨
          (op = 0x4C ∧ (dirOf d ∨ bodies d ≠ 1)) then some (7, 0x38)
      else none

/-- Source and destination spans of a body: space, target, lowest byte, one above the highest (R306); `out` bytes land on the
linear side. -/
def bodySpans (d : BitVec 512) (r out : Nat) : (Nat × Nat × Int × Int) × (Nat × Nat × Int × Int) :=
  let ts := tensorSpan d none
  let tb : Int := baseOffset (tBase d)
  let body := bodyElems d * linSize d
  let lb : Int := baseOffset (lBase d) + r * body
  let ten := (spaceOf (tBase d), baseTask (tBase d), tb + ts.1, tb + ts.2)
  let lin := (spaceOf (lBase d), baseTask (lBase d), lb, lb + out)
  if dirOf d then (lin, ten) else (ten, lin)

/-- The source span length of a command whose body spans overlap, where it exceeds 64 KiB (R306); a body lands `out` bytes
(R315). -/
def cmdOverlap (d : BitVec 512) (out : Nat) : Option Nat :=
  (List.range (bodies d)).findSome? fun r =>
    let p := bodySpans d r out
    let a := p.1
    let b := p.2
    let len := (a.2.2.2 - a.2.2.1).toNat
    if a.1 = b.1 ∧ a.1 ≤ 2 ∧ (a.1 ≠ 1 ∨ a.2.1 = b.2.1) ∧ a.2.2.1 < b.2.2.2 ∧ b.2.2.1 < a.2.2.2 ∧ len > 65536 then some len
    else none

-- Bodies (R302, R308, R309, R314). -------------------------------------------------------------------------------

/-- The context in which an engine acts for a command (R282, R288). -/
def engineCtx (c : Cmd) : Ctx :=
  { troot := c.troot, tasid := c.tasid, sup := c.priv, req := 2, slotL := false, core := c.core, gid := c.gid }

/-- A virtual address of a side in space 0: its base, sign-extended from bit 56, and an offset, modulo 2^64 (R300, R302). -/
def vaOf (b : Nat) (off : Int) : W64 := ((BitVec.ofNat 64 b) <<< 7).sshiftRight 7 + BitVec.ofInt 64 off

/-- Where an element of a side in spaces 0 to 2 lies: physical address and the walks it leaves cached (R289, R300, R302). -/
def sidePlace (s : State) (c : Cmd) (b : Nat) (off : Int) (acc : Acc) (n : Nat) : Except TrapInfo (Nat × List TlbEntry) :=
  let g := s.group c.gid
  match spaceOf b with
  | 1 =>
    let core := g.cores.getD (baseTask b) 0
    let o := baseOffset b + off
    match mapGet core g.nsBase with
    | some base =>
      if o < 0 ∨ o + n > nearSize s c.gid core then
        .error { cause := .permission, word := windowWord o.toNat false }
      else .ok (nearPa core + base + o.toNat, [])
    | none => .error { cause := .permission, word := windowWord o.toNat false }
  | 2 => (clusterPlace s c.gid (BitVec.ofInt 64 ((clusterBase : Int) + baseOffset b + off))).map fun pa => (pa, [])
  | _ =>
    let va := vaOf b off
    if inNear va then .error { cause := .permission, word := windowWord (va.toNat - nearBase) false, target := some va }
    else if inCluster va then
      .error { cause := .permission, word := windowWord (va.toNat - clusterBase) true, target := some va }
    else (place s (engineCtx c) acc n va).map fun r => (r.pa, r.fills)

/-- The index of dimension `k` of element `n` of a body (R302). -/
def dimIndex (d : BitVec 512) (n k : Nat) : Nat :=
  n / (List.range k).foldl (fun a j => a * extOf d j) 1 % extOf d k

/-- Whether an index lies in the bounds of dimensions 0 and 1 (R302). -/
def inBounds (d : BitVec 512) (n : Nat) : Bool :=
  let ok (lo hi i : Nat) : Bool := (lo == 0 && hi == 0) || (decide (lo ≤ i) && decide (i < hi))
  ok (dsc d 0x30 0 16) (dsc d 0x32 0 16) (dimIndex d n 0) && ok (dsc d 0x34 0 16) (dsc d 0x36 0 16) (dimIndex d n 1)

/-- An engine read of `n` bytes at a physical address: poison and an unreachable peer fault, apertures are asked; the value, the
units still needed, the sticky bits that decoding sets (R261, R396, R414). -/
def engineRead (s : State) (answers : List (Nat × Nat)) (pa n : Nat) :
    Except TrapInfo (Nat × List Nat × List (Nat × BitVec 8)) :=
  match peerFault s none [(pa, n, 0)], poisonFault s none [(pa, n, 0)] with
  | some e, _ => .error e
  | none, some e => .error e
  | none, none => .ok (loadNat s answers pa n, unanswered s answers pa n, aliasFlags s pa n)

/-- The entry of the block table that an element of a `cpyb` needs and its body has not read (R314). -/
def blockNeeded (c : Cmd) (blocks : List (Nat × Nat)) (n : Nat) : Option Nat :=
  let i := dimIndex c.desc n (bdOf c.desc)
  if c.op = 0x4B ∧ inBounds c.desc n ∧ (mapGet i blocks).isNone then some i else none

/-- An entry of the block table read, as an engine read (R314): the entry, the units of an aperture still needed, sticky bits,
walks. -/
def blockEntry (s : State) (c : Cmd) (answers : List (Nat × Nat)) (i : Nat) :
    Except TrapInfo (Nat × List Nat × List (Nat × BitVec 8) × List TlbEntry) :=
  match place s (engineCtx c) .read 4 (c.bop + BitVec.ofNat 64 (4 * i)) with
  | .error e => .error e
  | .ok r => (engineRead s answers r.pa 4).map fun x => (x.1, x.2.1, x.2.2, r.fills)

/-- The tensor offset of an element from the block-table entries its body has read; none where it is not ok (R302, R314). -/
def tensorOff (c : Cmd) (blocks : List (Nat × Nat)) (n : Nat) : Option Int :=
  let d := c.desc
  let sum (b : Option Nat) : Int := (List.range 6).foldl (fun a k =>
    a + (match b with | some e => if k = bdOf d then (e : Int) else dimIndex d n k | none => (dimIndex d n k : Int)) * strOf d k) 0
  if !inBounds d n then none
  else if c.op = 0x4B then
    let e := (mapGet (dimIndex d n (bdOf d)) blocks).getD 0xFFFFFFFF
    if e = 0xFFFFFFFF then none else some (sum (some e))
  else some (sum none)

/-- An element converted (R301): bits of the destination and flags. -/
def cvtElem (d : BitVec 512) (x : Nat) : Nat × BitVec 8 :=
  let conv (f g : FFmt) (m : Rounding) : Nat × BitVec 8 :=
    let v := fvOf f x
    let o := fvTo g m false v
    (o.1, o.2 ||| sigFlag v)
  match cvtOf d with
  | 1 => conv .f32 .bf16 .rn
  | 2 => conv .f32 .f16 .rn
  | 3 => conv .f32 .e4m3 .rn
  | 4 => conv .f32 .e4m3 .rnSat
  | 5 => conv .bf16 .f32 .rn
  | 6 => conv .f16 .f32 .rn
  | 7 => conv .e4m3 .f16 .rn
  | _ => (x, 0)

/-- The element of `n` bytes of padding (R302). -/
def padElem (d : BitVec 512) (n : Nat) : Nat := packElems 1 (fun _ => padOf d) n

end Sys2Proof.Machine
end

