-- ==== Sys2Proof/Machine/Bodies.lean ====
section
/-! DEFINITION. Started engine commands: reservation, reading a body, landing it, follow-on commands, errors and
collectives (17 R298, R302, R306 to R311, R315, R319, R323, 18 R329, 23 R401). A body is read whole before its bytes
land, which R302 allows and R306 asks of overlapping spans; the bodies of a channel land in queue order (R298). -/

namespace Sys2Proof.Machine

-- The commands of a channel. -------------------------------------------------------------------------------------

/-- Channel `h` of a core. -/
def Core.chan (c : Core) (h : Nat) : Channel := c.ch[h]?.getD {}

/-- A core with a channel set. -/
def Core.setChan (c : Core) (h : Nat) (x : Channel) : Core := { c with ch := c.ch.setIfInBounds h x }

/-- Started command `i` of a channel set. -/
def State.setActive (s : State) (core h i : Nat) (a : Active) : State :=
  s.updCore core fun c => c.setChan h { c.chan h with active := (c.chan h).active.set i a }

/-- Started command `i` of a channel removed. -/
def State.dropActive (s : State) (core h i : Nat) : State :=
  s.updCore core fun c => c.setChan h { c.chan h with active := (c.chan h).active.eraseIdx i }

/-- Started command `i` of a channel. -/
def State.activeAt (s : State) (core h i : Nat) : Option Active := ((s.core core).chan h).active[i]?

/-- The key of a resident task of a number of its own. -/
def keyOfUid (s : State) (uid : Nat) : Option Nat := (s.tasks.find? fun e => e.2.uid == uid).map (·.1)

/-- The task that issued a command changed, while it is resident. -/
def State.updIssuer (s : State) (c : Cmd) (f : Task → Task) : State :=
  match keyOfUid s c.uid with
  | some k => s.updTask k f
  | none => s

/-- Bytes of a body (R302). -/
def bodyBytes (c : Cmd) : Nat := bodyElems c.desc * linSize c.desc

/-- The number of members of a collective within the device (R315). -/
def maskCount (m : Nat) : Nat := ((List.range 32).filter fun i => m / 2 ^ i % 2 == 1).length

/-- The fields of a collective's handle: type code, operation, mask, group (R315, R401). -/
def collType (c : Cmd) : Nat := bitsOf c.bop.toNat 34 3
/-- Operation of a collective (R315). -/
def collOp (c : Cmd) : Nat := bitsOf c.bop.toNat 32 2
/-- Members of a collective (R315). -/
def collMask (c : Cmd) : Nat := bitsOf c.bop.toNat 0 32
/-- GROUP of a collective (R401). -/
def collGroup (c : Cmd) : Nat := bitsOf c.bop.toNat 48 16

/-- NDEV, SELF and the device numbers of a collective's entry (R401). -/
def collEntry (s : State) (group : Nat) : Nat × Nat × List Nat :=
  let a := s.regs.collbase.toNat + 64 * group
  let n := (memGet s.mem a).toNat
  (n, (memGet s.mem (a + 1)).toNat, (List.range (min n 16)).map fun j => (memGet s.mem (a + 2 + j)).toNat)

/-- Whether a collective's entry keeps its layout (R401): 2 to 16 devices, SELF one of them, the rest zero. -/
def collEntryOk (s : State) (group : Nat) : Bool :=
  let e := collEntry s group
  let a := s.regs.collbase.toNat + 64 * group
  decide (2 ≤ e.1) && decide (e.1 ≤ 16) && decide (e.2.1 < e.1) &&
    (List.range 64).all fun i => decide (i < 2 + e.1) || memGet s.mem (a + i) == 0

/-- The members of a collective over all its devices. -/
def collCount (s : State) (c : Cmd) : Nat :=
  maskCount (collMask c) * (if collGroup c = 0 then 1 else (collEntry s (collGroup c)).1)

/-- Bytes a body lands on its linear side: a gather lands every member's body (R315). -/
def landBytes (s : State) (c : Cmd) : Nat :=
  if c.op = 0x4C ∧ collOp c = 0 then collCount s c * bodyBytes c else bodyBytes c

-- Reserving ring entries and stream bytes (R308, R309). ----------------------------------------------------------

/-- The source of the accesses of a command on channel `h` (R320, R396). -/
def cmdSource (s : State) (h : Nat) (c : Cmd) : Source :=
  { uid := c.cid, launch := (s.group c.gid).launch, chan := some (c.core, h) }

/-- The resident task that a ring or stream destination names. -/
def sideTask (s : State) (c : Cmd) : Option (Nat × Task) :=
  let b := lBase c.desc
  if spaceOf b < 3 then none
  else (memberKey s c.gid (baseTask b)).bind fun k => (s.task k).map fun u => (k, u)

/-- Whether the ring or stream of a command is that of a task which has been pre-empted and not loaded back. -/
def sideGone (s : State) (c : Cmd) : Bool :=
  let b := lBase c.desc
  decide (spaceOf b ≥ 3) && (sideTask s c).isNone && s.gone.any fun g => g.gid == c.gid && g.i0 == baseTask b

/-- Bytes that bodies have reserved in a stream and that are not present yet. -/
def streamHeld (z : Stream) : Nat := z.resv.foldl (fun a p => a + p.1) 0

/-- A body reserves its entries or bytes behind those reserved before it, those not free yet among them (R308, R309): the
state and the number of its first entry or byte. Where its target has no descriptor any more it reserves nothing. -/
def reserve (s : State) (c : Cmd) : State × Nat :=
  let n := baseOffset (lBase c.desc)
  match sideTask s c with
  | none => (s, 0)
  | some (k, u) =>
    if spaceOf (lBase c.desc) = 3 then
      let r := u.ring n
      if r.size = 0 then (s, 0)
      else
        let q := { r with resv := r.resv ++ List.replicate (landBytes s c / r.size) false }
        (s.setTask k { u with n := u.n.setIfInBounds n q }, r.done + r.resv.length)
    else
      let z := u.z[n]?.getD {}
      if z.size = 0 then (s, 0)
      else
        (s.setTask k { u with z := u.z.setIfInBounds n { z with resv := z.resv ++ [(landBytes s c, 0)] } }, z.done + streamHeld z)

/-- Whether the target of a command is a closed stream (R309). -/
def streamShut (s : State) (c : Cmd) : Bool :=
  spaceOf (lBase c.desc) == 4 && (match sideTask s c with
    | some (_, u) => (u.z[baseOffset (lBase c.desc)]?.getD {}).closed
    | none => false)

/-- How many of `left` bytes of a body, after those landed, have free entries or room (R308, R309): all outside rings and
streams, or where the target is gone for good; none while it is pre-empted. -/
def roomFor (s : State) (c : Cmd) (start landed left : Nat) : Nat :=
  let n := baseOffset (lBase c.desc)
  match sideTask s c with
  | none => if sideGone s c then 0 else left
  | some (_, u) =>
    if spaceOf (lBase c.desc) = 3 then
      let r := u.ring n
      if r.size = 0 then left else min left ((r.count + r.done - (r.full + start)) * r.size - landed)
    else
      let z := u.z[n]?.getD {}
      if z.size = 0 then left else min left (z.size + z.done - (z.present + start + landed))

/-- Landed bytes taken from the front of the reservations of a stream, as far as there is room (R309). -/
def streamAdvance : List (Nat × Nat) → Stream → Stream
  | [], z => { z with resv := [] }
  | (n, k) :: l, z =>
    let m := min k (z.size - z.present)
    let y := { z with present := z.present + m, done := z.done + m }
    if m = n then streamAdvance l y else { y with resv := (n - m, k - m) :: l }

/-- `k` more bytes of the reservation that holds the byte at a distance from the first reserved one marked as landed. -/
def markStream (k : Nat) : Nat → List (Nat × Nat) → List (Nat × Nat)
  | _, [] => []
  | at', (n, m) :: l => if at' < n then (n, m + k) :: l else (n, m) :: markStream k (at' - n) l

/-- `k` bytes of a body, after those landed, have landed: entries become full and bytes present in their order (R308, R309,
R319). -/
def landReserved (s : State) (c : Cmd) (start landed k : Nat) : State :=
  let n := baseOffset (lBase c.desc)
  match sideTask s c with
  | none => s
  | some (j, u) =>
    if spaceOf (lBase c.desc) = 3 then
      let r := u.ring n
      if r.size = 0 then s
      else
        let first := start + landed / r.size - r.done
        let marks := r.resv.zipIdx.map fun p => p.1 || (decide (first ≤ p.2) && decide (p.2 < first + k / r.size))
        s.setTask j { u with n := u.n.setIfInBounds n (ringAdvance marks r) }
    else
      let z := u.z[n]?.getD {}
      if z.size = 0 ∨ k = 0 then s
      else s.setTask j { u with z := u.z.setIfInBounds n (streamAdvance (markStream k (start + landed - z.done) z.resv) z) }

/-- A stream closed (R309). -/
def closeStream (s : State) (c : Cmd) : State :=
  let n := baseOffset (lBase c.desc)
  match sideTask s c with
  | some (k, u) =>
    let z := u.z[n]?.getD {}
    s.setTask k { u with z := u.z.setIfInBounds n { z with closed := true } }
  | none => s

-- Places of the linear side. -------------------------------------------------------------------------------------

/-- Where linear byte `o` of a body lies that reserved its ring entries or stream bytes from number `start` on, with the walks
it leaves cached; none where its ring or stream is gone (R302, R308, R309). -/
def linPlace (s : State) (c : Cmd) (r start o : Nat) (acc : Acc) (n : Nat) : Except TrapInfo (Option (Nat × List TlbEntry)) :=
  let b := lBase c.desc
  let q := baseOffset b
  if spaceOf b < 3 then (sidePlace s c b ((r * bodyBytes c + o : Nat) : Int) acc n).map some
  else
    match sideTask s c with
    | none => .ok none
    | some (_, u) =>
      let core := (s.group c.gid).cores.getD (baseTask b) 0
      let va : Nat :=
        if spaceOf b = 3 then
          let g := u.ring q
          if g.size = 0 ∨ g.count = 0 then 0 else g.base + (g.tail + (start + o / g.size - g.done)) % g.count * g.size + o % g.size
        else
          let z := u.z[q]?.getD {}
          if z.size = 0 then 0 else z.base + (z.head + z.present + (start + o - z.done)) % z.size
      if va = 0 then .ok none else (nearPlace s c.gid core (BitVec.ofNat 64 va)).map fun pa => some (pa, [])

/-- The group bank in FIFO mode in which linear unit `o` of body `r` lies, where it is one (R251, R304). -/
def fifoBankOf (s : State) (c : Cmd) (r o : Nat) : Option Nat :=
  let b := lBase c.desc
  let i := (baseOffset b + r * bodyBytes c + o) / 0x20000
  if spaceOf b = 2 ∧ bankMode (s.group c.gid) i = 2 then some i else none

/-- The cluster bank behind a group's bank. -/
def State.bankOf (s : State) (gid i : Nat) : BankSt :=
  let g := s.group gid
  match g.banks[i]? with
  | some b => (s.cluster g.cluster).banks[b]?.getD {}
  | none => {}

/-- The cluster bank behind a group's bank changed. -/
def State.updBank (s : State) (gid i : Nat) (f : BankSt → BankSt) : State :=
  let g := s.group gid
  match g.banks[i]? with
  | some b => s.updCluster g.cluster fun k => { k with banks := k.banks.setIfInBounds b (f (k.banks[b]?.getD {})) }
  | none => s

/-- The physical address of entry `j` of a FIFO bank (R251). -/
def State.fifoPa (s : State) (gid i j : Nat) : Nat :=
  let g := s.group gid
  bankPa g.cluster (g.banks.getD i 0) + j % 512 * 256

/-- A push at a FIFO bank that has room (R251). -/
def State.fifoPush (s : State) (writer : Option Nat) (gid i v : Nat) : State :=
  (s.store writer (s.fifoPa gid i (s.bankOf gid i).tail) 256 v).updBank gid i fun b => { b with tail := b.tail + 1 }

/-- The entry at HEAD of a FIFO bank (R251). -/
def State.fifoHead (s : State) (gid i : Nat) : VReg :=
  BitVec.ofNat 2048 (memNat s.mem (s.fifoPa gid i (s.bankOf gid i).head) 256)

/-- A FIFO bank after a pop (R251). -/
def State.fifoDrop (s : State) (gid i : Nat) : State := s.updBank gid i fun b => { b with head := b.head + 1 }

-- Reading a body (R302). -----------------------------------------------------------------------------------------

/-- The bytes of a value at a physical address. -/
def bytesAt (pa n v : Nat) : List (Nat × Byte) := (List.range n).map fun i => (pa + i, BitVec.ofNat 8 (v / 256 ^ i))

/-- `n` bytes of a value at linear offset `o` of a body: to their place, or in an entry for a FIFO bank (R251, R302);
an unreachable peer faults (R396). -/
def linOut (s : State) (c : Cmd) (r start o n v : Nat) : Except TrapInfo ElemOut :=
  match fifoBankOf s c r (o / 256 * 256) with
  | some _ => .ok { pushes := bytesAt o n v, bytes := n }
  | none =>
    match linPlace s c r start o .write n with
    | .error t => .error t
    | .ok none => .ok { bytes := n }
    | .ok (some (pa, f)) =>
      match peerFault s none [(pa, n, 0)] with
      | some t => .error t
      | none => .ok { writes := bytesAt pa n v, bytes := n, fills := f }

/-- An element of the tensor side read and converted, or its padding (R302): value, flags, units of an aperture still needed,
sticky bits, walks. -/
def tensorElem (s : State) (c : Cmd) (answers blocks : List (Nat × Nat)) (n : Nat) :
    Except TrapInfo (Nat × BitVec 8 × List Nat × List (Nat × BitVec 8) × List TlbEntry) :=
  let d := c.desc
  match tensorOff c blocks n with
  | none => .ok (padElem d (dstSize d), 0, [], [], [])
  | some off =>
    match sidePlace s c (tBase d) off .read (srcSize d) with
    | .error e => .error e
    | .ok p => (engineRead s answers p.1 (srcSize d)).map fun x =>
        let r := cvtElem d x.1
        (r.1, r.2, x.2.1, x.2.2, p.2)

/-- Element `n` of the body of a started command (R302): tensor to linear. -/
def elemOut (s : State) (a : Active) (n : Nat) : ElemRes :=
  let e := dstSize a.cmd.desc
  match tensorElem s a.cmd a.answers a.blocks n with
  | .error i => .bad i
  | .ok (v, f, [], m, w) =>
    (match linOut s a.cmd a.body a.start (n * e) e v with
      | .error i => .bad i
      | .ok x => .ok { x with flags := f, marks := m, fills := w ++ x.fills })
  | .ok (_, _, l, _, _) => .need l

/-- Element `n` of the body of a started command (R302): linear to tensor. -/
def elemIn (s : State) (a : Active) (n : Nat) : ElemRes :=
  let c := a.cmd
  let d := c.desc
  let e := srcSize d
  let land (v : Nat) (m : List (Nat × BitVec 8)) (w : List TlbEntry) : ElemRes :=
    let r := cvtElem d v
    match tensorOff c a.blocks n with
    | none => .ok { flags := r.2, marks := m, fills := w }
    | some off =>
      match sidePlace s c (tBase d) off .write (dstSize d) with
      | .error i => .bad i
      | .ok p =>
        match peerFault s none [(p.1, dstSize d, 0)] with
        | some i => .bad i
        | none => .ok { writes := bytesAt p.1 (dstSize d) r.1, flags := r.2, bytes := dstSize d, marks := m, fills := w ++ p.2 }
  match fifoBankOf s c a.body (n * e / 256 * 256) with
  | some i =>
    match a.taken[n * e / 256]? with
    | some v => land (v.toNat / 256 ^ (n * e % 256) % 256 ^ e) [] []
    | none => if (s.bankOf c.gid i).head < (s.bankOf c.gid i).tail then .pop i else .empty
  | none =>
    match linPlace s c a.body a.start (n * e) .read e with
    | .error i => .bad i
    | .ok none => land 0 [] []
    | .ok (some p) =>
      match engineRead s a.answers p.1 e with
      | .error i => .bad i
      | .ok (v, [], m) => land v m p.2
      | .ok (_, l, _) => .need l

/-- Where the source of element `n` of a body lies, and its bytes (R302). -/
def elemSource (s : State) (a : Active) (n : Nat) : Option (Nat × Nat) :=
  let d := a.cmd.desc
  if dirOf d then
    (match linPlace s a.cmd a.body a.start (n * srcSize d) .read (srcSize d) with
      | .ok (some p) => some (p.1, srcSize d)
      | _ => none)
  else
    match tensorOff a.cmd a.blocks n with
    | some o => (match sidePlace s a.cmd (tBase d) o .read (srcSize d) with | .ok p => some (p.1, srcSize d) | .error _ => none)
    | none => none

/-- The marks of the lines that an element of a body is read from are cleared (R255). -/
def State.touchElem (s : State) (a : Active) (n : Nat) : State :=
  if !anyDead s then s
  else match elemSource s a n with
    | some p => s.touchLines p.1 p.2
    | none => s

/-- A started command stops with a record of requester 2 (R323, R331). -/
def State.stopEngine (s : State) (core h i : Nat) (a : Active) (t : TrapInfo) : State :=
  let r := recordOf a.cmd.tasid.toNat core h 2 0 t false false false a.cmd.dva
  ((s.cacheFills t.fills).setActive core h i { a with state := .stopped }).toFaultQueue { record := r, unit := core, slot := h, req := 2 }

/-- A body read again from its first element (R323): none of it has landed outside its ring or stream; FIFO and block-table
entries that it has taken stay. -/
def Active.restart (a : Active) : Active :=
  { a with state := .moving, elem := 0, buf := [], push := [], bytes := 0, flags := 0, answers := [],
           landed := if spaceOf (lBase a.cmd.desc) ≥ 3 then a.landed else 0 }

/-- A body that waits for an entry of a FIFO bank reads again from its first element once translations are removed (R292); what it
has taken stays. -/
def Active.rewind (a : Active) : Active :=
  if a.state == .waiting && a.cmd.op != 0x4C then { a.restart with state := .waiting } else a

/-- The elements of a body read, one after the other, until all are read or one stops or waits; a block-table entry is read
before the first element that needs it (R314). -/
def readBody (core h i : Nat) : Nat → State → Active → State
  | 0, s, a => s.setActive core h i a
  | n + 1, s, a =>
    if a.elem = bodyElems a.cmd.desc then s.setActive core h i a
    else
      match blockNeeded a.cmd a.blocks a.elem with
      | some j =>
        (match blockEntry s a.cmd a.answers j with
          | .error t => s.stopEngine core h i a t
          | .ok (v, [], m, f) => readBody core h i n ((s.cacheFills f).raiseWindows m) { a with blocks := mapSet j v a.blocks }
          | .ok (_, l, _, _) => (s.setActive core h i a).askOutside (cmdSource s h a.cmd) false l)
      | none =>
        match if dirOf a.cmd.desc then elemIn s a a.elem else elemOut s a a.elem with
        | .ok x =>
          readBody core h i n (((s.cacheFills x.fills).raiseWindows x.marks).touchElem a a.elem)
            { a with elem := a.elem + 1, buf := a.buf ++ x.writes, push := a.push ++ x.pushes, flags := a.flags ||| x.flags,
                     bytes := a.bytes + x.bytes }
        | .pop k =>
          (match poisonFault s none [(s.fifoPa a.cmd.gid k (s.bankOf a.cmd.gid k).head, 256, 0)] with
            | some t => s.stopEngine core h i a t
            | none => readBody core h i n (s.fifoDrop a.cmd.gid k) { a with taken := a.taken ++ [s.fifoHead a.cmd.gid k] })
        | .empty => s.setActive core h i { a with state := .waiting }
        | .need l => (s.setActive core h i a).askOutside (cmdSource s h a.cmd) false l
        | .bad t => s.stopEngine core h i a t

/-- The answer to a finished command's status: ETAG and EREASON of the first error since the last `estat` (R319). -/
def recordError (w : W64) (tag reason : Nat) : W64 :=
  if bitsOf w.toNat 32 8 = 0 then BitVec.ofNat 64 (w.toNat % 2 ^ 32 + reason * 2 ^ 32 + tag * 2 ^ 48) else w

/-- A started command ends in error (R319): nothing more lands, its reservations become full in their places. The command is
found by its own number. -/
def State.endInError (s : State) (core h : Nat) (a : Active) (reason : Nat) : State :=
  let s1 := if a.resvd then landReserved s a.cmd a.start a.landed (landBytes s a.cmd - a.landed) else s
  (s1.updCore core fun c => c.setChan h { c.chan h with active := (c.chan h).active.filter fun x => x.cmd.cid != a.cmd.cid }).updIssuer
    a.cmd fun t => { t with chst := t.chst.setIfInBounds h (recordError (t.chst[h]?.getD 0) (tagOf a.cmd.desc) reason) }

/-- Whether all of a body has been written (R302). -/
def Active.written (a : Active) : Bool :=
  a.resvd && a.elem == bodyElems a.cmd.desc && a.push.isEmpty && a.landed == a.buf.length

/-- A body goes on: its reservation, then its reads (R302, R308, R309). While its ring or stream is in the image of a
pre-empted task it waits. -/
def State.runBody (s : State) (core h i : Nat) : State :=
  match s.activeAt core h i with
  | none => s
  | some a =>
    if a.cmd.op = 0x4C then s
    else if !a.resvd && streamShut s a.cmd then s.endInError core h a 2
    else if sideGone s a.cmd then s.setActive core h i { a with state := .waiting }
    else
      let x := if a.resvd then (s, a.start) else reserve s a.cmd
      readBody core h i (3 * bodyElems a.cmd.desc + 1) x.1 { a with resvd := true, start := x.2, state := .moving }

/-- A command starts on an idle engine (R297, R298): those of a cluster are 16, and a cadenced core's own serves its
channel; a command behind a stopped one waits (R323). A collective takes no engine while it waits for its members, so that it
proceeds once all have issued (R315). -/
def State.startCommand (s : State) (core h : Nat) : State :=
  let ch := (s.core core).chan h
  let runs (x : Channel) : Nat := (x.active.filter fun a => a.state != .meeting).length
  let busy := ((List.range 8).foldl (fun n j =>
    n + (((s.core (core / 8 * 8 + j)).ch.toList.map runs).foldl (· + ·) 0)) 0)
  match ch.queue with
  | [] => s
  | c :: rest =>
    let cad := (s.launch (s.group c.gid).launch).pkt.mode == 1
    if (busy ≥ 16 ∧ c.op ≠ 0x4C) ∨ (cad ∧ ch.active ≠ []) ∨ ch.active.any (fun a => a.state == .stopped) then s
    else
      let a : Active := { cmd := c, state := if c.op = 0x4C then .meeting else .moving, since := s.chip.cycles }
      (s.updCore core fun k => k.setChan h { queue := rest, active := ch.active ++ [a] }).runBody core h ch.active.length

-- Landing (R302, R307 to R311). ----------------------------------------------------------------------------------

/-- Whether the first `n` bytes of a list stand one after another from an address on. -/
def consecutive : Nat → Nat → List (Nat × Byte) → Bool
  | 0, _, _ => true
  | n + 1, pa, p :: l => p.1 == pa && consecutive n (pa + 1) l
  | _ + 1, _, [] => false

/-- Bytes of a body written: an aligned element of `e` bytes as one access, others byte by byte (R302). -/
def landBuf (src : Source) (e : Nat) : Nat → State → List (Nat × Byte) → State
  | 0, s, _ => s
  | _ + 1, s, [] => s
  | n + 1, s, (pa, b) :: l =>
    if 1 < e ∧ pa % e = 0 ∧ consecutive (e - 1) (pa + 1) l then
      landBuf src e n ((s.writeOut none src pa e (bytesNat (b :: (l.take (e - 1)).map (·.2)))).touchLines pa e) (l.drop (e - 1))
    else landBuf src e n ((s.writeOut none src pa 1 b.toNat).touchLines pa 1) l

/-- The element size of the side of a command that is written (R302). -/
def landSize (c : Cmd) : Nat := dstSize c.desc

/-- Whole entries of a body pushed while the FIFO banks of its linear side have room: the bytes left (R251). -/
def landFifo (c : Cmd) (r : Nat) : Nat → State → List (Nat × Byte) → State × List (Nat × Byte)
  | 0, s, l => (s, l)
  | n + 1, s, l =>
    match l with
    | [] => (s, [])
    | (o, _) :: _ =>
      match fifoBankOf s c r o with
      | none => (s, [])
      | some i =>
        let b := s.bankOf c.gid i
        if b.tail - b.head < 512 then
          landFifo c r n (s.fifoPush none c.gid i (bytesNat ((l.take 256).map (·.2)))) (l.drop 256)
        else (s, l)

/-- A remote post leaves for a core, or a post to the same core is applied, or discarded and counted where the core then
serves another launch or none (R226, R229, R389); `chan` is the channel whose body makes it. -/
def State.sendPost (s : State) (src dst f n launch : Nat) (chan : Option (Nat × Nat) := none) : State :=
  if src = dst then (if (s.core dst).serves = some launch then s.post dst f n else s.lifeUp 0x4015)
  else
    let p := planPost s s.regs.tsc { src := src, dst := dst, flag := f, count := n, launch := launch, chan := chan }
    s.withNets { s.nets with posts := s.nets.posts ++ [p] }

/-- The oldest post of a pair of cores arrives: it is applied, or discarded and counted where the core then serves another
launch or none (R226, R229, R389). -/
def State.postArrives (s : State) (src dst : Nat) : State :=
  match s.nets.posts.find? fun p => p.src == src && p.dst == dst with
  | none => s
  | some p =>
    if !postDue s p then s
    else
      let s1 := s.withNets { s.nets with posts := s.nets.posts.erase p }
      if (s.core dst).serves = some p.launch then s1.post dst p.flag p.count else s1.lifeUp 0x4015

/-- The posts whose step has come are applied, those of a pair in their order (R387, R389). -/
def State.stitchesArrive (s : State) : State :=
  let due := s.nets.posts.filter fun p => p.net == .mesh && p.steps.isSome && postDue s p
  due.foldl (fun (x : State) p => x.postArrives p.src p.dst) s

/-- Whether the post of a body must wait for one of an earlier command of its channel that is under way to a core which it does
not itself go to (R298); those of one pair of cores keep their order (R389). -/
def postsAhead (s : State) (core h : Nat) (c : Cmd) : Bool :=
  postOf c.desc != 0 && s.nets.posts.any fun p => p.chan == some (core, h) && !(postOf c.desc == 1 && ptgtOf c.desc == p.dst)

/-- The post of a body of channel `h` that has landed (R307). -/
def State.postBody (s : State) (h : Nat) (a : Active) : State :=
  let d := a.cmd.desc
  match postOf d with
  | 1 => s.sendPost a.cmd.core (ptgtOf d) (pflagOf d) 1 (s.group a.cmd.gid).launch (some (a.cmd.core, h))
  | 2 => s.barEvents a.cmd.gid (ptgtOf d) 0 [] [] [a.bytes] []
  | _ => s

/-- A follow-on placed at the array's input behind every operation its task has issued (R156, R311, R329): its rings
are popped when it enters, its handles are fetched later. -/
def pushFollow (t : Task) (c : Cmd) (f : Follow) : Task :=
  match matrixKind f.word with
  | none => t
  | some (kind, lenA, ha, hb, z, lenB) =>
    let oper (h : Bool) (g : W64) (code rows len : Nat) : Oper :=
      { src := if h then .handle (handleAddr g) ((handleStride g len).getD len) else .ring (code % 16), rows := rows, len := len }
    let op : ArrayOp := { kind := kind, bank := c.bank, z := z, a := oper ha f.ga (bitsOf f.word 12 6) 16 lenA,
                          b := oper hb f.gb (bitsOf f.word 6 6) 32 lenB, sel := f.sel, cyc := t.cycle, addr := c.dva,
                          troot := c.troot, tasid := c.tasid, sup := c.priv,
                          set0 := some (t.scl.getLast?.getD sclStart), follow := true, cid := c.cid }
    { t with arrayQ := t.arrayQ ++ [op] }

/-- A ring operand popped when its operation enters the array (R143, R329); none while its ring is empty. -/
def popOper (s : State) (core : Nat) (t : Task) (o : Oper) : Option (Oper × Task) :=
  match o.src, o.data with
  | .ring n, none =>
    let r := t.ring n
    if r.full = 0 then none
    else some ({ o with data := some (ringData s core t r 0 (o.rows * o.len)) }, { t with n := t.n.setIfInBounds n (ringPop r) })
  | _, _ => some (o, t)

/-- The operations of a queue up to the follow-on of a command enter, where its rings allow (R329): A before B (R143). One that
another command follows on with holds those behind it. -/
def enterFirst (s : State) (core cid : Nat) (t : Task) : List ArrayOp → Option (List ArrayOp × Task)
  | [] => some ([], t)
  | op :: l =>
    if op.a.stuck || op.b.stuck then
      if !op.follow || op.cid ≠ cid then none
      else
        match popOper s core t op.a with
        | none => none
        | some a =>
          match popOper s core a.2 op.b with
          | none => none
          | some b => some ({ op with a := a.1, b := b.1 } :: l.map ArrayOp.anew, b.2)
    else (enterFirst s core cid t l).map fun r => (op :: r.1, r.2)

/-- The follow-on of a command enters the array of its task (R329): the rings of what stands behind it in the queue are left
alone. -/
def enterFollow (s : State) (core cid : Nat) (t : Task) : Option Task :=
  let n := t.arrayQ.length - (t.arrayQ.reverse.takeWhile fun o => !(o.follow && o.cid == cid)).length
  (enterFirst s core cid t (t.arrayQ.take n)).map fun r => { r.2 with arrayQ := r.1 ++ (t.arrayQ.drop n).map ArrayOp.anew }

/-- *uncorrectable error* for a ring entry that the follow-on of a command would take and that holds poison (R414). -/
def followPoison (s : State) (core cid : Nat) (t : Task) : Option (W64 × TrapInfo) :=
  let bad (o : Oper) (i : Nat) : Option TrapInfo := match o.src, o.data with
    | .ring n, none => if i < (t.ring n).full then entryPoison s core t (t.ring n) i (o.rows * o.len) else none
    | _, _ => none
  (t.arrayQ.reverse.find? fun o => o.follow && o.cid == cid).bind fun o =>
    ((bad o.a 0).or (bad o.b (if o.a.src = o.b.src then 1 else 0))).map fun e => (o.addr, e)

/-- The next body of the oldest command of a channel, or its end (R302, R309). -/
def State.nextBody (s : State) (core h : Nat) (a : Active) : State :=
  if a.body + 1 < bodies a.cmd.desc then
    (s.setActive core h 0 { cmd := a.cmd, state := .moving, body := a.body + 1 }).runBody core h 0
  else
    let s1 := if closeOf a.cmd.desc then closeStream s a.cmd else s
    s1.dropActive core h 0

/-- A follow-on at the array's input of its task enters, and then the post of its body is made (R156, R329); an entry that holds
poison stops it as an operand fetch (R414). -/
def State.enterBody (s : State) (core h : Nat) (a : Active) : State :=
  match keyOfUid s a.cmd.uid with
  | none => (s.postBody h a).nextBody core h a
  | some k =>
    match s.task k with
    | none => s
    | some t =>
      let stays := s.setActive core h 0 { a with state := .entering }
      match enterFollow s (k / 4) a.cmd.cid t, followPoison s (k / 4) a.cmd.cid t with
      | none, _ => stays
      | some _, some (addr, e) => if t.arrayStop.isSome then stays else stays.stopFetch (k / 4) (k % 4) addr e
      | some u, none => ((s.setTask k u).postBody h a).nextBody core h a

/-- The body of the oldest command of a channel has landed: its follow-on, its post, and the next body (R307, R311). -/
def State.finishBody (s : State) (core h : Nat) (a : Active) : State :=
  match a.cmd.follow with
  | none => (s.postBody h a).nextBody core h a
  | some f => (s.updIssuer a.cmd fun t => if t.holds a.cmd.bank then pushFollow t a.cmd f else t).enterBody core h a

/-- Whether every element of the oldest command of a channel is read and none of its bytes has landed. -/
def bodyReady (a : Active) : Bool := a.state == .moving && a.resvd && a.elem == bodyElems a.cmd.desc

/-- Whether stores of a command to an aperture are not acknowledged (R396). -/
def cmdStoresOut (s : State) (cid : Nat) : Bool := s.nets.outside.any fun o => o.store.isSome && o.src.chan.isSome && o.src.uid == cid

/-- A body of the oldest started command of a channel lands as far as its side has room (R302, R307 to R311). -/
def State.landBody (s : State) (core h : Nat) : State :=
  match s.activeAt core h 0 with
  | none => s
  | some a =>
    if !bodyReady a then s
    else
      let c := a.cmd
      let left := a.buf.drop a.landed
      let k := roomFor s c a.start a.landed left.length
      let r := landFifo c a.body (a.push.length + 1) (landBuf (cmdSource s h c) (landSize c) k s (left.take k)) a.push
      let s1 := landReserved r.1 c a.start a.landed k
      let b : Active := { a with push := r.2, landed := a.landed + k }
      if k < left.length ∨ r.2 ≠ [] then s1.setActive core h 0 b
      else
        let s2 := s1.updIssuer c fun t => t.lateFlags a.flags
        if cmdStoresOut s2 c.cid || postsAhead s2 core h c then s2.setActive core h 0 { b with state := .acking }
        else s2.finishBody core h b

/-- The oldest started command of a channel goes on where it waits for its follow-on to enter, for an aperture to acknowledge
its body, or for an earlier post of the channel (R298, R329, R396). -/
def State.releaseFirst (s : State) (core h : Nat) (a : Active) : State :=
  match a.state with
  | .entering => s.enterBody core h a
  | .acking => if cmdStoresOut s a.cmd.cid || postsAhead s core h a.cmd then s else s.finishBody core h a
  | _ => s

/-- A waiting started command goes on: an entry of a FIFO bank, an answer, a follow-on that can enter, an acknowledgement (R302,
R329, R396). -/
def State.releaseEngine (s : State) (core h : Nat) : State :=
  match s.activeAt core h 0 with
  | none => s
  | some a =>
    if a.state == .entering || a.state == .acking then s.releaseFirst core h a
    else
      match ((s.core core).chan h).active.findIdx? fun a => a.state == .waiting || (a.state == .moving && !bodyReady a) with
      | some i => s.runBody core h i
      | none => s

-- Collectives (R315, R401). --------------------------------------------------------------------------------------

/-- A member's part in a collective: its core, channel and place among the started commands. -/
def findMember (s : State) (gid i0 group mask seqNo : Nat) : Option (Nat × Nat × Nat) :=
  s.cores.findSome? fun e =>
    (List.range 2).findSome? fun h =>
      ((e.2.chan h).active.findIdx? fun a =>
        a.cmd.op == 0x4C && a.cmd.gid == gid && a.cmd.i0 == i0 && collGroup a.cmd == group &&
          collMask a.cmd == mask && a.cmd.seqNo == seqNo && a.state == .meeting).map fun i => (e.1, h, i)

/-- The elements of a member's body, converted or padded (R302, R315): values with their flags, sticky bits and walks, or what
stops the read. -/
def memberElems (s : State) (a : Active) : Nat →
    Except (Sum TrapInfo (List Nat)) (List Nat × BitVec 8 × List (Nat × BitVec 8) × List TlbEntry)
  | 0 => .ok ([], 0, [], [])
  | n + 1 =>
    match memberElems s a n with
    | .error e => .error e
    | .ok (l, f, m, w) =>
      match tensorElem s a.cmd a.answers [] n with
      | .error e => .error (.inl e)
      | .ok (v, g, [], o, x) => .ok (l ++ [v], f ||| g, m ++ o, w ++ x)
      | .ok (_, _, u, _, _) => .error (.inr u)

/-- Elements of the members combined in rank order: sum, max or min by type code (R60, R65, R70, R315). -/
def combine (ty op : Nat) (l : List Nat) : Nat × BitVec 8 :=
  if ty = 2 ∨ ty = 3 then
    let n := if ty = 2 then 32 else 64
    let xs := l.map (toSigned n)
    match xs with
    | [] => (0, 0)
    | x :: r =>
      (ofSigned n (if op = 1 then r.foldl (· + ·) x else if op = 2 then r.foldl max x else r.foldl min x), 0)
  else
    let f := fmtOfCode ty
    if op = 1 then
      match treeRoot (sumNode (prec f + 8)) 10 (l.map fun x => let v := fvOf f x; some (v, sigFlag v)) with
      | some r => let o := fvTo f .rn false r.1; (o.1, o.2 ||| r.2)
      | none => (0, 0)
    else
      match l with
      | [] => (0, 0)
      | x :: r => r.foldl (fun a y => let m := fMinMax f (op == 2) a.1 y; (m.1, a.2 ||| m.2)) (x, 0)

/-- The combined elements `0 … n-1` of members given element by element. -/
def combineAll (ty op : Nat) (members : List (List Nat)) (n : Nat) : List Nat × BitVec 8 :=
  ((List.range n).foldl (fun (a : List Nat × BitVec 8) e =>
    let r := combine ty op (members.map fun m => m.getD e 0)
    (a.1 ++ [r.1], a.2 ||| r.2)) ([], 0))

/-- Each member's destination of a collective filled: its elements one after another from its linear base. -/
def memberBuf (s : State) (a : Active) (e : Nat) : List Nat → Nat → Except TrapInfo ElemOut
  | [], _ => .ok {}
  | v :: l, o =>
    match linOut s a.cmd 0 a.start o e v, memberBuf s a e l (o + e) with
    | .error t, _ => .error t
    | _, .error t => .error t
    | .ok x, .ok r =>
      .ok { writes := x.writes ++ r.writes, pushes := x.pushes ++ r.pushes, bytes := x.bytes + r.bytes, fills := x.fills ++ r.fills }

/-- The members' places in rank order and their commands. -/
def collMembers (s : State) (gid group mask seqNo : Nat) : Option (List ((Nat × Nat × Nat) × Active)) :=
  ((List.range 32).filter fun i => mask / 2 ^ i % 2 == 1).mapM fun i =>
    (findMember s gid i group mask seqNo).bind fun p => (s.activeAt p.1 p.2.1 p.2.2).map fun a => (p, a)

/-- Every member of a collective ends in error (R315, R401). -/
def State.collFail (s : State) (l : List ((Nat × Nat × Nat) × Active)) (reason : Nat) : State :=
  l.foldl (fun (x : State) p => x.endInError p.1.1 p.1.2.1 p.2 reason) s

/-- The data of the members of the other devices: free values (R401; what only a peer supplies). -/
def peerElems (s : State) (dev i n bytes : Nat) : List Nat :=
  (List.range n).map fun e => (Config.peerValue (((s.draws * 16 + dev) * 32 + i) * 2 ^ 40 + e)).toNat % 256 ^ bytes

/-- Whether a link leads to every device of a collective's entry but this one (R396, R401). -/
def peersReachable (s : State) (group : Nat) : Bool :=
  let e := collEntry s group
  (e.2.2.zipIdx.all fun p => p.2 == e.2.1 || bitsOf ((mapGet p.1 s.regs.route).getD 0).toNat 0 16 != 0)

/-- Whether a peer of a collective gives no answer: a free value (R396, R401). -/
def peersSilent (s : State) (group : Nat) : Bool := group != 0 && (Config.peerValue s.draws).getLsbD 1

/-- Whether the other devices' entries and commands agree with this device's: a free value (R401). -/
def peersAgree (s : State) (group : Nat) : Bool := group == 0 || (Config.peerValue s.draws).getLsbD 0

/-- The elements of all members in rank order (R401): device first, then index. -/
def allElems (s : State) (group mask : Nat) (mine : List (List Nat)) (n bytes : Nat) : List (List Nat) :=
  if group = 0 then mine
  else
    let e := collEntry s group
    let idx := (List.range 32).filter fun i => mask / 2 ^ i % 2 == 1
    (List.range e.1).flatMap fun j => if j = e.2.1 then mine else idx.map fun i => peerElems s j i n bytes

/-- Ranges reserved by the members that land in rings or streams, in their order; a closed stream takes none (R309). -/
def reserveAll : List ((Nat × Nat × Nat) × Active) → State → State × List ((Nat × Nat × Nat) × Active)
  | [], s => (s, [])
  | (p, a) :: l, s =>
    let x := if a.resvd || streamShut s a.cmd then (s, a) else
      let r := reserve s a.cmd
      (r.1, { a with resvd := true, start := r.2 })
    let y := reserveAll l x.1
    (y.1, (p, x.2) :: y.2)

/-- What the members of a collective come to: reads, the combination, and the bytes of each destination (R315). A member whose
stream is closed lands nothing and ends in error (R309). While a member's ring or stream is in the image of a pre-empted task
it waits. -/
def collRun (s : State) (l : List ((Nat × Nat × Nat) × Active)) (a0 : Active) : State :=
  let n := bodyElems a0.cmd.desc
  let e := dstSize a0.cmd.desc
  let group := collGroup a0.cmd
  match l.mapM fun p => (match memberElems s p.2 n with | .ok r => Except.ok r | .error x => .error (p, x)) with
  | .error (p, .inl t) => s.stopEngine p.1.1 p.1.2.1 p.1.2.2 p.2 t
  | .error (p, .inr m) => s.askOutside (cmdSource s p.1.2.1 p.2.cmd) false m
  | .ok mine =>
    if l.any fun p => sideGone s p.2.cmd then s
    else
      let x := reserveAll l s
      let all := allElems s group (collMask a0.cmd) (mine.map (·.1)) n e
      let out : List Nat × BitVec 8 :=
        if collOp a0.cmd = 0 then (all.flatMap id, 0) else combineAll (collType a0.cmd) (collOp a0.cmd) all n
      match x.2.mapM fun p => (match memberBuf x.1 p.2 e out.1 0 with | .ok b => Except.ok (p, b) | .error t => .error (p, t)) with
      | .error (p, t) => s.stopEngine p.1.1 p.1.2.1 p.1.2.2 { p.2 with resvd := false } t
      | .ok bufs =>
        let s0 := (x.1.cacheFills (mine.flatMap (·.2.2.2))).raiseWindows (mine.flatMap (·.2.2.1))
        let s1 := if anyDead s then l.foldl (fun (y : State) p => (List.range n).foldl (fun z k => z.touchElem p.2 k) y) s0 else s0
        let s2 := (bufs.zip mine).foldl (fun (y : State) q =>
          let p := q.1.1.1
          (y.cacheFills q.1.2.fills).setActive p.1 p.2.1 p.2.2
            { q.1.1.2 with state := .moving, elem := n, buf := q.1.2.writes, push := q.1.2.pushes, bytes := q.1.2.bytes,
                           resvd := true, flags := q.2.2.1 ||| out.2 }) s1
        (l.filter fun p => streamShut s p.2.cmd).foldl (fun (y : State) p => y.endInError p.1.1 p.1.2.1 p.2 2) s2

/-- A collective whose members have all issued proceeds (R315, R401); where a peer stays silent it ends in error 2^24 cycles after
the last member has issued (R396). -/
def State.collProceed (s : State) (gid group mask : Nat) : State :=
  let seqs := s.cores.flatMap fun e => (List.range 2).flatMap fun h =>
    (e.2.chan h).active.filterMap fun a =>
      if a.cmd.op == 0x4C && a.cmd.gid == gid && collGroup a.cmd == group && collMask a.cmd == mask && a.state == .meeting
      then some a.cmd.seqNo else none
  match seqs.findSome? fun q => collMembers s gid group mask q with
  | none => s
  | some l =>
    match l with
    | [] => s
    | (_, a0) :: _ =>
      let same := l.all fun p => collOp p.2.cmd == collOp a0.cmd && collType p.2.cmd == collType a0.cmd &&
        bodyElems p.2.cmd.desc * dstSize p.2.cmd.desc == bodyElems a0.cmd.desc * dstSize a0.cmd.desc
      if !same then s.collFail l 1
      else if group ≠ 0 ∧ !peersReachable s group then s.collFail l 4
      else if peersSilent s group then
        if l.all fun p => decide (p.2.since + 2 ^ 24 ≤ s.chip.cycles) then s.collFail l 4 else s
      else if !peersAgree s group then s.collFail l 1
      else collRun s l a0

end Sys2Proof.Machine
end

