-- ==== Sys2Proof/Machine/Sched.lean ====
section
/-! DEFINITION. Queues, launch packets, dispatch, groups and their reservations, completion, and the end of a task
(chapter 11, 19 R341, 23 R400, 24 R405 to R408). -/

namespace Sys2Proof.Machine

-- Counters and notices (R408, R416). -----------------------------------------------------------------------------

/-- Entries of a queue set by a control word (R338, R408). -/
def queueSize (ctl : W64) : Nat := 2 ^ (bitsOf ctl.toNat 4 4 + 4)

/-- Whether a queue with these registers has no room: full, or not enabled (R339). -/
def queueShut (ctl : W64) (wr rd : Nat) : Bool :=
  !ctl.getLsbD 0 || decide ((wr + 2 ^ 32 - rd) % 2 ^ 32 ≥ queueSize ctl)

/-- Whether the notice queue has no room for a further notice: those handed to it that are not yet written take theirs (R408). -/
def noticeShut (s : State) : Bool := queueShut s.regs.nqctl (s.regs.nqwr + s.notes.nqWait.length) s.regs.nqrd

/-- A notice handed to the notice queue (R408): kind 5 is dropped and counted where there is no room. -/
def State.notice (s : State) (kind : Nat) (a b c : W64) : State :=
  if kind = 5 ∧ noticeShut s then s.lifeUp 0x4016
  else s.withNotes { s.notes with nqWait := s.notes.nqWait ++ [{ w0 := BitVec.ofNat 64 kind, w1 := a, w2 := b, w3 := c }] }

-- Queue descriptors (R405 to R407). ------------------------------------------------------------------------------

/-- The number of queues (R405). -/
def queueCount : Nat := 131072

/-- The physical address of field `o` of the descriptor of queue `q` (R405). -/
def queuePa (s : State) (q o : Nat) : Nat := s.regs.qtbase.toNat + 64 * q + o

/-- A field of a queue's descriptor. -/
def queueField (s : State) (q o : Nat) : Nat := memNat s.mem (queuePa s q o) 8

/-- WRIDX of a queue. -/
def wrIdx (s : State) (q : Nat) : Nat := queueField s q 0
/-- RDIDX of a queue. -/
def rdIdx (s : State) (q : Nat) : Nat := queueField s q 8
/-- CTL of a queue. -/
def queueCtl (s : State) (q : Nat) : Nat := queueField s q 0x18
/-- Slots of a queue's ring. -/
def queueCap (s : State) (q : Nat) : Nat := 2 ^ bitsOf (queueCtl s q) 0 5
/-- Whether a queue is open to `lnch` (R405). -/
def queueDev (s : State) (q : Nat) : Bool := bitsOf (queueCtl s q) 22 1 == 1
/-- Whether a queue is enabled. -/
def queueOn (s : State) (q : Nat) : Bool := bitsOf (queueCtl s q) 23 1 == 1
/-- The dispatcher of a queue. -/
def queueCluster (s : State) (q : Nat) : Nat := bitsOf (queueCtl s q) 16 6
/-- WEIGHT of a queue. -/
def queueWeight (s : State) (q : Nat) : Nat := bitsOf (queueCtl s q) 8 8
/-- The physical address of slot `i` of a queue (R405). -/
def slotPa (s : State) (q i : Nat) : Nat := queueField s q 0x10 + 128 * (i % queueCap s q)

/-- A field of a queue's descriptor written. -/
def State.setQueue (s : State) (q o v : Nat) : State := s.store none (queuePa s q o) 8 v

/-- An error of a queue (R407): the first is kept, EN is cleared for reasons 0x40 and 0x41, notice kind 4 is posted. -/
def State.queueError (s : State) (q reason slot : Nat) (off : Bool) : State :=
  let s1 := if queueField s q 0x28 = 0 then s.setQueue q 0x28 (reason + slot % 2 ^ 32 * 2 ^ 32) else s
  let s2 := if off then s1.setQueue q 0x18 (queueCtl s1 q - bitsOf (queueCtl s1 q) 23 1 * 2 ^ 23) else s1
  s2.notice 4 (BitVec.ofNat 64 q) (BitVec.ofNat 64 (queueField s2 q 0x28)) 0

/-- Whether CTL or BASE of a queue break their layout (R407). -/
def queueBad (s : State) (q : Nat) : Bool :=
  let c := queueCtl s q
  decide (bitsOf c 0 5 > 16) || bitsOf c 8 8 == 0 || queueField s q 0x10 % 128 != 0 || bitsOf c 5 3 != 0 || bitsOf c 24 40 != 0

/-- The checks a dispatcher makes when it wakes for an enabled queue (R407). -/
def State.wakeQueue (s : State) (q : Nat) : State :=
  if !queueOn s q then s
  else if queueBad s q then s.queueError q 0x41 (rdIdx s q) true
  else if (wrIdx s q + 2 ^ 64 - rdIdx s q) % 2 ^ 64 > queueCap s q then s.queueError q 0x40 (rdIdx s q) true
  else s

/-- The control values of a queue's CTXPTR block (R405). -/
def ctxVals (s : State) (q : Nat) : CtxVals :=
  let a := queueField s q 0x20
  let w (i : Nat) : W64 := BitVec.ofNat 64 (memNat s.mem (a + 8 * i) 8)
  { troot := w 0, tasid := w 1, tvec := w 2, deleg := w 3, savebase := w 4 }

/-- The context in which a dispatcher reaches memory for a queue (R203, R288). -/
def dispatchCtx (c : CtxVals) : Ctx :=
  { troot := c.troot, tasid := c.tasid, sup := false, req := 4, slotL := false, core := 0, gid := 0 }

-- Packets (R202, R203, R215). ------------------------------------------------------------------------------------

/-- `n` bytes of a packet from byte `o`. -/
def pkField (raw o n : Nat) : Nat := bitsOf raw (8 * o) (8 * n)

/-- Number of fields of the work identifier. -/
def pkFields (raw : Nat) : Nat := ((List.range 6).takeWhile fun f => pkField raw (8 + f) 1 != 0).length

/-- The fields of a packet (R202, R215). -/
def packetOf (raw : Nat) : Packet :=
  let mp := pkField raw 2 1
  let res := pkField raw 3 1
  let header := pkField raw 0 1 == 2
  { kind := pkField raw 0 1, mode := bitsOf mp 0 1, prio := bitsOf mp 1 3, eclass := bitsOf mp 4 3,
    vcnt := match bitsOf res 0 2 with | 0 => 16 | 1 => 24 | 2 => 32 | _ => 48
    scope := bitsOf res 2 2, serial := bitsOf res 4 1 == 1, starve := pkField raw 4 2, gsize := bitsOf raw 48 4,
    skew := bitsOf raw 52 4, narg := pkField raw 7 1, fw := (List.range 6).map fun f => pkField raw (8 + f) 1,
    nsb := pkField raw 0xE 2, bars := pkField raw 0x10 2, csn := pkField raw 0x12 1,
    wtexp := if pkField raw 0x13 1 = 0 then 24 else pkField raw 0x13 1, entry := pkField raw 0x14 4,
    csmode := BitVec.ofNat 64 (pkField raw 0x18 8), code := BitVec.ofNat 64 (pkField raw 0x20 8),
    ext := (List.range 6).map fun f => pkField raw (0x28 + 4 * f) 4, cpladdr := BitVec.ofNat 64 (pkField raw 0x40 8),
    cplval := BitVec.ofNat 64 (pkField raw 0x48 8), depmask := BitVec.ofNat 64 (pkField raw 0x50 8),
    args := (List.range 5).map fun i => BitVec.ofNat 64 (pkField raw (0x58 + 8 * i) 8),
    pcount := if header then pkField raw 8 1 else 0 }

/-- Whether widths and extents break R202. -/
def extentsBad (raw : Nat) : Bool :=
  let nf := pkFields raw
  let fw (f : Nat) : Nat := pkField raw (8 + f) 1
  let ext (f : Nat) : Nat := pkField raw (0x28 + 4 * f) 4
  nf == 0 || decide ((List.range 6).foldl (fun a f => a + fw f) 0 > 64) || decide (ext 0 > 32) ||
    (List.range 6).any fun f =>
      if f < nf then decide (fw f > 64) || ext f == 0 || decide (ext f > min (2 ^ fw f) (2 ^ 32 - 1))
      else fw f != 0 || ext f != 0

/-- Whether CSMODE, NSB, BARS, CSN or WTEXP leave their ranges (R203). -/
def resourcesBad (raw : Nat) : Bool :=
  let csn := pkField raw 0x12 1
  let wt := pkField raw 0x13 1
  decide (pkField raw 0xE 2 > 256) || decide (pkField raw 0x10 2 > 512) || decide (csn > 32) ||
    (wt != 0 && (decide (wt < 10) || decide (wt > 40))) ||
    (List.range 32).any fun i => let m := bitsOf raw (8 * 0x18 + 2 * i) 2; if i < csn then m == 3 else m != 0

/-- The first check of 0x01 to 0x06 and 0x08 that a tile launch fails (R203, R400); `dep` says whether DEPMASK must be
zero. -/
def tileBad (raw : Nat) (dep : Bool) : Option Nat :=
  let mp := pkField raw 2 1
  let gs := bitsOf raw 48 4
  let sk := bitsOf raw 52 4
  let cad := bitsOf mp 0 1 == 1
  if pkField raw 0 1 ≠ 1 ∨ pkField raw 1 1 ≠ 1 then some 1
  else if bitsOf mp 7 1 ≠ 0 ∨ bitsOf (pkField raw 3 1) 5 3 ≠ 0 then some 2
  else if extentsBad raw then some 3
  else if resourcesBad raw then some 4
  else if (if cad then gs < 2 ∨ gs > 8 ∨ sk = 0 ∨ pkField raw 0x28 4 ≠ gs else gs ≠ 0 ∨ sk ≠ 0) then some 5
  else if pkField raw 7 1 > 5 ∨ pkField raw 0x14 4 % 4 ≠ 0 then some 6
  else if dep ∧ ¬ cad ∧ pkField raw 0x50 8 ≠ 0 then some 8
  else none

/-- Bytes of a graph header outside its fields (R215). -/
def headerRest (raw : Nat) : Nat :=
  pkField raw 2 1 + (pkField raw 3 1 - bitsOf (pkField raw 3 1) 2 3 * 4) + pkField raw 4 4 + pkField raw 9 23 +
    pkField raw 0x30 16 + pkField raw 0x50 48

/-- Whether member `j` of a graph breaks the form of R215. -/
def memberBad (raw j : Nat) : Bool :=
  pkField raw 0 1 != 1 || bitsOf (pkField raw 3 1) 4 1 != 0 || decide (pkField raw 0x50 8 ≥ 2 ^ j)

/-- The bytes of the members of a graph; none where they cannot be read. -/
def graphMembers (s : State) (c : CtxVals) (raw : Nat) : Option (List Nat) :=
  (List.range (pkField raw 8 1)).mapM fun j =>
    match placeAll s (dispatchCtx c) .read (piecesOf (BitVec.ofNat 64 (pkField raw 0x20 8 + 128 * j)) 128) with
    | .ok q => some (readPlaced s [] q.1)
    | .error _ => none

/-- What a dispatcher reads when it takes the packet of a slot (R201, R203, R215, R405): the queue descriptor, the slot, the
CTXPTR block, the members of a graph; with the walks, those of CPLADDR among them. -/
def packetReads (s : State) (q slot : Nat) (c : CtxVals) (raw : Nat) : List (Nat × Nat × W64) × List TlbEntry :=
  let own : List (Nat × Nat × W64) := [(s.regs.qtbase.toNat + 64 * q, 64, 0), (slotPa s q slot, 128, 0), (queueField s q 0x20, 40, 0)]
  let more := if pkField raw 0 1 = 2 then List.range (min (pkField raw 8 1) 64) else []
  let cpl := match place s (dispatchCtx c) .write 8 (BitVec.ofNat 64 (pkField raw 0x40 8)) with
    | .ok r => r.fills
    | .error e => e.fills
  more.foldl (fun (a : List (Nat × Nat × W64) × List TlbEntry) j =>
    match placeAll s (dispatchCtx c) .read (piecesOf (BitVec.ofNat 64 (pkField raw 0x20 8 + 128 * j)) 128) with
    | .ok p => (a.1 ++ p.1, a.2 ++ p.2)
    | .error e => (a.1, a.2 ++ e.fills)) (own, cpl)

/-- The first check of 0x01, 0x02 and 0x08 that a graph header fails (R203, R215). -/
def headerBad (s : State) (c : CtxVals) (raw : Nat) : Option Nat :=
  if pkField raw 1 1 ≠ 1 then some 1
  else if headerRest raw ≠ 0 then some 2
  else if pkField raw 8 1 = 0 ∨ pkField raw 8 1 > 64 ∨ pkField raw 0x20 8 % 128 ≠ 0 then some 8
  else
    match graphMembers s c raw with
    | none => some 8
    | some l => if l.zipIdx.any fun p => memberBad p.1 p.2 then some 8 else none

/-- Check 0x07: CPLADDR (R203). -/
def cplBad (s : State) (c : CtxVals) (raw : Nat) : Bool :=
  let a := BitVec.ofNat 64 (pkField raw 0x40 8)
  a == 0 || a.toNat % 8 != 0 || (match place s (dispatchCtx c) .write 8 a with | .ok _ => false | .error _ => true)

/-- Groups of a launch (R201). -/
def groupCount (p : Packet) : Nat :=
  (List.range 5).foldl (fun a f => a * (if p.ext.getD (f + 1) 0 = 0 then 1 else p.ext.getD (f + 1) 0)) 1

/-- Whether a cluster cannot hold a gang of a launch (R218). -/
def gangUnplaceable (s : State) (p : Packet) (k : Nat) : Bool :=
  ((List.range p.gsize).any fun i => (s.core (8 * k + i)).fenced) ||
    decide (((s.cluster k).banks.toList.filter fun b => !b.fenced).length < p.csn)

/-- Check 0x0A: every cluster of a cadenced launch able to hold its gang (R218). -/
def placementBad (s : State) (h : Nat) (p : Packet) : Bool :=
  p.mode == 1 && (List.range (min (groupCount p) 64)).any fun g => gangUnplaceable s p ((h + g) % 64)

-- Completion writes (R203, R206). --------------------------------------------------------------------------------

/-- A word written to a completion address, or the fault of that write. -/
def cplWrite (s : State) (l : Launch) (v : W64) : Except TrapInfo State :=
  match placeAll s (dispatchCtx l.ctx) .write [(l.pkt.cpladdr, 8)] with
  | .error e => .error e
  | .ok q =>
    match peerFault s (some l.pkt.cpladdr) q.1 with
    | some e => .error e
    | none => .ok (q.1.foldl (fun (x : State) p => x.writeOut none { uid := l.id } p.1 8 v.toNat) (s.cacheFills q.2))

/-- A failure word (R203). -/
def failWord (reason : Nat) : W64 := BitVec.ofNat 64 (2 ^ 63 + reason)

/-- A launch whose completion write fails posts a record and stops (R288, R331, R339). -/
def State.stopLaunch (s : State) (l : Launch) (i : TrapInfo) : State :=
  let r := recordOf l.ctx.tasid.toNat l.cluster 0 4 0 i false false false (BitVec.ofNat 64 l.slotPa)
  ((s.cacheFills i.fills).setLaunch l.id { l with stopped := some r }).toFaultQueue { record := r, unit := l.cluster, slot := 0, req := 4 }

/-- RDIDX of a launch's queue advances when the launch leaves it (R209). -/
def State.leaveQueue (s : State) (q : Nat) : State := s.setQueue q 8 ((rdIdx s q + 1) % 2 ^ 64)

/-- Whether every launch of a graph's instance but those in a list is done. -/
def membersDone (s : State) (head : Nat) : Bool :=
  s.launches.all fun e => match e.2.parent with | some (p, _) => p != head || e.2.phase == .done | none => true

/-- Whether an earlier launch of a queue is not complete (R209). -/
def earlierRuns (s : State) (q id : Nat) : Bool := s.launches.any fun e => e.2.queue == q && decide (e.1 < id) && e.2.phase != .done

/-- Whether a launch that waits becomes a candidate: outside a graph when every earlier launch of its queue is done (R209), the
first members of a graph with their header (R215, R216). `heads` are the headers that become candidates. -/
def opensNow (s : State) (heads : List Nat) (l : Launch) : Bool :=
  l.phase == .waiting && (match l.parent with
    | none => !earlierRuns s l.queue l.id
    | some (h, _) => heads.contains h && l.pkt.depmask == 0)

/-- A launch is done, and with its last member its graph; serial launches behind it become candidates (R206, R209, R216). -/
def State.launchDone (s : State) (id : Nat) : State :=
  let s1 := s.updLaunch id fun l => { l with phase := .done, stopped := none }
  let heads := s1.launches.filterMap fun e => if e.2.parent.isNone && opensNow s1 [] e.2 then some e.1 else none
  s1.withLaunches (s1.launches.map fun e =>
    if opensNow s1 heads e.2 then (e.1, { e.2 with phase := .candidate, since := s1.chip.cycles }) else e)

/-- A failing packet (R203, R407): its failure word, or the queue's error where CPLADDR is unusable. -/
def State.failPacket (s : State) (l : Launch) (reason : Nat) (bad : Bool) (slot : Nat) : State :=
  if bad then (s.setLaunch l.id { l with phase := .done }).queueError l.queue reason slot false
  else
    match cplWrite s l (failWord reason) with
    | .ok s1 => s1.setLaunch l.id { l with phase := .done, fail := some (failWord reason) }
    | .error e => s.stopLaunch { l with fail := some (failWord reason) } e

/-- Members of a graph entered as launches: those that fail a check of their own fail alone (R203, R216). `opens` says whether the
header is a candidate. -/
def addMembers (opens : Bool) (head q cluster slot : Nat) (ctx : CtxVals) : List (Nat × Nat) → State → State
  | [], s => s
  | (raw, j) :: r, s =>
    let n := s.fresh
    let p := packetOf raw
    let l : Launch := { id := n.1, queue := q, cluster := cluster, slotPa := slotPa s q slot, pkt := p, ctx := ctx,
                        groups := groupCount p, parent := some (head, j) }
    let bad7 := cplBad s ctx raw
    let bad := (tileBad raw false).or (if bad7 then some 7 else if placementBad s cluster p then some 10 else none)
    let s1 :=
      match bad with
      | some x => n.2.failPacket { l with groups := 0 } x bad7 slot
      | none =>
        n.2.setLaunch n.1 (if opens && p.depmask == 0 then { l with phase := .candidate, since := s.chip.cycles } else l)
    addMembers opens head q cluster slot ctx r s1

/-- Whether a launch still holds its place in its queue (R209). -/
def holdsPlace (l : Launch) : Bool := l.phase != .done && decide (l.admitted < l.groups)

/-- Whether a launch of a queue has groups not admitted. -/
def queueBusy (s : State) (q : Nat) : Bool := s.launches.any fun e => e.2.queue == q && e.2.pkt.kind == 1 && holdsPlace e.2

/-- A dispatcher takes the next packet of a queue and checks it (R203, R209, R216, R407). The next is taken when the
launch before it has left the queue. Poison in what it reads stops it with a record of requester 4 (R330, R414). -/
def State.takePacket (s0 : State) (cluster q : Nat) : State :=
  if q ≥ queueCount ∨ !queueOn s0 q ∨ queueCluster s0 q ≠ cluster then s0
  else
    let s1 := s0.wakeQueue q
    if !queueOn s1 q ∨ wrIdx s1 q = rdIdx s1 q ∨ queueBusy s1 q then s1
    else
      let slot := rdIdx s1 q
      let raw := memNat s1.mem (slotPa s1 q slot) 128
      let ctx := ctxVals s1 q
      let p := packetOf raw
      let reads := packetReads s1 q slot ctx raw
      let s := s1.sawPlaces s1 reads.2 reads.1
      let n := s.fresh
      match poisonFault s1 none reads.1 with
      | some e => n.2.stopLaunch { id := n.1, queue := q, cluster := cluster, slotPa := slotPa s1 q slot, pkt := { kind := 1 }, groups := 1, phase := .taking } e
      | none =>
      let l : Launch := { id := n.1, queue := q, cluster := cluster, slotPa := slotPa s q slot, pkt := p, ctx := ctx,
                          groups := if p.kind = 2 then 0 else groupCount p, since := s.chip.cycles }
      let bad7 := cplBad s ctx raw
      let form := if p.kind = 2 then headerBad s ctx raw else tileBad raw true
      let early := match form with | some r => if r < 7 then some r else none | none => none
      let late := decide (p.mode = 1) && decide (p.kind = 1) && p.depmask != 0 && decide (s.regs.tsc > p.depmask.toNat)
      let bad := early.or (if bad7 then some 7 else form.or (if late then some 9 else if placementBad s cluster p then some 10 else none))
      match bad with
      | some r => ((n.2.failPacket { l with groups := 0 } r bad7 slot)).leaveQueue q
      | none =>
        if p.kind = 2 then
          let members := ((graphMembers s ctx raw).getD []).zipIdx
          let opens := !(p.serial && earlierRuns s q n.1)
          let s1 := addMembers opens n.1 q cluster slot ctx members (n.2.setLaunch n.1 (if opens then { l with phase := .candidate } else l))
          if queueBusy s1 q then s1 else s1.leaveQueue q
        else if p.serial ∧ earlierRuns s q n.1 then n.2.setLaunch n.1 l
        else n.2.setLaunch n.1 { l with phase := .candidate }

/-- A member of a graph becomes a candidate when every predecessor has completed (R216). -/
def State.memberReady (s : State) (id : Nat) : State :=
  match mapGet id s.launches with
  | none => s
  | some l =>
    match l.parent with
    | none => s
    | some (h, _) =>
      if l.phase = .waiting ∧ (s.launch h).phase ≠ .waiting ∧ s.launches.all (fun e => match e.2.parent with
          | some (g, j) => g != h || !l.pkt.depmask.getLsbD j || e.2.phase == .done
          | none => true) then
        s.setLaunch id { l with phase := .candidate, since := s.chip.cycles }
      else s

/-- Whether stores of a launch to an aperture are not yet visible at its SCOPE, the system's (R206, R396). -/
def launchStores (s : State) (l : Launch) : Bool :=
  l.pkt.scope == 3 && s.nets.outside.any fun o =>
    (o.store.isSome || o.atomic.isSome) && (o.src.launch == l.id || (match (s.launch o.src.launch).parent with
      | some (h, _) => h == l.id
      | none => false))

/-- A launch completes (R206, R216, R341, R400): its completion word, or a record where the write fails. -/
def State.completeLaunch (s : State) (id : Nat) : State :=
  match mapGet id s.launches with
  | none => s
  | some l =>
    let ended := if l.pkt.kind = 2 then membersDone s id else decide (l.admitted = l.groups) && decide (l.finished = l.groups)
    if l.phase ≠ .candidate ∨ !ended ∨ l.stopped.isSome ∨ launchStores s l then s
    else
      match cplWrite s l (l.fail.getD l.pkt.cplval) with
      | .error e => s.stopLaunch l e
      | .ok s1 => s1.launchDone id

-- Admission (R209 to R212). --------------------------------------------------------------------------------------

/-- The budget level of a die (R211, R418). -/
def budgetOf (s : State) (die : Nat) : Nat := bitsOf (s.regs.pwr[die]?.getD 0).toNat 32 3

/-- Whether the next group of a launch is admissible (R211, R217, R400). -/
def admissible (s : State) (l : Launch) : Bool :=
  if l.pkt.mode = 1 then
    let k := (l.cluster + l.admitted) % 64
    (!s.regs.cgctl.getLsbD 8 || s.regs.cgstat.getLsbD 0) &&
      (List.range l.pkt.gsize).all fun i => (List.range 4).all fun sl => (s.task (taskKey (8 * k + i) sl)).isNone
  else
    decide (l.pkt.eclass ≤ budgetOf s (l.cluster / 8)) ||
      (l.pkt.starve != 0 && decide (s.chip.cycles - l.since > l.pkt.starve * 1024))

/-- The candidate of a queue (R209): its oldest launch with groups not admitted, where it is a candidate. Members of a
graph come in member order. -/
def candidateOf (s : State) (q : Nat) : Option Launch :=
  (s.launches.find? fun e => e.2.queue == q && e.2.pkt.kind == 1 && e.2.phase == .candidate && holdsPlace e.2).map (·.2)

/-- Queues of a dispatcher that have a candidate. -/
def candidateQueues (s : State) (cluster : Nat) : List Nat :=
  (s.launches.filterMap fun e =>
    if e.2.cluster == cluster && e.2.phase == .candidate && holdsPlace e.2 && e.2.pkt.kind == 1 then some e.2.queue else none).eraseDups

/-- The priority a dispatcher serves: the highest among candidates with an admissible group (R210, R223). -/
def servedPrio (s : State) (qs : List Nat) : Option Nat :=
  (qs.filterMap fun q => match candidateOf s q with | some l => if admissible s l then some l.pkt.prio else none | none => none).max?

/-- The queue whose turn it is: the next in increasing number after the one served last, cyclically (R210). -/
def nextQueue (last : Option Nat) (qs : List Nat) : Option Nat :=
  let up := match last with | some x => (qs.filter fun q => decide (q > x)).min? | none => none
  up.or qs.min?

/-- A group of a launch admitted (R205, R209, R217): into the ready list of its cluster. -/
def State.admitGroup (s : State) (l : Launch) : State :=
  let n := s.fresh
  let k := if l.pkt.mode = 1 then (l.cluster + l.admitted) % 64 else l.cluster
  let g : Group := { gid := n.1, launch := l.id, index := l.admitted, cluster := k }
  let s1 := ((n.2.setGroup n.1 g).updCluster k fun c => { c with waiting := c.waiting ++ [n.1] }).setLaunch l.id
    { l with admitted := l.admitted + 1 }
  if l.admitted + 1 = l.groups ∧ !queueBusy s1 l.queue then s1.leaveQueue l.queue else s1

/-- Groups of the candidates of a queue admitted while its deficit lasts (R210): where one launch has left the queue, the next
packet of this priority is the candidate (R209). Each round admits a group, takes a packet or ends the turn. -/
def admitLoop (cluster q prio : Nat) : Nat → State → State
  | 0, s => s
  | n + 1, s =>
    let d := (mapGet q (s.cluster cluster).deficits).getD 0
    match candidateOf s q with
    | none =>
      let s1 := s.takePacket cluster q
      if (candidateOf s1 q).isSome ∨ rdIdx s1 q ≠ rdIdx s q then admitLoop cluster q prio n s1 else s1
    | some l =>
      let e := l.pkt.ext.getD 0 1
      if l.pkt.prio = prio ∧ admissible s l ∧ e ≤ d then
        admitLoop cluster q prio n ((s.admitGroup l).updCluster cluster fun c => { c with deficits := mapSet q (d - e) c.deficits })
      else s

/-- One queue's turn of the deficit round-robin of a dispatcher (R210). -/
def State.admitNext (s : State) (cluster : Nat) : State :=
  let qs := candidateQueues s cluster
  match servedPrio s qs with
  | none => s
  | some p =>
    let same := qs.filter fun q => match candidateOf s q with | some l => l.pkt.prio == p | none => false
    match nextQueue (s.cluster cluster).last same with
    | none => s
    | some q =>
      let s1 := s.updCluster cluster fun c =>
        { c with last := some q, deficits := mapSet q ((mapGet q c.deficits).getD 0 + 32 * queueWeight s q) c.deficits }
      let d := (mapGet q (s1.cluster cluster).deficits).getD 0
      let s2 := admitLoop cluster q p (2 * (d + (wrIdx s q + 2 ^ 64 - rdIdx s q) % 2 ^ 64) + 4) s1
      if (candidateOf s2 q).isNone then s2.updCluster cluster fun c => { c with deficits := mapSet q 0 c.deficits } else s2

/-- The distance of two clusters of a die in the mesh, a torus of eight columns (R212, R385). -/
def meshDistance (a b : Nat) : Nat := let d := (a % 8 + 8 - b % 8) % 8; min d (8 - d)

/-- Admitted groups of a cluster that may be taken from it: free mode, no started task (R212, R217). -/
def stealable (s : State) (k : Nat) : Option Nat :=
  (s.cluster k).waiting.find? fun g => (s.launch (s.group g).launch).pkt.mode == 0

/-- Whether a core of a cluster has a free resident context. -/
def hasFreeContext (s : State) (k : Nat) : Bool :=
  (List.range 8).any fun i => (List.range 4).any fun sl => (s.task (taskKey (8 * k + i) sl)).isNone && !(s.core (8 * k + i)).fenced

/-- A dispatcher without an admissible group takes one from the nearest cluster of its die (R212). -/
def State.steal (s : State) (cluster victim : Nat) : State :=
  let mates := (List.range 8).map fun i => cluster / 8 * 8 + i
  let rich := mates.filter fun k => k != cluster && (stealable s k).isSome
  let best := rich.foldl (fun (a : Option Nat) k => match a with
    | none => some k
    | some x => if meshDistance cluster k < meshDistance cluster x then some k else a) none
  if best ≠ some victim ∨ (servedPrio s (candidateQueues s cluster)).isSome ∨ (s.cluster cluster).waiting ≠ [] ∨
      !hasFreeContext s cluster then s
  else
    match stealable s victim with
    | none => s
    | some g =>
      ((s.updCluster victim fun c => { c with waiting := c.waiting.erase g }).updCluster cluster fun c =>
        { c with waiting := c.waiting ++ [g] }).updGroup g fun x => { x with cluster := cluster }

-- Starting a group (R204, R205, R217, R225, R231, R400, R405). ----------------------------------------------------

/-- The reservations in the near store of a core: base and bytes. -/
def nearHeld (s : State) (core : Nat) : List (Nat × Nat) :=
  s.groups.filterMap fun e => (mapGet core e.2.nsBase).map fun b => (b, nearSize s e.1 core)

/-- The lowest 1 KiB boundary at which `n` bytes of a core's near store are free (R205; which boundary: log entry 24). -/
def nearFit (s : State) (core n : Nat) : Option Nat :=
  ((List.range 257).map (· * 1024)).find? fun b =>
    decide (b + n ≤ 0x40000) && (nearHeld s core).all fun r => n == 0 || r.2 == 0 || !meet b n r.1 r.2

/-- Entries of the physical vector file of a core that its tasks hold (R28). -/
def vectorsHeld (s : State) (core : Nat) : Nat :=
  (List.range 4).foldl (fun a sl => a + (match s.task (taskKey core sl) with | some t => t.vcnt | none => 0)) 0

/-- Barriers reserved on a core: each core has 512 (R205, R231; log entry 24). -/
def barriersHeld (s : State) (core : Nat) : Nat :=
  s.groups.foldl (fun a e => a + (if e.2.cores.head? = some core then e.2.barriers.length else 0)) 0

/-- Banks of a cluster store that no group holds and that are not fenced. -/
def freeBanks (s : State) (k : Nat) : List Nat :=
  (List.range 32).filter fun b => let x := (s.cluster k).banks[b]?.getD {}; x.owner.isNone && !x.fenced

/-- Whether a group fits with its tasks at given cores and slots (R205, R217, R225, R344). -/
def groupFits (s : State) (g : Group) (p : Packet) (cores slots : List Nat) : Bool :=
  let n := p.ext.getD 0 0
  let spots := cores.zip slots
  let other (c : Nat) : Bool := (List.range 4).any fun sl => (s.task (taskKey c sl)).isSome
  cores.length == n && slots.length == n && spots.Nodup &&
    spots.all (fun q => decide (q.1 / 8 = g.cluster) && decide (q.2 < 4) && (s.task (taskKey q.1 q.2)).isNone &&
      !(s.core q.1).fenced && ((s.core q.1).serves == none || (s.core q.1).serves == some g.launch) &&
      !(s.gone.any fun x => x.core == q.1 && x.marked) &&
      decide (vectorsHeld s q.1 + p.vcnt * (cores.count q.1) ≤ 192) && (nearFit s q.1 (p.nsb * 1024)).isSome &&
      (p.mode == 1 || !((List.range 4).any fun sl => match s.task (taskKey q.1 sl) with | some t => s.cadenced t | none => false))) &&
    decide (p.csn ≤ (freeBanks s g.cluster).length) &&
    decide (barriersHeld s (cores.getD 0 0) + p.bars ≤ 512) &&
    (p.mode == 0 || (cores == (List.range n).map (8 * g.cluster + ·) && cores.all fun c => !other c))

/-- Index of group `G` in each field above field 0, put into the identifier (R200, R201). -/
def widOf (p : Packet) (i0 index : Nat) : Nat :=
  ((List.range 5).foldl (fun (a : Nat × Nat × Nat) f =>
    let e := if p.ext.getD (f + 1) 0 = 0 then 1 else p.ext.getD (f + 1) 0
    let o := a.2.1 + p.fw.getD f 0
    (a.1 + a.2.2 % e * 2 ^ o, o, a.2.2 / e)) (i0, 0, index)).1

/-- A task before its first bundle (R5, R204, R405). -/
def newTask (uid : Nat) (l : Launch) (g : Group) (i0 core slot : Nat) : Task :=
  let arg (i : Nat) : W64 := if i < l.pkt.narg then l.pkt.args.getD i 0 else 0
  let regs := (List.range 5).foldl (fun (v : Vector W64 48) i => v.setIfInBounds (i + 1) (arg i)) (Vector.replicate 48 0)
  { uid := uid, gid := g.gid, launch := l.id, i0 := i0, wid := BitVec.ofNat 64 (widOf l.pkt i0 g.index),
    vcnt := l.pkt.vcnt, code := l.pkt.code, entry := some l.pkt.entry, wtexp := l.pkt.wtexp, g := regs,
    troot := l.ctx.troot &&& crNamed 0x20, tasid := l.ctx.tasid &&& crNamed 0x21, tvec := l.ctx.tvec &&& crNamed 0x24,
    deleg := l.ctx.deleg &&& delegMask,
    saveptr := (l.ctx.savebase + BitVec.ofNat 64 (0x50000 * (4 * core + slot))) &&& crNamed 0x25 }

/-- A core begins to serve a launch when it held no resident task: its flags are cleared (R225). -/
def Core.serve (c : Core) (launch : Nat) : Core :=
  if c.serves.isSome then c else { c with serves := some launch, flags := Vector.replicate 32 {}, waiters := [] }

/-- The tasks of a group made resident. -/
def placeTasks (l : Launch) (g : Group) : List (Nat × Nat) → Nat → State → State
  | [], _, s => s
  | (c, sl) :: r, i, s =>
    let n := s.fresh
    placeTasks l g r (i + 1) ((n.2.setTask (taskKey c sl) (newTask n.1 l g i c sl)).updCore c fun k => k.serve l.id)

/-- Near-store reservations of a group on its cores. -/
def reserveNear (s : State) (n : Nat) : List Nat → List (Nat × Nat)
  | [] => []
  | c :: l =>
    let r := reserveNear s n l
    match nearFit s c n with
    | some b => mapSet c b r
    | none => r

/-- Banks of a cluster taken by a group in their modes; a scratchpad or FIFO bank starts with zero bytes (R205, R253). -/
def takeBanks (gid k : Nat) (modes : Nat) : List Nat → Nat → State → State
  | [], _, s => s
  | b :: l, i, s =>
    let m := bitsOf modes (2 * i) 2
    let s1 := s.updCluster k fun c =>
      { c with banks := c.banks.setIfInBounds b { (c.banks[b]?.getD {}) with owner := some gid, mode := m, head := 0, tail := 0 } }
    takeBanks gid k modes l (i + 1) (if m = 0 then s1 else s1.withMem (memZero (bankPa k b) 0x20000 s1.mem))

/-- The start step of a launch; 0 where it has none (R400). -/
def startStep (l : Launch) : Nat := if l.pkt.mode = 1 ∧ l.parent.isNone then l.pkt.depmask.toNat else 0

/-- The lead of a gang issues its first bundle: at the start step, which is then the origin, or at once where there is none
(R400); without a start step the origin is set again as that bundle is fetched (R221). -/
def State.startGang (s : State) (gid : Nat) : State :=
  let g := s.group gid
  let l := s.launch g.launch
  let start := startStep l
  if issueStops s ∨ l.pkt.mode ≠ 1 ∨ g.phase ≠ .started ∨ g.origin.isSome ∨ s.regs.tsc < start then s
  else s.setGroup gid { g with origin := some (if start = 0 then s.regs.tsc else start) }

/-- The gangs whose start step has come issue their first bundles before anything else (R400); where a bubble begins at that step,
after it (R397). -/
def State.startSteps (s : State) : State :=
  let due := s.groups.filter fun e =>
    let n := startStep (s.launch e.2.launch)
    !issueStops s && e.2.phase == .started && e.2.origin.isNone && n != 0 && decide (n ≤ s.regs.tsc)
  let s1 := due.foldl (fun (x : State) e => x.startGang e.1) s
  { s1 with agenda := (due.map fun e => Turn.issue (8 * e.2.cluster)) ++ s1.agenda }

/-- The time-step counter stands at a new step: the pause of a bubble of the cadence group whose start it has reached begins
(R399), else the gangs that start there issue (R400). -/
def State.stepReached (s : State) : State :=
  if s.chip.bubble ≠ 0 then s
  else
    match s.chip.bubbles.find? fun b => decide (b.1 ≤ s.regs.tsc) with
    | some b => s.withChip { s.chip with bubble := b.2, bubbles := s.chip.bubbles.erase b }
    | none => s.startSteps

/-- A cadenced launch whose start step has passed runs no further group (R400). -/
def State.lateLaunch (s : State) (l : Launch) : State :=
  let mine (g : Nat) : Bool := (s.group g).launch == l.id
  let s1 := s.withClusters (s.clusters.map fun e => (e.1, { e.2 with waiting := e.2.waiting.filter fun g => !mine g }))
  let run := (s.groups.filter fun e => e.2.launch == l.id && e.2.phase != .admitted).length
  let s2 := s1.withGroups (s1.groups.filter fun e => !(e.2.launch == l.id && e.2.phase == .admitted))
  let s3 := s2.setLaunch l.id { l with groups := run, admitted := run, fail := some (failWord 9) }
  if l.admitted < l.groups ∧ !queueBusy s3 l.queue then s3.leaveQueue l.queue else s3

/-- Whether the reservations of a group can ever fit in a cluster (R223): its banks, its tasks and their vector entries, of a gang
its cores. -/
def everFits (s : State) (k : Nat) (p : Packet) : Bool :=
  let cores := (List.range 8).filter fun i => !(s.core (8 * k + i)).fenced
  decide (p.csn ≤ ((s.cluster k).banks.toList.filter fun b => !b.fenced).length) &&
    (if p.mode = 1 then (List.range p.gsize).all cores.contains
     else decide (p.ext.getD 0 0 ≤ cores.length * min 4 (192 / p.vcnt)))

/-- The first admitted group of a cluster that can ever fit starts with its tasks at given cores and slots, where it fits (R205,
R223). A gang that becomes ready at its start step issues there (R400). -/
def State.startGroup (s : State) (cluster : Nat) (cores slots : List Nat) : State :=
  match (s.cluster cluster).waiting.find? fun g => everFits s cluster (s.launch (s.group g).launch).pkt with
  | none => s
  | some gid =>
    let rest := (s.cluster cluster).waiting.erase gid
    let g := s.group gid
    let l := s.launch g.launch
    let start := startStep l
    if !groupFits s g l.pkt cores slots then s
    else if start ≠ 0 ∧ s.regs.tsc > start then s.lateLaunch l
    else
      let banks := (freeBanks s cluster).take l.pkt.csn
      let n := l.pkt.ext.getD 0 0
      let g1 : Group := { g with phase := .started, cores := cores, nsBase := reserveNear s (l.pkt.nsb * 1024) cores.eraseDups,
                                 banks := banks, barriers := List.replicate l.pkt.bars { target := n }, csmode := l.pkt.csmode,
                                 alive := n }
      let s1 := (s.updCluster cluster fun c => { c with waiting := rest }).setGroup gid g1
      let s2 := placeTasks l g1 (cores.zip slots) 0 (takeBanks gid cluster l.pkt.csmode.toNat banks 0 s1)
      if start ≠ 0 then s2.startSteps else s2

-- The end of a task and of a group (R101, R205, R225, R341). -------------------------------------------------------

/-- A core that holds no resident task serves no launch (R225). -/
def State.unserve (s : State) (core : Nat) : State :=
  if ((List.range 4).all fun sl => (s.task (taskKey core sl)).isNone) then s.updCore core fun c => { c with serves := none }
  else s

/-- A context slot is freed: of the task's core resources the history store and its place among the waiters go. -/
def State.freeSlot (s : State) (core slot : Nat) : State :=
  ((s.dropTask (taskKey core slot)).updCore core fun c =>
    let c1 := c.dropWaiter slot
    let c2 := if c1.histOwner = some slot then { c1 with histOwner := none } else c1
    if c2.running = some slot then c2.switch else c2).unserve core

/-- A task ends (R101, R205). -/
def State.endTask (s : State) (core slot : Nat) : State :=
  match s.task (taskKey core slot) with
  | none => s
  | some t => (s.freeSlot core slot).updGroup t.gid fun g => { g with alive := g.alive - 1 }

/-- The unstarted commands of a task removed from a channel: all, or those of a tag (R321). -/
def Channel.cancel (c : Channel) (uid : Nat) (tag : Nat) (all : Bool) : Channel :=
  { c with queue := c.queue.filter fun x => !(x.uid == uid && (all || tagOf x.desc == tag)) }

/-- A task is terminated (R341). -/
def State.terminate (s : State) (core slot : Nat) : State :=
  match s.task (taskKey core slot) with
  | none => s
  | some t =>
    (((s.updCore core fun c => { c with ch := c.ch.map fun h => h.cancel t.uid 0 true }).endTask core slot).updLaunch t.launch
      fun l => { l with fail := some (failWord 0x20) })

/-- Whether engine commands of a group are queued or under way (R205). -/
def commandsOf (s : State) (gid : Nat) : Bool :=
  s.cores.any fun e => e.2.ch.toList.any fun h => h.queue.any (fun c => c.gid == gid) || h.active.any fun a => a.cmd.gid == gid

/-- The fences asked for, of cores and banks that a group needs, that wait for the completion of its launch (R218). -/
def fencesHeld (s : State) (g : Group) : List (UnitFence × Nat) :=
  let p := (s.launch g.launch).pkt
  let left := ((s.cluster g.cluster).banks.toList.filter fun x => !x.fenced).length
  if p.mode ≠ 1 then []
  else s.chip.fencing.filterMap fun u =>
    let core := decide (u.code = 3) && decide (u.num / 8 = g.cluster) && decide (u.num % 8 < p.gsize)
    let bank := decide (u.code = 4) && decide (u.num / 32 = g.cluster) && (g.banks.contains (u.num % 32) || decide (left ≤ p.csn))
    if core || bank then some (u, g.launch) else none

/-- A group's reservations are released (R205). A fence that its cadenced launch has kept off waits until that launch is complete
(R218). -/
def State.releaseGroup (s : State) (gid : Nat) : State :=
  match mapGet gid s.groups with
  | none => s
  | some g =>
    if g.phase ≠ .started ∨ g.alive ≠ 0 ∨ commandsOf s gid then s
    else
      let give (b : BankSt) : BankSt := if b.owner = some gid then { b with owner := none, mode := 0, head := 0, tail := 0 } else b
      let s0 := s.withChip { s.chip with fenceHold := s.chip.fenceHold ++ fencesHeld s g }
      let s1 := s0.updCluster g.cluster fun c => { c with banks := c.banks.map give }
      (s1.setGroup gid { g with phase := .finished, cores := [], nsBase := [], banks := [], barriers := [], sched := [] }).updLaunch
        g.launch fun l => { l with finished := l.finished + 1 }

end Sys2Proof.Machine
end

