-- ==== Sys2Proof/Machine/Image.lean ====
section
/-! DEFINITION. The context image: its layout, saving and loading it, pre-emption, the spill area, REPLAY (19 R340 to R349,
R352, R353). -/

namespace Sys2Proof.Machine

-- Writing an image (R345 to R347). -------------------------------------------------------------------------------

/-- A number laid out from fields: offset and content. -/
def layout (l : List (Nat × Nat)) : Nat := l.foldl (fun a p => a + p.2 * 256 ^ p.1) 0

/-- A file of registers of `e` bytes, one after the other. -/
def layoutFile (e : Nat) (l : List Nat) : Nat := layout (l.zipIdx.map fun p => (e * p.2, p.1))

/-- The bank numbers a task holds. -/
def Task.banks (t : Task) : List Nat := (List.range 64).filter t.holds

/-- The code of a register file in an image (R347). -/
def fileCode : RegFile → Nat
  | .g => 0 | .v => 1 | .k => 2 | .c => 3 | _ => 0

/-- A pending-write entry (R347). -/
def pendEntry (p : Pend) (order : Nat) : Nat :=
  layout [(0, fileCode p.file), (1, p.reg), (2, p.left), (3, order), (0x20, p.mask.toNat), (0x40, p.val.toNat)]

/-- A command entry (R347). -/
def cmdEntry (ch : Nat) (c : Cmd) : Nat :=
  let f := c.follow.getD {}
  layout [(0, c.desc.toNat), (0x40, c.bop.toNat), (0x48, c.op), (0x49, ch), (0x4A, c.bank), (0x50, f.ga.toNat),
    (0x58, f.gb.toNat), (0x60, f.sel)]

/-- A loop level (R345). -/
def loopEntry (l : Loop) : Nat := layout [(0, l.start.toNat), (8, l.stop.toNat), (16, l.left)]

/-- A ring descriptor (R345). -/
def ringImage (r : Ring) : Nat := layout [(0, r.base), (8, r.size), (10, r.count), (12, r.head), (14, r.full)]

/-- A stream descriptor (R345). -/
def streamImage (z : Stream) : Nat :=
  layout [(0, z.base), (8, z.size), (12, z.head), (16, z.present), (20, if z.closed then 1 else 0)]

/-- The code of a solve state (R183). -/
def slvCode : SlvCode → Nat
  | .idle => 0 | .ready => 1 | .opened => 2 | .looping => 3

/-- The solve state of an image (R345). -/
def solveImage (v : Solve) : Nat :=
  layout [(0, slvCode v.code), (4, v.p), (8, v.kk), (12, v.k), (16, v.norm.toNat), (24, v.start.toNat), (32, v.tau.toNat),
    (40, v.ctl.toNat), (48, v.mix.toNat)]

/-- NB of a solve's control word, as a count (R186). -/
def solveBanks (v : Solve) : Nat := bitsOf v.ctl.toNat 6 2 + 1
/-- M of a solve's control word (R186). -/
def solveDepth (v : Solve) : Nat := bitsOf v.ctl.toNat 8 4
/-- FIRST of a solve's control word (R186). -/
def solveFirst (v : Solve) : Nat := bitsOf v.ctl.toNat 0 6
/-- Banks of the history store in use (R185). -/
def solveColumns (v : Solve) : Nat := if v.code = .idle then 0 else 2 * (solveDepth v + 1) * solveBanks v

/-- The tag of the launch and group of a task (R346). -/
def launchTag (t : Task) : Nat := t.launch % 2 ^ 32 * 2 ^ 32 + t.gid % 2 ^ 32

/-- The header of an image (R346): `st` is STATE, `pc` the resume address. -/
def headerImage (t : Task) (core slot st : Nat) (pc : W64) (pend : List Pend) (loops : List Loop) (n0 n1 : Nat) (rec : Rec) : Nat :=
  layout [(0, 0x43585431), (4, 1), (6, st), (7, slot), (8, pc.toNat), (0x10, t.estat.toNat), (0x18, t.wid.toNat),
    (0x20, launchTag t), (0x28, core), (0x2A, t.vcnt), (0x2B, pend.length), (0x2C, loops.length), (0x2D, n0), (0x2E, n1),
    (0x30, (t.banks.map (2 ^ ·)).foldl (· + ·) 0), (0x40, rec.w0.toNat), (0x48, rec.w1.toNat), (0x50, rec.w2.toNat),
    (0x58, rec.w3.toNat), (0x60, t.tvec.toNat), (0x68, t.saveptr.toNat), (0x70, t.deleg.toNat), (0x78, t.troot.toNat),
    (0x80, t.tasid.toNat), (0x88, t.asw.toNat), (0x90, t.c.toNat),
    (0x91, ((List.range 8).map fun i => if (t.tReg i).valid then 2 ^ i else 0).foldl (· + ·) 0),
    (0x98, layoutFile 8 ((List.range 8).map fun i => (t.tReg i).addr.toNat))]

/-- The parts of an image (R345): offset, bytes, content. -/
def imageParts (t : Task) (core slot st : Nat) (pc : W64) (pend : List Pend) (loops : List Loop)
    (cmds : List (Nat × Cmd)) (rec : Rec) (hist : Vector Bank 64) : List (Nat × Nat × Nat) :=
  let scl := t.scl.getLast?.getD sclStart
  let n (h : Nat) : Nat := (cmds.filter fun c => c.1 == h).length
  [(0, 256, headerImage t core slot st pc pend loops (n 0) (n 1) rec),
   (0x100, 384, layoutFile 8 (t.g.toList.map (·.toNat))),
   (0x280, 512, layoutFile 32 ((List.range 16).map fun i => (t.kReg i).toNat)),
   (0x480, 128, layoutFile 32 (loops.map loopEntry)),
   (0x500, 256, layoutFile 32 (t.q.toList.map (·.toNat))),
   (0x600, 512, scl.rows.toNat + scl.cols.toNat * 256 ^ 0x60),
   (0x800, 256, layoutFile 16 (t.n.toList.map ringImage)),
   (0x900, 512, layoutFile 32 (t.z.toList.map streamImage)),
   (0xB00, 64, layoutFile 8 (t.chst.toList.map (·.toNat))),
   (0xB40, 192, solveImage t.slv),
   (0xC00, 1024, layoutFile 64 (t.y.toList.map fun y => match y with | some d => d.toNat | none => 0)),
   (0x6400, 12288, layoutFile 256 (t.v.toList.zipIdx.map fun p => if p.2 < t.vcnt then p.1.toNat else 0)),
   (0x9400, 3072, 0)] ++
  pend.zipIdx.map (fun p => (0x1000 + 320 * p.2, 320, pendEntry p.1 p.2)) ++
  cmds.zipIdx.map (fun p => (0x2400 + 256 * p.2, 256, cmdEntry p.1.1 p.1.2)) ++
  t.banks.map (fun b => (0xA000 + 2048 * b, 2048, (t.bank b).toNat)) ++
  (List.range (solveColumns t.slv)).map (fun i => (0x2A000 + 2048 * i, 2048, (hist[i]?.getD 0).toNat))

/-- The context in which an image is written and read: supervisor accesses through the task's translation (R348, R353), which
reach the regions of R247 by no load or store class. -/
def imageCtx (core : Nat) (t : Task) : Ctx := { slotCtx core t with sup := true, slotL := false }

/-- The places of the parts of an image with the walks that they leave cached, or the first fault, the lowest part first. -/
def placeParts (s : State) (c : Ctx) (acc : Acc) (va : W64) : List (Nat × Nat × Nat) →
    Except TrapInfo (List (List (Nat × Nat × W64) × Nat) × List TlbEntry)
  | [] => .ok ([], [])
  | (o, n, v) :: l =>
    match placeAll s c acc (piecesOf (va + BitVec.ofNat 64 o) n) with
    | .error e => .error e
    | .ok q =>
      match placeParts s c acc va l with
      | .error e => .error { e with fills := q.2 ++ e.fills }
      | .ok r => .ok ((q.1, v) :: r.1, q.2 ++ r.2)

/-- An image written, or the fault that stops it before anything is written (R348). -/
def State.writeImage (s : State) (core : Nat) (t : Task) (va : W64) (parts : List (Nat × Nat × Nat)) : Except TrapInfo State :=
  match placeParts s (imageCtx core t) .write va parts with
  | .error e => .error e
  | .ok l =>
    .ok (l.1.foldl (fun (x : State) p => writePieces x (some core) t.source (p.1.map fun q => (q.1, q.2.1)) p.2) (s.cacheFills l.2))

-- Reading an image (R353). ---------------------------------------------------------------------------------------

/-- The content of the part of an image that holds offset `o`, from there on `n` bytes. -/
def partField (parts : List (Nat × Nat × Nat)) (o n : Nat) : Nat :=
  match parts.find? fun p => decide (p.1 ≤ o) && decide (o + n ≤ p.1 + p.2.1) with
  | some p => p.2.2 / 256 ^ (o - p.1) % 256 ^ n
  | none => 0

/-- The parts an image has by its header (R345): offset and bytes. -/
def partsOf (h : Nat) (slv : Nat) : List (Nat × Nat) :=
  let f (o n : Nat) : Nat := bitsOf h (8 * o) (8 * n)
  let ctl := bitsOf slv (8 * 40) 64
  let cols := if bitsOf slv 0 8 = 0 then 0 else 2 * (bitsOf ctl 8 4 + 1) * (bitsOf ctl 6 2 + 1)
  [(0, 256), (0x100, 384), (0x280, 512), (0x480, 128), (0x500, 256), (0x600, 512), (0x800, 256), (0x900, 512), (0xB00, 64),
   (0xB40, 192), (0xC00, 1024), (0x6400, 12288)] ++
  (List.range (f 0x2B 1)).map (fun i => (0x1000 + 320 * i, 320)) ++
  (List.range (f 0x2D 1 + f 0x2E 1)).map (fun i => (0x2400 + 256 * i, 256)) ++
  ((List.range 64).filter fun b => bitsOf (f 0x30 8) b 1 == 1).map (fun b => (0xA000 + 2048 * b, 2048)) ++
  (List.range (min cols 64)).map (fun i => (0x2A000 + 2048 * i, 2048))

/-- Parts read at an address, or the first fault. -/
def readParts (s : State) (c : Ctx) (answers : List (Nat × Nat)) (va : W64) : List (Nat × Nat) → Except TrapInfo ImageRead
  | [] => .ok {}
  | (o, n) :: l =>
    match placeAll s c .read (piecesOf (va + BitVec.ofNat 64 o) n) with
    | .error e => .error e
    | .ok q =>
      match (peerFault s (some va) q.1).or (poisonFault s (some va) q.1) with
      | some e => .error { e with fills := q.2 }
      | none =>
        match readParts s c answers va l with
        | .error e => .error { e with fills := q.2 ++ e.fills }
        | .ok r =>
          .ok { parts := (o, n, readPlaced s answers q.1) :: r.parts, needs := needPlaced s answers q.1 ++ r.needs,
                reads := q.1 ++ r.reads, fills := q.2 ++ r.fills }

/-- Whether MAGIC, VERSION, STATE, counts or reserved bytes of a header are invalid (R346, R353 reason 0x07). -/
def headerInvalid (h : Nat) : Bool :=
  let f (o n : Nat) : Nat := bitsOf h (8 * o) (8 * n)
  f 0 4 != 0x43585431 || f 4 2 != 1 || decide (f 6 1 > 2) || !([16, 24, 32, 48].contains (f 0x2A 1)) ||
    decide (f 0x2B 1 > 16) || decide (f 0x2C 1 > 4) || decide (f 0x2D 1 > 32) || decide (f 0x2E 1 > 32) || f 0x2F 1 != 0 ||
    f 0x38 8 != 0 || f 0x92 6 != 0 || f 0xD8 40 != 0

/-- Whether reserved bytes of the pending writes or the commands of an image are not zero (R347, R353 reason 0x07). -/
def entriesInvalid (parts : List (Nat × Nat × Nat)) : Bool :=
  parts.any fun p =>
    (decide (0x1000 ≤ p.1) && decide (p.1 < 0x2400) && bitsOf p.2.2 32 224 != 0) ||
      (decide (0x2400 ≤ p.1) && decide (p.1 < 0x6400) && (bitsOf p.2.2 (8 * 0x4B) 40 != 0 || bitsOf p.2.2 (8 * 0xC0) 512 != 0))

/-- The parts of an image at an address: header and solve state first, then what they name (R345, R353). -/
def loadParts (s : State) (c : Ctx) (answers : List (Nat × Nat)) (va : W64) :
    Except TrapInfo ImageRead :=
  match readParts s c answers va [(0, 256), (0xB40, 192)] with
  | .error e => .error e
  | .ok r =>
    let h := partField r.parts 0 256
    if r.needs ≠ [] then .ok r
    else if headerInvalid h then .error { cause := .permission, word := 7, fills := r.fills }
    else
      match readParts s c answers va (partsOf h (partField r.parts 0xB40 192)) with
      | .error e => .error e
      | .ok q =>
        if q.needs = [] ∧ entriesInvalid q.parts then .error { cause := .permission, word := 7, fills := q.fills } else .ok q

/-- A pending write of an image; COUNT is read as at least 1.
Its MASK holds whole bytes, so a packed result keeps the digits of inactive elements as at issue (log entry 65). -/
def pendOf (x : Nat) : Pend :=
  { file := match bitsOf x 0 8 with | 0 => .g | 1 => .v | 2 => .k | _ => .c
    reg := bitsOf x 8 8, left := max 1 (bitsOf x 16 8), mask := BitVec.ofNat 256 (bitsOf x (8 * 0x20) 256),
    val := BitVec.ofNat 2048 (bitsOf x (8 * 0x40) 2048) }

/-- A solve state of an image. -/
def solveOf (x : Nat) : Solve :=
  let f (o n : Nat) : Nat := bitsOf x (8 * o) (8 * n)
  { code := match f 0 1 with | 0 => .idle | 1 => .ready | 2 => .opened | _ => .looping
    p := f 4 4, kk := f 8 4, k := f 12 4, norm := BitVec.ofNat 64 (f 16 8), start := BitVec.ofNat 64 (f 24 8),
    tau := BitVec.ofNat 64 (f 32 8), ctl := BitVec.ofNat 64 (f 40 8), mix := BitVec.ofNat 64 (f 48 8) }

/-- A ring of an image: nothing is in flight. -/
def ringOf (x : Nat) : Ring :=
  let f (o n : Nat) : Nat := bitsOf x (8 * o) (8 * n)
  { base := f 0 8, size := f 8 2, count := f 10 2, head := f 12 2, full := f 14 2,
    tail := if f 10 2 = 0 then 0 else (f 12 2 + f 14 2) % f 10 2 }

/-- A stream of an image. -/
def streamOf (x : Nat) : Stream :=
  let f (o n : Nat) : Nat := bitsOf x (8 * o) (8 * n)
  { base := f 0 8, size := f 8 4, head := f 12 4, present := f 16 4, closed := f 20 4 != 0 }

/-- A vector filled from a function. -/
def fill {α : Type} (n : Nat) (d : α) (f : Nat → α) : Vector α n :=
  (List.range n).foldl (fun (v : Vector α n) i => v.setIfInBounds i (f i)) (Vector.replicate n d)

/-- A command of an image (R347). -/
def cmdOf (t : Task) (core x : Nat) : Nat × Cmd :=
  let f (o n : Nat) : Nat := bitsOf x (8 * o) (8 * n)
  let bop := BitVec.ofNat 64 (f 0x40 8)
  (f 0x49 1 % 2,
   { desc := BitVec.ofNat 512 (f 0 64), bop := bop, op := f 0x48 1, bank := f 0x4A 1 % 64,
     follow := if f 0x48 1 = 0x4A then
         some { word := bop.toNat % 2 ^ 32, ga := BitVec.ofNat 64 (f 0x50 8), gb := BitVec.ofNat 64 (f 0x58 8), sel := f 0x60 96 }
       else none,
     uid := t.uid, gid := t.gid, i0 := t.i0, core := core, troot := t.troot, tasid := t.tasid, dva := 0, priv := t.sup })

/-- The image of parts, for the registers of a task that it replaces (R345 to R347).
The scales of an image count as old enough for every block of an E2M1 operation (log entry 65). -/
def imageOf (parts : List (Nat × Nat × Nat)) (core : Nat) (t : Task) : Image :=
  let p := partField parts
  let w (o : Nat) : W64 := BitVec.ofNat 64 (p o 8)
  let t1 : Task := { t with
    g := fill 48 0 fun i => w (0x100 + 8 * i)
    k := fill 16 0 fun i => BitVec.ofNat 256 (p (0x280 + 32 * i) 32)
    loops := (List.range (p 0x2C 1)).map fun i =>
      { start := w (0x480 + 32 * i), stop := w (0x488 + 32 * i), left := p (0x490 + 32 * i) 8 }
    q := fill 8 0 fun i => BitVec.ofNat 256 (p (0x500 + 32 * i) 32)
    scl := [{ since := 0, rows := BitVec.ofNat 768 (p 0x600 96), cols := BitVec.ofNat 1536 (p 0x660 192) }]
    n := fill 16 {} fun i => ringOf (p (0x800 + 16 * i) 16)
    z := fill 16 {} fun i => streamOf (p (0x900 + 32 * i) 32)
    chst := fill 2 0 fun i => w (0xB00 + 8 * i)
    slv := solveOf (p 0xB40 192)
    y := fill 16 none fun i => let d := p (0xC00 + 64 * i) 64; if d % 256 = 0 then none else some (BitVec.ofNat 512 d)
    pending := (List.range (p 0x2B 1)).map fun i => pendOf (p (0x1000 + 320 * i) 320)
    v := fill 48 0 fun i => BitVec.ofNat 2048 (p (0x6400 + 256 * i) 256)
    acc := fill 64 none fun b => if bitsOf (p 0x30 8) b 1 = 1 then some (BitVec.ofNat 16384 (p (0xA000 + 2048 * b) 2048)) else none
    vcnt := p 0x2A 1, wid := w 0x18, estat := w 0x10 &&& 7
    trec := { w0 := w 0x40, w1 := w 0x48, w2 := w 0x50, w3 := w 0x58 }
    tvec := w 0x60 &&& crNamed 0x24, saveptr := w 0x68 &&& crNamed 0x25, deleg := w 0x70 &&& delegMask
    troot := w 0x78 &&& crNamed 0x20, tasid := w 0x80 &&& crNamed 0x21, asw := aswMask (w 0x88)
    c := BitVec.ofNat 8 (p 0x90 1)
    t := fill 8 {} fun i => { addr := w (0x98 + 8 * i), valid := bitsOf (p 0x91 1) i 1 == 1 }
    atab := [], entry := none }
  { state := p 6 1, core := p 0x28 2, slot := p 7 1, tag := w 0x20, resume := w 8, task := t1,
    cmds := (List.range (p 0x2D 1 + p 0x2E 1)).map fun i => cmdOf t1 core (p (0x2400 + 256 * i) 256),
    columns := (List.range (min (solveColumns t1.slv) 64)).map fun i => (i, BitVec.ofNat 16384 (p (0x2A000 + 2048 * i) 2048)) }

/-- Columns put into a history store; the bytes beyond them read as zero (R185). -/
def histOf (l : List (Nat × Bank)) : Vector Bank 64 := fill 64 0 fun i => (mapGet i l).getD 0

-- Pre-emption (R342, R343, R348). --------------------------------------------------------------------------------

/-- Whether started commands of a task are under way (R343 step 1). -/
def transfersOf (s : State) (t : Task) : Bool :=
  (s.cores.any fun e => e.2.ch.toList.any fun h => h.active.any fun a => a.cmd.uid == t.uid)

/-- Unstarted commands of a task, channel 0 first. -/
def queuedOf (s : State) (core : Nat) (uid : Nat) : List (Nat × Cmd) :=
  (List.range 2).flatMap fun h => ((s.core core).chan h).queue.filterMap fun c => if c.uid == uid then some (h, c) else none

/-- What a task is in an image: STATE, resume address, pending writes, loops, record (R345, R346). -/
def imageFields (t : Task) : Nat × W64 × List Pend × List Loop × Rec :=
  match t.run with
  | .parked r _ => if t.inh then inHandler else (1, t.pc, t.pending, t.loops, r)
  | _ => if t.inh then inHandler else (0, t.pc, t.pending, t.loops, t.trec)
where inHandler : Nat × W64 × List Pend × List Loop × Rec :=
  let h := t.held.getD { pending := [], loops := [] }
  (2, t.epc, h.pending, h.loops, t.trec)

/-- A task marked for pre-emption (R342); a member of a gang brings the whole gang (R220). -/
def State.askPreempt (s : State) (core slot : Nat) : State :=
  match s.task (taskKey core slot) with
  | none => s
  | some t =>
    if s.cadenced t then
      s.withTasks (s.tasks.map fun e => if e.2.gid == t.gid then (e.1, { e.2 with preempt := true }) else e)
    else s.setTask (taskKey core slot) { t with preempt := true }

/-- A request of PREEMPT: one task, or every resident task of the core (R342). -/
def State.preemptRequest (s : State) (core slot : Nat) (all : Bool) : State :=
  if all then (List.range 4).foldl (fun (x : State) sl => x.askPreempt core sl) s else s.askPreempt core slot

/-- The waits at which a request takes a task at once: the switch points and those of R241 (R342). -/
def switchWait : Wait → Bool
  | .flag _ _ => true | .barrier _ _ => true | .stream _ _ => true | .history => true | .queueRoom _ => true
  | _ => false

/-- Whether a task stands at a save point (R342), which no atom of a loop's tier-1 translation crosses (R367, R381). -/
def atSavePoint (t : Task) : Bool :=
  match t.run with
  | .parked _ _ => true
  | .saving => false
  | .ready => match t.stall with | none => !inAtom t | some st => st.waits.any switchWait

/-- Whether a gang stops to be saved (R220, R342): a member that a request names stands at a save point, no member is in an atom
of a loop, and none waits for the value of an atomic that it has sent (R279, R367). -/
def gangSaves (s : State) (gid : Nat) : Bool :=
  let sent (t : Task) : Bool := match t.stall with | some st => st.waits.contains .atomicBack | none => false
  let l := s.tasksOf gid
  (l.any fun e => e.2.preempt && atSavePoint e.2) && l.all fun e => !inAtom e.2 && !sent e.2

/-- A save completes (R343 step 4): the slot is freed and the record with cause 0x00 is posted. -/
def State.saved (s : State) (core slot : Nat) (t : Task) (va resume : W64) (cmds : List (Nat × Cmd)) : State :=
  let g : Gone := { core := core, slot := slot, va := va, troot := t.troot, tasid := t.tasid, gid := t.gid, uid := t.uid,
                    cycle := match t.held with | some h => h.cycle | none => t.cycle
                    inner := if t.inh then some (t.pc, t.pending, t.loops) else none,
                    entry := t.entry, exposed := t.exposed, keepMode := t.keepMode,
                    tags := cmds.map fun c => (c.2.dva, c.2.seqNo, c.2.priv),
                    i0 := t.i0, n := t.n, z := t.z, vcnt := t.vcnt, banks := t.banks.length, hist := t.slv.code != .idle
                    parts := (match t.held with | some h => h.pending | none => t.pending).map fun (p : Pend) => p.part }
  let r := recordOf t.tasid.toNat core slot 0 0 { cause := .preempted } t.inh (s.cadenced t) false resume
  let s1 := s.updCore core fun c => { c with ch := c.ch.map fun h => h.cancel t.uid 0 true }
  let s2 := s1.freeSlot core slot
  ({ s2 with gone := s2.gone ++ [g] }).toFaultQueue { record := r, unit := core, slot := slot, req := 0 }

/-- The task parked with *save area fault*; its image stays in the spill area where that is free (R348). -/
def State.saveFault (s : State) (core slot : Nat) (t : Task) (i : TrapInfo) (sp : Spill) (resume : W64) : State :=
  let info : TrapInfo := { cause := .saveArea, word := i.word, target := i.target, subc := i.cause.code }
  let r := recordOf t.tasid.toNat core slot 0 0 info t.inh (s.cadenced t) false resume
  let s1 := ((s.cacheFills i.fills).setTask (taskKey core slot) { t with run := .saving, stall := none, atab := [] }).updCore core fun c =>
    let c1 := c.dropWaiter slot
    let c2 := if c1.running = some slot then c1.switch else c1
    if c2.spill.isSome then c2 else { c2 with spill := some sp }
  (s1.withBundle {}).toFaultQueue { record := r, unit := core, slot := slot, req := 0 }

/-- A gang stops (R220): no member holds a bundle or waits any more, and no wait timer runs (R227, R239). -/
def State.stopGang (s : State) (gid : Nat) : State :=
  (s.tasksOf gid).foldl (fun (x : State) e =>
    (x.setTask e.1 { e.2 with stall := none, answers := [] }).updCore (e.1 / 4) fun c => c.dropWaiter (e.1 % 4)) s

/-- A pre-empted task is saved at its save point (R342, R343, R348). A member of a gang stops the gang there: what the others wait
for is abandoned, and each is saved in turn (R220, R239). -/
def State.savePreempted (s00 : State) (core slot : Nat) : State :=
  let k := taskKey core slot
  let s0 := match s00.task k with
    | some t => if s00.cadenced t && gangSaves s00 t.gid then s00.stopGang t.gid else s00
    | none => s00
  match s0.task k with
  | none => s0
  | some t0 =>
    if !t0.preempt ∨ (s0.core core).spill.isSome ∨ !atSavePoint t0 ∨ t0.arrayStop.isSome then s0
    else
      let s := s0.settleTask [.savePoint] core slot
      match s.task k with
      | none => s
      | some t =>
        if t.arrayQ ≠ [] ∨ transfersOf s t then s
        else
          let cmds := queuedOf s core t.uid
          let f := imageFields t
          let parts := imageParts t core slot f.1 f.2.1 f.2.2.1 f.2.2.2.1 cmds f.2.2.2.2 (s.core core).hist
          match s.writeImage core t t.saveptr parts with
          | .ok s1 => s1.saved core slot t t.saveptr (if t.inh then t.pc else f.2.1) cmds
          | .error i => s.saveFault core slot t i { parts := parts, va := t.saveptr, slot := slot, preempt := true } t.pc

-- Loading (R344, R349, R353). ------------------------------------------------------------------------------------

/-- Banks that the tasks of a core hold. -/
def banksHeld (s : State) (core : Nat) : Nat :=
  (List.range 4).foldl (fun a sl => a + (match s.task (taskKey core sl) with | some t => t.banks.length | none => 0)) 0

/-- The commands of an image enter the front of the channels again, with what the image has no place for (R323, R349). -/
def requeue (tags : List (W64 × Nat × Bool)) (cmds : List (Nat × Cmd)) (c : Core) : Core :=
  let l := cmds.zipIdx.map fun p => match tags[p.2]? with
    | some g => (p.1.1, { p.1.2 with dva := g.1, seqNo := g.2.1, priv := g.2.2 })
    | none => p.1
  (List.range 2).foldl (fun (x : Core) h =>
    let mine := l.filterMap fun p => if p.1 = h then some p.2 else none
    x.setChan h { x.chan h with queue := mine ++ (x.chan h).queue }) c

/-- A task made resident from an image in a slot: `inner` where it was in its handler (R344, R349). An image of STATE 2
without a handler to go on in resumes as after an `rfe` (log entry 25). -/
def State.install (s : State) (core slot : Nat) (img : Image) (g : Option Gone) (launch : Nat) : State :=
  let parts := (g.map (·.parts)).getD []
  let t0 : Task := match g with
    | some x => { img.task with
        n := fill 16 {} fun i => let r := x.n[i]?.getD {}; let q := img.task.n[i]?.getD {}; { q with resv := r.resv, done := r.done }
        z := fill 16 {} fun i => let r := x.z[i]?.getD {}; let q := img.task.z[i]?.getD {}; { q with resv := r.resv, done := r.done } }
    | none => img.task
  let t : Task := { t0 with
    pending := img.task.pending.zipIdx.map fun p => { p.1 with part := parts.getD p.2 .bytes } }
  let t1 : Task :=
    match g.bind (·.inner) with
    | some (pc, pend, loops) =>
      { t with pc := pc, epc := img.resume, held := some { pending := t.pending, loops := t.loops, cycle := (g.map (·.cycle)).getD 0 }, pending := pend,
               loops := loops, estat := estatOf true t.pprv true }
    | none =>
      if img.state = 2 then
        { t with pc := img.resume, epc := img.resume, held := none, estat := estatOf false t.pprv t.pprv, keepMode := true }
      else { t with pc := img.resume, held := none, keepMode := false, entry := g.bind (·.entry) }
  let t2 : Task := { t1 with run := .ready, stall := none, preempt := false, arrayQ := [], arrayStop := none, answers := [],
                             exposed := (g.map (·.exposed)).getD true,
                             keepMode := (g.map (·.keepMode)).getD t1.keepMode, cycle := (g.map (·.cycle)).getD 0 }
  (s.setTask (taskKey core slot) t2).updCore core fun c =>
    let c1 := requeue ((g.map (·.tags)).getD []) img.cmds (c.serve launch)
    if t.slv.code = .idle then c1 else { c1 with histOwner := some slot, hist := histOf img.columns, histBad := [] }

/-- The slot a reload takes: its own where that is free, else the lowest (R344; log entry 25). -/
def freeSlotOf (s : State) (core own : Nat) : Option Nat :=
  (own :: List.range 4).find? fun sl => decide (sl < 4) && (s.task (taskKey core sl)).isNone

/-- The group and index of a task of an image (R200, R346). -/
def taskOfTag (s : State) (tag wid : Nat) : Task :=
  let launch := bitsOf tag 32 32
  let gid := bitsOf tag 0 32
  let p := (s.launch launch).pkt
  { gid := gid, launch := launch, i0 := wid % 2 ^ (p.fw.getD 0 0), wtexp := p.wtexp, code := p.code }

/-- Whether tasks of another group keep a task from its core: no other runs on a gang's cores (R217). -/
def gangBlocks (s : State) (core : Nat) (t : Task) : Bool :=
  let mine (c : Nat) : List (Nat × Task) := s.tasks.filter fun e => e.1 / 4 == c && e.2.gid != t.gid
  if (s.launch t.launch).pkt.mode = 1 then
    (List.range (s.launch t.launch).pkt.gsize).any fun i => mine (core / 8 * 8 + i) != []
  else (mine core).any fun e => s.cadenced e.2

/-- An image that cannot be read back: its task stays pre-empted, and a record says why (R344). -/
def State.reloadFails (s : State) (g : Gone) (i : TrapInfo) : State :=
  let r := recordOf g.tasid.toNat g.core g.slot 0 0 i false false false 0
  let back (x : Gone) : Gone := if x.uid = g.uid then { x with marked := false, answers := [] } else x
  ({ s with gone := s.gone.map back }).toFaultQueue
    { record := r, unit := g.core, slot := g.slot, req := 0 }

/-- The first pre-empted task of a core marked for reload is loaded back when the core has what it needs (R344); its image may lie
behind an aperture, which answers first (R267, R396). -/
def State.reload (s : State) (core : Nat) : State :=
  match s.gone.find? fun g => g.core == core && g.marked with
  | none => s
  | some g =>
    let base : Task := { uid := g.uid, troot := g.troot, tasid := g.tasid, gid := g.gid }
    match loadParts s (imageCtx core base) g.answers g.va with
    | .error i => (s.cacheFills i.fills).reloadFails g i
    | .ok r =>
      let s1 := s.sawPlaces s r.fills r.reads
      let base2 := { taskOfTag s (partField r.parts 0x20 8) (partField r.parts 0x18 8) with uid := g.uid }
      let img := imageOf r.parts core base2
      match freeSlotOf s core g.slot with
      | none => s
      | some sl =>
        if r.needs ≠ [] then s1.askOutside { uid := g.uid, launch := (s.group g.gid).launch } false r.needs
        else if vectorsHeld s core + img.task.vcnt > 192 ∨ banksHeld s core + img.task.banks.length > 64 ∨
            (img.task.slv.code ≠ .idle ∧ (s.core core).histOwner.isSome) ∨
            ((s.core core).serves.isSome ∧ (s.core core).serves ≠ some base2.launch) ∨ gangBlocks s core base2 then s
        else ({ s1 with gone := s1.gone.erase g }).install core sl img (some g) base2.launch

/-- The pre-empted task that an image is the image of. -/
def goneOf (s : State) (img : Image) : Option Gone :=
  s.gone.find? fun g => g.core == img.core && g.slot == img.slot && g.gid == img.task.gid

/-- The reasons of R353 for which `ctx.load.new` refuses an image in a slot of a core, in their order. What pending reloads of the
core need is not free for it (R344; log entry 25). -/
def loadNewBad (s : State) (core slot : Nat) (img : Image) : Option Nat :=
  let t := img.task
  let due := (reloadsOf s core).filter fun g => goneOf s img != some g
  let free := (List.range 4).filter fun sl => (s.task (taskKey core sl)).isNone
  let g := s.group t.gid
  let nsb := (s.launch t.launch).pkt.nsb * 1024
  if (s.task (taskKey core slot)).isSome ∨ free.length ≤ due.length then some 1
  else if (s.core core).serves.isSome ∧ (s.core core).serves ≠ some t.launch then some 2
  else if vectorsHeld s core + (due.map (·.vcnt)).sum + t.vcnt > 192 then some 3
  else if (mapGet core g.nsBase).isNone ∧ (nearFit s core nsb).isNone then some 4
  else if banksHeld s core + (due.map (·.banks)).sum + t.banks.length > 64 then some 5
  else if t.slv.code ≠ .idle ∧ ((s.core core).histOwner.isSome ∨ due.any (·.hist)) then some 6
  else if g.cluster ≠ clusterOf core ∨ g.phase ≠ .started then some 8
  else none

/-- `ctx.load.new` performed (R349, R353): the image becomes a resident task. -/
def State.loadNew (s : State) (core slot : Nat) (parts : List (Nat × Nat × Nat)) : State :=
  let n := s.fresh
  let base := taskOfTag s (partField parts 0x20 8) (partField parts 0x18 8)
  let img0 := imageOf parts core base
  let g := goneOf s img0
  let uid := (g.map (·.uid)).getD n.1
  let img := imageOf parts core { base with uid := uid }
  let s1 := match g with
    | some x => { n.2 with gone := n.2.gone.erase x }
    | none => n.2.updGroup base.gid fun y => { y with alive := y.alive + 1 }
  let s2 := match mapGet core (s1.group base.gid).nsBase, nearFit s1 core ((s1.launch base.launch).pkt.nsb * 1024) with
    | none, some b => s1.updGroup base.gid fun y => { y with nsBase := mapSet core b y.nsBase }
    | _, _ => s1
  let s3 := s2.updGroup base.gid fun y => { y with cores := y.cores.set img.task.i0 core }
  s3.install core slot img g base.launch

/-- `ctx.load` performed in the handler (R353): registers, held state, EPC and PPRV are those of the image; INH stays.
A pending packed result of the image writes whole bytes (log entry 65). -/
def loadInto (parts : List (Nat × Nat × Nat)) (core : Nat) (t : Task) : Task :=
  let img := imageOf parts core t
  { img.task with wid := t.wid, vcnt := t.vcnt, estat := estatOf true img.task.pprv t.sup, epc := img.resume,
                  held := some { pending := img.task.pending, loops := img.task.loops }, pending := t.pending, loops := t.loops,
                  pc := t.pc, run := t.run, stall := t.stall, cycle := t.cycle, code := t.code }

/-- `ctx.load` performed: the task, and the history store of its core where the image or the task has a solve (R184,
R353). -/
def State.loadHandler (s : State) (core slot : Nat) (parts : List (Nat × Nat × Nat)) : State :=
  let k := taskKey core slot
  match s.task k with
  | none => s
  | some t =>
    let img := imageOf parts core t
    (s.setTask k (loadInto parts core t)).updCore core fun c =>
      if img.task.slv.code != .idle then { c with histOwner := some slot, hist := histOf img.columns, histBad := [] }
      else if c.histOwner = some slot then { c with histOwner := none } else c

/-- The reasons of R353 for which `ctx.load` refuses an image, in their order. -/
def loadBad (s : State) (core slot : Nat) (img : Image) : Option Nat :=
  let own := match s.task (taskKey core slot) with | some t => t.banks.length | none => 0
  if banksHeld s core - own + img.task.banks.length > 64 then some 5
  else if img.task.slv.code ≠ .idle ∧ (s.core core).histOwner.isSome ∧ (s.core core).histOwner ≠ some slot then some 6
  else none

-- REPLAY (R340, R341, R348). -------------------------------------------------------------------------------------

/-- The members of a gang, or the task alone (R336). -/
def partyTasks (s : State) (core slot : Nat) : List Nat :=
  match s.task (taskKey core slot) with
  | some t => if s.cadenced t then (s.tasksOf t.gid).map (·.1) else [taskKey core slot]
  | none => []

/-- A parked task goes on at its resume address (R340). -/
def Task.resume (t : Task) : Task := match t.run with | .parked _ _ => { t with run := .ready } | _ => t

/-- A failed save tried again (R348): the image of the spill area is written, and the pre-emption or the `ctx.save` it
interrupted completes, whose finished bundle commits when its core issues it; a `ctx.save` that found the spill area taken, and
wrote nothing, runs again. -/
def State.retrySave (s : State) (core slot : Nat) : State :=
  let k := taskKey core slot
  match s.task k with
  | none => s
  | some t =>
    match (s.core core).spill with
    | some sp =>
      if sp.slot ≠ slot then s.setTask k { t with run := .ready }
      else
        match s.writeImage core t sp.va sp.parts with
        | .error i => s.saveFault core slot t i sp t.pc
        | .ok s1 =>
          let s2 := s1.updCore core fun c => { c with spill := none }
          if sp.preempt then s2.saved core slot t sp.va (if t.inh then t.pc else (imageFields t).2.1) (queuedOf s2 core t.uid)
          else
            let rest (e : Effect) : Bool := match e with | .ctxSave va => va != sp.va | _ => true
            let staged := sp.bundle.staged.map fun x => { x with effects := x.effects.filter rest }
            s2.setTask k { t with run := .ready, stall := some { bundle := { sp.bundle with staged := staged }, waits := [] } }
    | none => s.setTask k { t with run := .ready }

/-- A stopped command goes on (R323): where its body is written, the writes to a peer that failed are made again and then its
post; else it reads its body again. -/
def State.restartBody (s : State) (core h i : Nat) (a : Active) : State :=
  if a.written then
    match peerFault s none (a.failed.map fun p => (p.1, p.2.1, 0)) with
    | some t => s.stopEngine core h i a t
    | none =>
      a.failed.foldl (fun (x : State) p => x.writeOut none (cmdSource s h a.cmd) p.1 p.2.1 p.2.2)
        (s.setActive core h i { a with state := .acking, failed := [] })
  else if a.cmd.op = 0x4C then s.setActive core h i { a.restart with state := .meeting, resvd := false }
  else (s.setActive core h i a.restart).runBody core h i

/-- A launch that its completion write stopped goes on: a write that a peer did not acknowledge is made again (R340, R396); a
packet that could not be read is taken anew (R414). -/
def State.retryWrite (s : State) (l : Launch) : State :=
  if l.phase = .taking then s.withLaunches (s.launches.filter fun e => e.1 != l.id)
  else if l.phase ≠ .done then s.setLaunch l.id { l with stopped := none }
  else
    match cplWrite s l (l.fail.getD l.pkt.cplval) with
    | .error e => s.stopLaunch l e
    | .ok s1 => s1.setLaunch l.id { l with stopped := none }

/-- REPLAY action 0 (R340, R344, R348): a stopped task in the slot, else the pre-empted one whose image the record named. -/
def State.replayResume (s : State) (unit slot req : Nat) : State :=
  let k := taskKey unit slot
  if req = 1 then s.updTask k fun t => { t with arrayStop := none, arrayQ := t.arrayQ.map ArrayOp.anew }
  else if req = 2 then
    match ((s.core unit).chan slot).active.findIdx? fun a => a.state == .stopped with
    | none => s
    | some i =>
      match s.activeAt unit slot i with
      | none => s
      | some a =>
        s.restartBody unit slot i a
  else if req = 4 then
    s.launches.foldl (fun (x : State) e => if e.2.cluster == unit && e.2.stopped.isSome then x.retryWrite e.2 else x) s
  else
    match residentStopped s unit slot req, s.task k with
    | true, some t =>
      (match t.run with
        | .saving => s.retrySave unit slot
        | _ => (partyTasks s unit slot).foldl (fun (x : State) j => x.updTask j Task.resume) s)
    | _, _ =>
      match s.gone.find? fun g => g.core == unit && g.slot == slot && !g.marked with
      | some g => { s with gone := s.gone.erase g ++ [{ g with marked := true }] }
      | none => s

/-- REPLAY action 1: the handler is entered with the posted record (R334, R340). -/
def State.replayDeliver (s : State) (unit slot : Nat) : State :=
  s.updTask (taskKey unit slot) fun t =>
    match t.run with
    | .parked r _ => { enterHandler t.pc r t with run := .ready }
    | _ => t

/-- REPLAY action 2 (R341, R348), on the party that action 0 would resume. -/
def State.replayTerminate (s : State) (unit slot req : Nat) : State :=
  if req = 2 then
    match ((s.core unit).chan slot).active.findIdx? fun a => a.state == .stopped with
    | none => s
    | some i => match s.activeAt unit slot i with | some a => s.endInError unit slot a 3 | none => s
  else if req = 4 then
    match s.launches.find? fun e => e.2.cluster == unit && e.2.stopped.isSome with
    | some e => if e.2.phase = .taking then (s.launchDone e.1).leaveQueue e.2.queue else s.launchDone e.1
    | none => s
  else
    let s1 := if !residentStopped s unit slot req then s else s.updCore unit fun c => match c.spill with
      | some sp => if sp.slot = slot ∧ req ≠ 1 then { c with spill := none } else c
      | none => c
    if residentStopped s unit slot req then (partyTasks s1 unit slot).foldl (fun (x : State) j => x.terminate (j / 4) (j % 4)) s1
    else
      match s1.gone.find? fun g => g.core == unit && g.slot == slot && !g.marked with
      | some g =>
        (({ s1 with gone := s1.gone.erase g }).updGroup g.gid fun y => { y with alive := y.alive - 1 }).updLaunch (s1.group g.gid).launch
          fun l => { l with fail := some (failWord 0x20) }
      | none => s1

/-- A write of REPLAY performed (R340). -/
def State.replay (s : State) (v : W64) : State :=
  let x := v.toNat
  let unit := bitsOf x 32 9
  let slot := bitsOf x 20 2
  let req := bitsOf x 16 3
  match bitsOf x 0 2 with
  | 0 => s.replayResume unit slot req
  | 1 => s.replayDeliver unit slot
  | _ => s.replayTerminate unit slot req

end Sys2Proof.Machine
end

