-- ==== Sys2Proof/Machine/System.lean ====
section
/-! DEFINITION. What the system slots and the host do to the machine: invalidation of translations, access counters, the
Skiver's cache and marks, and the effect of every control register write (14 R252 to R260, 16 R282, R289 to R296, 17 R316,
19 R337 to R342, R354, 20 R370 to R374, 23 R391 to R398, 24 R403, R409 to R418). -/

namespace Sys2Proof.Machine

-- Ranges of virtual addresses (R291, R372). ----------------------------------------------------------------------

/-- Whether `n` bytes at `a` meet the range of `len` bytes from `s`, taken modulo 2^57 (R291). -/
def rangeMeets (s len a n : Nat) : Bool :=
  if len = 0 then false
  else if len ≥ 2 ^ 57 then true
  else
    decide ((a + 2 ^ 57 - s % 2 ^ 57) % 2 ^ 57 < len) || decide ((s + 2 ^ 57 - a % 2 ^ 57) % 2 ^ 57 < n)

/-- Start and length of the virtual bytes a cached entry serves: the group of a leaf, the span of a table entry. -/
def tlbSpan (e : TlbEntry) : Nat × Nat :=
  let p := pageSize e.level
  let n := if e.pte.getLsbD 1 then contOf e.pte else 1
  (e.key / n * n * p, n * p)

/-- Whether `tlb.inv` of a kind removes a cached entry (R291). -/
def tlbHit (kind asid s len : Nat) (e : TlbEntry) : Bool :=
  match kind with
  | 0 => e.asid == asid && rangeMeets s len (tlbSpan e).1 (tlbSpan e).2
  | 1 => e.asid == asid
  | 2 => rangeMeets s len (tlbSpan e).1 (tlbSpan e).2
  | _ => true

/-- Whether `tlb.inv` of a kind removes a hoisted-load entry of a task (R91, R92 item 5, R291). -/
def hoistInv (kind asid s len : Nat) (t : Task) (e : ATEntry) : Bool :=
  let mine := t.tasid.toNat % 2 ^ 16 == asid
  match kind with
  | 0 => mine && rangeMeets s len (e.va % 2 ^ 57) e.len
  | 1 => mine
  | 2 => rangeMeets s len (e.va % 2 ^ 57) e.len
  | _ => true

/-- `tlb.inv` performed (R291): every translation cache and every address table of the device. -/
def State.tlbInv (s : State) (kind asid a len : Nat) : State :=
  ((s.withTlb (s.tlb.filter fun e => !tlbHit kind asid a len e)).withTasks
    (s.tasks.map fun e => (e.1, { e.2 with atab := e.2.atab.filter fun x => !hoistInv kind asid a len e.2 x }))).withCores
    (s.cores.map fun e => (e.1, { e.2 with ch := e.2.ch.map fun h => { h with active := h.active.map Active.rewind } }))

-- Access counters (R294 to R296). --------------------------------------------------------------------------------

/-- The counted region of a physical address (R294). -/
def counterIndex (pa : Nat) : Option Nat :=
  if pa < 2 ^ 39 then some (pa / 2 ^ 16)
  else if 0x1000000000000 ≤ pa ∧ pa < 0x1000000000000 + 2 ^ 39 then some (2 ^ 23 + (pa - 0x1000000000000) / 2 ^ 16)
  else none

/-- Whether counting is enabled (R294). -/
def counting (s : State) : Bool := s.regs.ctrbase.getLsbD 0

/-- The physical address of a counter (R294). -/
def counterPa (s : State) (j : Nat) : Nat := s.regs.ctrbase.toNat / 2 ^ 26 * 2 ^ 26 + 4 * j

/-- What `ctr.rd` reads for a physical address (R296). -/
def counterWord (s : State) (pa : Nat) : W64 :=
  match counterIndex pa with
  | some j => if counting s then BitVec.ofNat 64 (memNat s.mem (counterPa s j) 4 % 2 ^ 25 + 2 ^ 25) else 0
  | none => 0

/-- COUNT and NTF of a region zeroed (R296). -/
def State.counterClear (s : State) (pa : Nat) : State :=
  match counterIndex pa with
  | some j => if counting s then s.store none (counterPa s j) 4 (memNat s.mem (counterPa s j) 4 / 2 ^ 25 * 2 ^ 25) else s
  | none => s

/-- A counted line request at its home slice (R295): the increment, and the notice where the threshold is reached and the
notice queue has room. -/
def State.counterSeen (s : State) (pa die mcnt : Nat) : State :=
  match counterIndex pa with
  | none => s
  | some j =>
    if !counting s then s
    else
      let a := counterPa s j
      let e := memNat s.mem a 4
      let count := min (e % 2 ^ 24 + 1) (2 ^ 24 - 1)
      let thr := bitsOf s.regs.ctrthr.toNat 0 24
      let due := decide (count ≥ thr) && thr != 0 && bitsOf e 24 1 == 0 && mcnt != 15 &&
        !noticeShut s
      let s1 := s.store none a 4 (count + (if due then 2 ^ 24 else e / 2 ^ 24 * 2 ^ 24))
      if due then
        s1.notice 1 (BitVec.ofNat 64 (pa / 2 ^ 16 * 2 ^ 16)) (BitVec.ofNat 64 count) (BitVec.ofNat 64 (die + mcnt * 2 ^ 32))
      else s1

/-- The MCNT of the leaf that translated a request (R284, R295): of the entry cached last whose pages hold it; 15 where no leaf
did. -/
def leafCount (s : State) (pa : Nat) : Nat :=
  let holds (e : TlbEntry) : Bool :=
    let n := contOf e.pte
    let base := leafPa (e.key / n * n * pageSize e.level) e.level (e.key % 512) e.pte
    e.pte.getLsbD 1 && decide (base ≤ pa) && decide (pa < base + n * pageSize e.level)
  match s.tlb.reverse.find? holds with
  | some e => bitsOf e.pte.toNat 54 4
  | none => 15

/-- The line requests of a clock cycle counted (R295): those sent to the host, and those that reach home slices, which are free
(log entry 27). -/
def State.linesCounted (s : State) : State :=
  let sent := s.nets.lines.map fun r => (r.1, r.2.1, leafCount s r.1)
  let s1 := if s.nets.lines = [] then s else s.withNets { s.nets with lines := [] }
  (sent ++ Config.lineRequests s.draws).foldl (fun (x : State) r => x.counterSeen r.1 r.2.1 r.2.2) s1

-- The Skiver's marks (R362, R369 to R374). -----------------------------------------------------------------------

/-- The shape of a core (R361): 1 where I1 is fenced, 2 where V1 is. -/
def shapeOf (c : Core) : Nat := (if c.noI1 then 1 else 0) + (if c.noV1 then 2 else 0)

/-- The physical page of a leaf at index `i` of a table that serves addresses from `va` on, the whole page of its group (R285),
where it meets a virtual range; with the PB bit. -/
def mappedLeaf (s len level va i : Nat) (pte : W64) : List (Nat × Nat × Bool) :=
  let p := pageSize level
  let n := contOf pte
  let back := i % n * p
  if rangeMeets s len (va + i * p - back) (n * p) then [(leafPa (va + i * p) level i pte - back, n * p, pte.getLsbD 6)] else []

/-- The physical ranges that the tables of an address space map in a virtual range, from a table of a level down (R372);
`va` is the first address the table serves. -/
def mappedBelow (mem : List Host.Cell) (s len : Nat) : Nat → Nat → Nat → List (Nat × Nat × Bool)
  | 0, table, va =>
    (List.range 512).flatMap fun i =>
      let pte := BitVec.ofNat 64 (memNat mem (table + 8 * i) 8)
      if (pteBad 0 (va + i * pageSize 0) pte).isSome then [] else mappedLeaf s len 0 va i pte
  | l + 1, table, va =>
    (List.range 512).flatMap fun i =>
      let a := va + i * pageSize (l + 1)
      let pte := BitVec.ofNat 64 (memNat mem (table + 8 * i) 8)
      if (pteBad (l + 1) a pte).isSome then []
      else if pte.getLsbD 1 then mappedLeaf s len (l + 1) va i pte
      else if rangeMeets s len a (pageSize (l + 1)) then mappedBelow mem s len l (pteAddr pte) a
      else []

/-- The part of a mapped range that 4 KiB pages of a virtual range cover is at most the whole range; a publishable one
stands for the ranges of every publish entry (R317). -/
def mappedFrames (s : State) (troot : W64) (a len : Nat) : List (Nat × Nat) :=
  let root := troot.toNat / 4096 % 2 ^ 40 * 4096
  if root ≥ 2 ^ 39 then []
  else
    (mappedBelow s.mem a len 4 root 0).flatMap fun r =>
      if r.2.2 then
        (r.1, r.2.1) :: s.regs.pubs.toList.flatMap fun e =>
          let n := bitsOf e.ctl.toNat 8 20 * 4096
          [(e.front.toNat, n), (e.shad.toNat, n)]
      else [(r.1, r.2.1)]

/-- Whether a physical address lies in one of the ranges. -/
def inFrames (l : List (Nat × Nat)) (pa : Nat) : Bool := l.any fun r => decide (r.1 ≤ pa) && decide (pa < r.1 + r.2)

/-- The bundle of a task that waits is fetched anew when it runs again: its translation is removed (R372). One whose slots have
all been executed does not run again. -/
def Task.forget (t : Task) : Task :=
  match t.stall with
  | some st =>
    if st.bundle.staged ≠ [] then t
    else { t with stall := some { st with bundle := { st.bundle with code := [], words := [] } } }
  | none => t

/-- What is left of a hinted range of an object when `n` bytes at an address are taken out of it (R374). -/
def cutHint (die : Nat) (objid : W64) (va n : Nat) (h : CodeHint) : List CodeHint :=
  if h.die != die || h.objid != objid || !rangeMeets h.start h.len va n then [h]
  else if n ≥ 2 ^ 57 then []
  else
    let o := (va + 2 ^ 57 - h.start) % 2 ^ 57
    let part (a b : Nat) : List CodeHint := if a < b then [{ h with start := (h.start + a) % 2 ^ 57, len := b - a }] else []
    part (o + n - 2 ^ 57) (min o h.len) ++ part (o + n) h.len

/-- The hint of an address of an object on a die (R374). -/
def hintOf (k : Skiver) (die : Nat) (objid : W64) (va : Nat) : Tier :=
  match k.hints.find? fun h => h.die == die && h.objid == objid && rangeMeets h.start h.len (va % 2 ^ 57) 1 with
  | some h => h.mode
  | none => .automatic

/-- A translation of a bundle taken out of the cache with the hint of its words, and with the tier-1 translation of the loop
that begins at it (R363, R374). -/
def Skiver.dropEntry (k : Skiver) (e : XEntry) : Skiver :=
  { k with
    xlat := k.xlat.erase e
    hints := k.hints.flatMap (cutHint e.die e.objid (e.va % 2 ^ 57) (4 * e.words.length))
    heads := k.heads.map fun h => if h.die = e.die ∧ h.objid = e.objid ∧ h.va = e.va then { h with tier1 := false } else h }

/-- The bundles that leads have fetched for their gangs, but for those that satisfy `p` of OBJID and bundle: members that issue
them later fetch them themselves (R219, R372). -/
def State.dropStreams (s : State) (p : W64 → Bundle → Bool) : State :=
  if s.groups.all fun g => g.2.stream == [] then s
  else s.withGroups (s.groups.map fun g => (g.1, { g.2 with stream := g.2.stream.filter fun x => !p x.2.1 x.2.2 }))

/-- Every translation and every result kept of an object removed (R370, R372). -/
def State.xltAll (s : State) : State :=
  ((s.withSky { s.sky with xlat := [], objs := [], sigs := [], hints := [], heads := [] }).withTasks
    (s.tasks.map fun e => (e.1, e.2.forget))).dropStreams fun _ _ => true

/-- The translations that satisfy `p` removed, and with them what the bundles that wait have captured (R372). -/
def State.xltDrop (s : State) (p : XEntry → Bool) : State :=
  let gone := s.sky.xlat.filter p
  let hit (k : Nat) (t : Task) : Bool := match t.stall with
    | some st => gone.any fun e => e.die == dieOf (k / 4) && some e.objid == t.objid && e.va == st.bundle.addr.toNat
    | none => false
  ((s.withSky (gone.foldl Skiver.dropEntry s.sky)).withTasks
    (s.tasks.map fun e => (e.1, if hit e.1 e.2 then e.2.forget else e.2))).dropStreams fun o b =>
      gone.any fun e => e.objid == o && e.va == b.addr.toNat

/-- `xlt.inval` performed (R372). What is removed beyond the range is evicted, which no program sees (R368). That what the
Skiver keeps of a header and a region table (R54) goes with the signature result of its object is DEDUCED (log entry 58). -/
def State.xltInval (s : State) (troot : W64) (a len : Nat) : State :=
  if len ≥ 2 ^ 57 then s.xltAll
  else if len = 0 then s
  else
    let f := mappedFrames s troot a len
    let covered (l : List Nat) : Bool := l.any fun p => f.any fun q => meet p 4096 q.1 q.2
    let s1 := s.xltDrop fun e => e.pas.any (inFrames f)
    s1.withSky { s1.sky with
      objs := s1.sky.objs.filter fun o => !covered o.pages
      sigs := s1.sky.sigs.filter fun r => !covered r.pages }

/-- The word addresses that meet a virtual range, `n` of them from the first. -/
def wordsFrom (a : Nat) : Nat → List Nat
  | 0 => []
  | n + 1 => a / 4 * 4 % 2 ^ 57 :: wordsFrom (a / 4 * 4 + 4) n

/-- The number of words that meet a virtual range. -/
def wordCount (a len : Nat) : Nat := if len = 0 then 0 else (a % 4 + len + 3) / 4

/-- The words of a range of an object that are not pinned on a die. -/
def unpinned (s : State) (die : Nat) (objid : W64) (a len : Nat) : List Nat :=
  (wordsFrom a (wordCount a len)).filter fun w => !(s.sky.pins.contains { die := die, objid := objid, va := w })

/-- Whether pinning a range exceeds the limit of a die (R373). -/
def pinBad (s : State) (die : Nat) (objid : W64) (a len : Nat) : Bool :=
  decide (4 * wordCount a len > 524288) || decide (pinnedBytes s (some die) + 4 * (unpinned s die objid a len).length > 524288)

/-- `xlt.pin` and `xlt.unpin` performed (R373). -/
def State.xltPin (s : State) (pin : Bool) (die : Nat) (objid : W64) (a len : Nat) : State :=
  if pin then
    s.withSky { s.sky with pins := s.sky.pins ++ (unpinned s die objid a len).map fun w => { die := die, objid := objid, va := w } }
  else
    s.withSky { s.sky with pins := s.sky.pins.filter fun p => !(p.die == die && p.objid == objid && rangeMeets a len p.va 4) }

/-- Whether a range covers the `lp` bundle of a loop (R382). -/
def coversLp (a len : Nat) (h : HeadCount) : Bool :=
  match h.lp with
  | some l => decide (len ≥ 2 ^ 57) || decide ((l + 2 ^ 57 - a % 2 ^ 57) % 2 ^ 57 + (h.va - l) ≤ len)
  | none => false

/-- HOT of XLTCTL (R370). -/
def hotCount (s : State) : Nat := bitsOf s.regs.xltctl.toNat 8 16

/-- `xlt.hint` performed (R374): the range takes the mode. `xlt.hint.t1` sets the entry counts of the loops whose `lp` bundles it
covers to HOT (R382). -/
def State.xltHint (s : State) (m : Tier) (die : Nat) (objid : W64) (a len : Nat) : State :=
  let n := min len (2 ^ 57)
  let rest := s.sky.hints.flatMap (cutHint die objid a n)
  let mine (h : HeadCount) : Bool := h.die == die && h.objid == objid && coversLp a len h
  s.withSky { s.sky with
    hints := if n = 0 ∨ m = .automatic then rest else rest ++ [{ die := die, objid := objid, start := a, len := n, mode := m }]
    heads := if m = .tier1 then s.sky.heads.map fun h => if mine h then { h with count := hotCount s } else h else s.sky.heads }

/-- A loop head entered once more (R363). The count of a loop that a hint covers and that no die has counted yet begins at HOT;
while T1EN is set, its entry builds the tier-1 translation (R382). -/
def State.headSeen (s : State) (die : Nat) (objid : W64) (va : Nat) (lp : Option Nat) : State :=
  let mine (h : HeadCount) : Bool := h.die == die && h.objid == objid && h.va == va
  let hinted := match lp with | some l => hintOf s.sky die objid l == .tier1 | none => false
  let l := s.sky.heads
  let l1 := if l.any mine then l else l ++ [{ die := die, objid := objid, va := va, count := if hinted then hotCount s else 0 }]
  let seen (h : HeadCount) : HeadCount :=
    { h with count := h.count + 1, lp := lp.or h.lp, tier1 := h.tier1 || (hinted && s.regs.xltctl.getLsbD 1) }
  s.withSky { s.sky with heads := l1.map fun h => if mine h then seen h else h }

/-- A head at an address of a die whose count has reached HOT gets its tier-1 translation, unless a hint keeps it at tier 0
(R363, R374); of two objects with such a head at one address, the one counted first that has none yet. -/
def State.promote (s : State) (die va : Nat) : State :=
  if !s.regs.xltctl.getLsbD 1 then s
  else
    match s.sky.heads.find? fun h => h.die == die && h.va == va && decide (h.count ≥ hotCount s) && !h.tier1 &&
        hintOf s.sky die h.objid va != .tier0 with
    | some h => s.withSky { s.sky with heads := s.sky.heads.map fun x => if x = h then { x with tier1 := true } else x }
    | none => s

/-- Whether an entry to the loop of a head with a count runs its tier-1 translation, which serves a range of counts that the
Skiver fixes (R363, R370, R374, R381). -/
def runsTier1 (s : State) (die : Nat) (objid : W64) (va count : Nat) : Bool :=
  s.regs.xltctl.getLsbD 1 && hintOf s.sky die objid va != .tier0 &&
    (s.sky.heads.any fun h => h.die == die && h.objid == objid && h.va == va && h.tier1) &&
    Config.tier1Serves objid.toNat va count

-- Installing microcode (R376, R377). -----------------------------------------------------------------------------

/-- Bytes of a package as a number from an offset. -/
def pkgField (l : List Byte) (o n : Nat) : Nat := bytesNat ((l.drop o).take n)

/-- Entry `i` of a package (R376). -/
def pkgEntry (l : List Byte) (i : Nat) : UEntry :=
  let o := pkgField l 8 4 + 16 * i
  { ep := pkgField l o 1, f := pkgField l (o + 1) 1, cls := pkgField l (o + 2) 1, priv := pkgField l (o + 3) 1 % 2 == 1,
    fd := pkgField l (o + 4) 1, fa := pkgField l (o + 5) 1, fb := pkgField l (o + 6) 1, len := pkgField l (o + 7) 1,
    start := pkgField l (o + 8) 2 }

/-- The body slots of a package. -/
def pkgSlots (l : List Byte) : List Nat :=
  (List.range (pkgField l 0x10 4 / 4)).map fun i => pkgField l (pkgField l 0xC 4 + 4 * i) 4

/-- A package installed on every core at one instant; the translations of bundles with a class 111 slot are removed (R377). -/
def State.installUcode (s : State) (l : List Byte) : State :=
  let x := s.xltDrop fun e => e.words.any fun w => w / 2 ^ 28 % 8 == 7
  x.withSky { x.sky with uver := pkgField l 4 2, uents := (List.range (pkgField l 6 2)).map (pkgEntry l), uslots := pkgSlots l }

-- Cluster-store modes (R253). ------------------------------------------------------------------------------------

/-- Group banks whose code a CSMODE value changes (R253). -/
def banksChanged (g : Group) (v : W64) : List Nat :=
  (List.range g.banks.length).filter fun i => bankMode g i != bitsOf v.toNat (2 * i) 2

/-- Whether a span of a body lies in bank `i` of its group (R300). -/
def spanBank (i : Nat) (x : Nat × Nat × Int × Int) : Bool :=
  x.1 == 2 && decide (x.2.2.1 < x.2.2.2) && decide (x.2.2.1 / 0x20000 ≤ i) && decide ((i : Int) ≤ (x.2.2.2 - 1) / 0x20000)

/-- Whether an access to bank `i` of a group that its tasks or engines have issued is under way (R253): a body of a started
command that has not landed, a row that an array operation has still to read or write. -/
def bankBusy (s : State) (gid i : Nat) : Bool :=
  let g := s.group gid
  let pa := bankPa g.cluster (g.banks.getD i 0)
  (s.cores.any fun e => e.2.ch.toList.any fun h => h.active.any fun a =>
    a.cmd.gid == gid && ((List.range (bodies a.cmd.desc)).drop a.body).any fun r =>
      let p := bodySpans a.cmd.desc r (landBytes s a.cmd)
      spanBank i p.1 || spanBank i p.2) ||
  s.tasks.any fun e => e.2.gid == gid && e.2.arrayQ.any fun o =>
    ((opPlaces s (fetchCtx (e.1 / 4) e.2 o) o).1.any fun p => meet p.1 p.2.1 pa 0x20000) ||
      (match o.kind with | .wb _ _ rows => rows.any fun p => meet p.1 p.2 pa 0x20000 | _ => false)

/-- Where the source of the element that a body reads next, and of those after it, lies (R302). -/
def sourcePlaces (s : State) (a : Active) : List Nat :=
  ((List.range (bodyElems a.cmd.desc)).drop a.elem).filterMap fun n => (elemSource s a n).map (·.1)

/-- Whether a read of the alias of a window is under way (R260): by a body that reads, or by an array operation that has
rows to read; a stopped body reads again from its first element. -/
def aliasBusy (s : State) (w : Nat) : Bool :=
  let hit (pa : Nat) : Bool := windowAt s pa == some w
  (s.cores.any fun e => e.2.ch.toList.any fun h => h.active.any fun a =>
    (a.state == .moving || a.state == .waiting) && (a.resvd || a.elem != 0) && (sourcePlaces s a).any hit) ||
  s.tasks.any fun e => e.2.arrayStop.isNone && e.2.arrayQ.any fun o =>
    (opPlaces s (fetchCtx (e.1 / 4) e.2 o) o).1.any fun p => hit p.1

/-- The window whose EN a write of a control register clears (R260). -/
def windowShut (s : State) (n : Nat) (v : W64) : Option Nat :=
  let w := (n - 0x100) / 8
  if 0x100 ≤ n ∧ n < 0x140 ∧ n % 8 = 4 ∧ ((s.regs.windows[w]?.getD {}).ctl.getLsbD 8) ∧ !v.getLsbD 8 then some w else none

/-- A bank of a group switched from one code to another (R253). -/
def State.switchBank (s : State) (gid i old new : Nat) : State :=
  let g := s.group gid
  let s1 := s.updBank gid i fun b => { b with mode := new, head := 0, tail := 0 }
  if old = 0 then s1.withMem (memZero (bankPa g.cluster (g.banks.getD i 0)) 0x20000 s1.mem) else s1

/-- A CSMODE value put in force (R253). -/
def State.setCsmode (s : State) (gid : Nat) (v : W64) : State :=
  let g := s.group gid
  ((banksChanged g v).foldl (fun (x : State) i => x.switchBank gid i (bankMode g i) (bitsOf v.toNat (2 * i) 2)) s).updGroup gid
    fun y => { y with csmode := v }

-- Eviction schedules (R254). -------------------------------------------------------------------------------------

/-- An entry of a schedule table from its 16 bytes; none where it breaks the layout (R254). -/
def scheduleEntry (bars x : Nat) : Option EvEntry :=
  let line := bitsOf x 0 64
  let bar := bitsOf x 80 16
  if line % 128 ≠ 0 ∨ line ≥ 2 ^ 57 ∨ bitsOf x 64 16 = 0 ∨ bar ≥ bars then none
  else some { line := line, nline := bitsOf x 64 16, bar := bar, phase := bitsOf x 96 32 }

/-- The entries of a schedule, or the index of the first that breaks the layout. -/
def scheduleEntries (bars : Nat) : List Nat → Nat → Except Nat (List EvEntry)
  | [], _ => .ok []
  | x :: l, i =>
    match scheduleEntry bars x with
    | none => .error i
    | some e =>
      match scheduleEntries bars l (i + 1) with
      | .error j => .error j
      | .ok r => .ok (e :: r)

/-- The address of a group's schedule table: EVBASE, extended from bit 56 (R252). -/
def scheduleTable (g : Group) : W64 := (g.evbase.setWidth 57).signExtend 64

/-- Where a table of `count` entries lies, as loads of the task's system slot place it (R247, R254). -/
def schedulePlaces (s : State) (core : Nat) (t : Task) (count : Nat) : Except TrapInfo (List (Nat × Nat × W64) × List TlbEntry) :=
  placeAll s { slotCtx core t with slotL := false } .read (piecesOf (scheduleTable (s.group t.gid)) (16 * count))

/-- An entry with its range translated (R255). A page of it that no access could reach gives no line, which R255 leaves open (log
entry 60). -/
def captureEntry (s : State) (core : Nat) (t : Task) (e : EvEntry) : EvEntry :=
  let frame (p : W64 × Nat) : Option (Nat × Nat) :=
    match place s (slotCtx core t) .read p.2 p.1 with
    | .ok r => some (r.pa, p.2)
    | .error _ => none
  { e with frames := (piecesOf ((BitVec.ofNat 57 e.line).signExtend 64) (128 * e.nline)).filterMap frame }

/-- The schedule that a table of `count` entries holds as the task reads it (R254), or the fault of its first bad entry. -/
def loadSchedule (s : State) (core : Nat) (t : Task) (count : Nat) : Except TrapInfo (List EvEntry) :=
  let x := loadValue s t (schedulePlaces s core t count)
  match scheduleEntries (s.group t.gid).barriers.length ((List.range count).map fun i => bitsOf x (128 * i) 128) 0 with
  | .error i => .error { cause := .permission, word := BitVec.ofNat 64 i }
  | .ok l => .ok (l.map (captureEntry s core t))

-- Writes of control registers (R354). ----------------------------------------------------------------------------

/-- The bits of a device-wide register that a write sets; the others keep what they held (R354). -/
def crDeviceBits (n : Nat) : W64 :=
  if n = 0x31 then bitsMask 12 51
  else if n = 0x32 ∨ n = 0x501 then bitsMask 4 7 ||| 1
  else if n = 0x34 ∨ n = 0x503 then bitsMask 0 31
  else if 0x510 ≤ n ∧ n < 0x518 then bitsMask 0 15
  else crNamed n

/-- Old and new bits of a register put together under a mask of writable bits. -/
def crMerge (mask old new : W64) : W64 := (old &&& ~~~mask) ||| (new &&& mask)

/-- A write of a register of a format window (R259, R260). -/
def setWindow (f : FWindow) (i : Nat) (v : W64) : FWindow :=
  match i with
  | 0 => { f with raw := v &&& bitsMask 12 51 }
  | 1 => { f with len := v &&& bitsMask 12 51 }
  | 2 => { f with scale := v &&& bitsMask 0 51 }
  | 3 => { f with mirror := v &&& bitsMask 12 51 }
  | _ => { f with ctl := v &&& (bitsMask 16 19 ||| bitsMask 0 8) }

/-- A write of a register of a publish entry (R316). -/
def setPub (e : PubEntry) (i : Nat) (v : W64) : PubEntry :=
  match i with
  | 0 => { e with front := v &&& bitsMask 12 51 }
  | 1 => { e with shad := v &&& bitsMask 12 51 }
  | _ => { e with ctl := crMerge (bitsMask 32 47 ||| bitsMask 8 27 ||| 1) e.ctl v }

/-- The leader's offset is none (R398): ALIGNED where the device leads its own group; every follower measures first. -/
def cgStart (r : Regs) (v : W64) : W64 :=
  if v.getLsbD 8 && bitsOf v.toNat 0 8 == bitsOf r.devid.toNat 0 8 then 1 else 0

/-- The device-wide registers that are plain storage, written (R294, R338, R391, R418). -/
def setPlain (r : Regs) (n : Nat) (v : W64) : Regs :=
  let m (old : W64) : W64 := crMerge (crDeviceBits n) old v
  if n = 0x22 then { r with ctrbase := m r.ctrbase }
  else if n = 0x23 then { r with ctrthr := m r.ctrthr }
  else if n = 0x31 then { r with fqbase := m r.fqbase }
  else if n = 0x32 then { r with fqctl := m r.fqctl }
  else if n = 0x34 then { r with fqrd := v.toNat % 2 ^ 32 }
  else if n = 0x300 then { r with devid := m r.devid }
  else if n = 0x301 then { r with stbase := m r.stbase }
  else if n = 0x308 then { r with collbase := m r.collbase }
  else if n = 0x500 then { r with nqbase := m r.nqbase }
  else if n = 0x501 then { r with nqctl := m r.nqctl }
  else if n = 0x503 then { r with nqrd := v.toNat % 2 ^ 32 }
  else if n = 0x504 then { r with qtbase := m r.qtbase }
  else if n = 0x505 then { r with hinvaddr := m r.hinvaddr }
  else if n = 0x506 then { r with hinvlen := v }
  else if n = 0x50A then { r with hctxsel := m r.hctxsel }
  else if 0x510 ≤ n ∧ n < 0x518 then
    { r with pwr := r.pwr.setIfInBounds (n - 0x510) (m (r.pwr[n - 0x510]?.getD 0)) }
  else if 0x520 ≤ n ∧ n < 0x524 then { r with nonce := r.nonce.setIfInBounds (n - 0x520) v }
  else if n = 0x525 then { r with attbuf := m r.attbuf }
  else if n = 0x528 then { r with lcidx := m r.lcidx }
  else if 0x400 ≤ n ∧ n < 0x500 then { r with route := mapSet (n - 0x400) (v &&& bitsMask 0 15) r.route }
  else if 0x100 ≤ n ∧ n < 0x140 then
    let w := (n - 0x100) / 8
    { r with windows := r.windows.setIfInBounds w (setWindow (r.windows[w]?.getD {}) (n % 8) v) }
  else if 0x200 ≤ n ∧ n < 0x300 then
    let e := (n - 0x200) / 4
    { r with pubs := r.pubs.setIfInBounds e (setPub (r.pubs[e]?.getD {}) (n % 4) v) }
  else r

/-- A task's own register written (R9, R282, R337). -/
def Task.setCr (t : Task) (n : Nat) (v : W64) : Task :=
  if n = 0 then { t with asw := aswMask v }
  else if n = 0x20 then { t with troot := v &&& crNamed 0x20 }
  else if n = 0x21 then { t with tasid := v &&& crNamed 0x21 }
  else if n = 0x24 then { t with tvec := v &&& crNamed 0x24 }
  else if n = 0x25 then { t with saveptr := v &&& crNamed 0x25 }
  else if n = 0x26 then { t with epc := v &&& crNamed 0x26 }
  else if n = 0x27 then { t with estat := crMerge 2 t.estat v }
  else if n = 0x28 then { t with deleg := v &&& delegMask }
  else t

/-- A HINVCTL write with GO: the host's invalidation performed, DONE cleared until it is complete (R409). -/
def State.hostInval (s : State) (v : W64) : State :=
  let x := v.toNat
  let s1 := s.withRegs { s.regs with hinvctl := BitVec.ofNat 64 (x % 2 ^ 18) }
  s1.tlbInv (bitsOf x 16 2) (bitsOf x 0 16) s.regs.hinvaddr.toNat s.regs.hinvlen.toNat

/-- What a write of a control register that is not refused does (R354). `key` is the task whose registers are meant. -/
def State.crPut (s : State) (key : Option Nat) (n : Nat) (v : W64) : State :=
  let gid := ((key.bind s.task).map (·.gid)).getD 0
  if n = 0 ∨ n = 0x20 ∨ n = 0x21 ∨ (0x24 ≤ n ∧ n ≤ 0x2F) then
    match key with
    | some k => s.updTask k fun t => t.setCr n v
    | none => s
  else if n = 0x10 then s.setCsmode gid v
  else if n = 0x11 then s.updGroup gid fun g => { g with evbase := v }
  else if n = 0x12 then s.updGroup gid fun g => { g with evcnt := v, sched := if v = 0 then [] else g.sched }
  else if n = 0x30 then s.replay v
  else if n = 0x35 then s.preemptRequest (bitsOf v.toNat 32 9) (bitsOf v.toNat 20 2) (v.getLsbD 22)
  else if n = 0x40 then (s.withRegs { s.regs with xltctl := v &&& crNamed 0x40 }).xltAll
  else if n = 0x302 then
    if v.getLsbD 0 ∨ v.getLsbD 1 then
      (s.withRegs { s.regs with ststat := s.regs.ststat ||| 1 }).withNets { s.nets with stitchReq := some (v.getLsbD 0) }
    else s
  else if n = 0x306 then
    (s.withRegs { s.regs with cgctl := v &&& crNamed 0x306, cgstat := cgStart s.regs v }).withChip { s.chip with measured := false }
  else if n = 0x507 then
    if v.getLsbD 63 then s.hostInval v
    else s.withRegs { s.regs with hinvctl := BitVec.ofNat 64 (v.toNat % 2 ^ 18 + 2 ^ 62) }
  else if n = 0x524 then
    if v.getLsbD 0 then s.withRegs { s.regs with attctl := 0 } else s
  else s.withRegs (setPlain s.regs n v)

-- Accesses of the host through BAR0 (R403, R404). ----------------------------------------------------------------

/-- A write of a control register that is not refused, performed (R354), with the hoisted loads of the register's place in the
control-register region that it removes (R92, R247). -/
def State.crApply (s : State) (key : Option Nat) (n : Nat) (v : W64) : State :=
  let s1 := s.crPut key n v
  s1.withTasks (unhoist (key.map fun k => k / 4) (0x081000000000 + 8 * n) 8 s1.tasks)

/-- The parked task of a context slot, one whose save could not be written among them (R333, R348). -/
def parkedTask (s : State) (k : Nat) : Option Task :=
  match s.task k with
  | some t => match t.run with | .parked _ _ => some t | .saving => some t | _ => none
  | none => none

/-- The key of the parked task that HCTXSEL names (R404). -/
def hostTask (s : State) : Option Nat :=
  let x := s.regs.hctxsel
  let k := taskKey (bitsOf x.toNat 32 9) (bitsOf x.toNat 0 2)
  if x.getLsbD 63 && (parkedTask s k).isSome then some k else none

/-- What HERR receives for a register number that no rule assigns (R36, R354, R403). -/
def crUnassignedWord (n : Nat) : W64 := BitVec.ofNat 64 (2 + n % 256 * 2 ^ 32 + 5 * 2 ^ 40)

/-- What an access of the host comes to (R403, R404): the word for HERR, or the task whose registers are meant. -/
def hostReach (s : State) (n : Nat) : Except W64 (Option Nat) :=
  if n ≥ 4096 ∨ !crAssigned n then .error (crUnassignedWord n)
  else if crOfTask n then
    match hostTask s with
    | some k => .ok (some k)
    | none => .error (BitVec.ofNat 64 (2 ^ 63 + n))
  else .ok none

/-- What the host reads (R403): the value goes to the host. -/
def State.hostRead (s : State) (n : Nat) : State :=
  let out (v : W64) (x : State) : State := x.withNotes { x.notes with hostOut := some v }
  match hostReach s n with
  | .error w => out 0 (s.withRegs { s.regs with herr := w })
  | .ok k => out (crRead s none ((k.bind s.task).getD {}) n) s

/-- Whether an atom of a task has begun and is not committed (R364, R372). -/
def atomRuns (t : Task) : Bool := waitsAtomic t || inAtom t

/-- Whether a write of a control register must wait for accesses or atoms under way (R253, R260, R370, R372). -/
def crWaits (s : State) (t : Task) (n : Nat) (v : W64) : Bool :=
  (n == 0x40 && s.tasks.any fun e => atomRuns e.2) ||
  (n == 0x10 && (banksChanged (s.group t.gid) v).any (bankBusy s t.gid)) ||
    (match windowShut s n v with | some w => aliasBusy s w | none => false)

/-- The task whose registers a write of the host means, where its slot still holds it parked (R404); of a device-wide register,
none in particular. -/
def hostMeant (s : State) (e : HostWrite) : Option Task :=
  match e.key with
  | none => some {}
  | some k => (parkedTask s k).filter fun t => t.uid == e.uid

/-- A write of the host performed as `cr.wr` at supervisor privilege, with the word of a refusal in HERR (R403), the table of a
schedule read with that privilege (R254); or, where it must wait (R253, R260), the answers of apertures that it needs. -/
def State.hostTry (s : State) (e : HostWrite) : Except (List Nat) State :=
  let err (w : W64) : Except (List Nat) State := .ok (s.withRegs { s.regs with herr := w })
  match hostMeant s e with
  | none => err (BitVec.ofNat 64 (2 ^ 63 + e.num))
  | some u =>
    let t := { u with estat := u.estat ||| 1, answers := e.answers }
    if crRefused s t e.num e.value then err (crWord e.num)
    else if e.num = 0x12 ∧ e.value ≠ 0 then
      let core := e.key.getD 0 / 4
      let x := loadStaged s t (scheduleTable (s.group t.gid)) (schedulePlaces s core t e.value.toNat)
      match x.fault, schedulePlaces s core t e.value.toNat, loadSchedule s core t e.value.toNat with
      | some f, _, _ => err f.word
      | none, .error f, _ => err f.word
      | none, .ok r, l =>
        let need := needPlaced s e.answers r.1
        if need ≠ [] then .error need
        else
          match l with
          | .error f => err f.word
          | .ok l => .ok (((s.sawPlaces s r.2 r.1).crApply e.key e.num e.value).updGroup t.gid fun g => { g with sched := l })
    else if crWaits s t e.num e.value then .error []
    else .ok (s.crApply e.key e.num e.value)

/-- Whether an older write of the host to the same register of the same context still waits. -/
def hostBehind (s : State) (e : HostWrite) : Bool :=
  (s.notes.hostWrites.takeWhile fun x => x != e).any fun x => x.key == e.key && x.num == e.num

/-- What the host writes (R403). A write that must wait is held until it need not (R253, R260). -/
def State.hostWrite (s : State) (n : Nat) (v : W64) : State :=
  match hostReach s n with
  | .error w => s.withRegs { s.regs with herr := w }
  | .ok k =>
    let r := s.fresh
    let e : HostWrite := { ident := r.1, key := k, uid := ((k.bind s.task).map (·.uid)).getD 0, num := n, value := v }
    let held (x : State) : State := x.withNotes { x.notes with hostWrites := x.notes.hostWrites ++ [e] }
    if hostBehind s e then held r.2
    else
      match s.hostTry e with
      | .ok x => x
      | .error l => (held r.2).askOutside { uid := r.1 } false l

/-- The writes of the host that were held and need wait no longer are performed, oldest first (R253, R260). -/
def State.hostRetry (s : State) : State :=
  s.notes.hostWrites.foldl (fun (x : State) e =>
    if hostBehind x e then x
    else
      match (x.withNotes { x.notes with hostWrites := x.notes.hostWrites.erase e }).hostTry e with
      | .ok y => y
      | .error l => x.askOutside { uid := e.ident } false l) s

/-- A write of a control register by a party (R354, R403): the host through BAR0, or a task whose `cr.wr` commits. -/
def State.writeCr (s : State) (who : Party) (n : Nat) (v : W64) : State :=
  match who with
  | .host => s.hostWrite n v
  | .task c sl =>
    match s.task (taskKey c sl) with
    | none => s
    | some t =>
      if !crAssigned n || crRefused s t n v || !(t.sup || crOpen n true) then s
      else if n = 0x12 ∧ v ≠ 0 then
        match schedulePlaces s c t v.toNat, loadSchedule s c t v.toNat with
        | .ok q, .ok r => ((s.sawPlaces s q.2 q.1).crApply (some (taskKey c sl)) n v).updGroup t.gid fun g => { g with sched := r }
        | _, _ => s
      else s.crApply (some (taskKey c sl)) n v

end Sys2Proof.Machine
end

