-- ==== Sys2Proof/Machine/Fetch.lean ====
section
/-! DEFINITION. Fetching a bundle: the header and region table of a code object, its signature, the translation cache, the
faults of the code fetch (02 R52 to R54, 11 R204, 16 R288, 20 R362 to R373). -/

namespace Sys2Proof.Machine

/-- The context of the Skiver's code fetch for a task (R288): requester 3. -/
def fetchCodeCtx (core : Nat) (t : Task) : Ctx := { slotCtx core t with req := 3, slotL := false }

/-- `n` bytes of code read in a context: the number read, its places, the walks, the units of apertures still needed; or a
fault. -/
def codeReadIn (s : State) (c : Ctx) (t : Task) (va : W64) (n : Nat) :
    Except TrapInfo (Nat × List (Nat × Nat × W64) × List TlbEntry × List Nat) :=
  match placeAll s c .exec (piecesOf va n) with
  | .error e => .error e
  | .ok q =>
    match peerFault s (some va) q.1, poisonFault s (some va) q.1 with
    | some e, _ => .error e
    | none, some e => .error e
    | none, none => .ok (readPlaced s t.answers q.1, q.1, q.2, needPlaced s t.answers q.1)

/-- A code fetch of `n` bytes by the Skiver. -/
def codeRead (s : State) (core : Nat) (t : Task) (va : W64) (n : Nat) :
    Except TrapInfo (Nat × List (Nat × Nat × W64) × List TlbEntry × List Nat) := codeReadIn s (fetchCodeCtx core t) t va n

/-- *translation fault* with a reason (R368). -/
def translationFault (reason : Nat) : TrapInfo := { cause := .translation, word := BitVec.ofNat 64 reason }

/-- A field of a code object's header. -/
def hdr (h o n : Nat) : Nat := bitsOf h (8 * o) (8 * n)

/-- Whether a header breaks R52. -/
def codeHeaderBad (h : Nat) : Bool :=
  let signed := hdr h 6 2 % 2 == 1
  hdr h 0 4 != 0x3146504C || hdr h 4 2 != 1 || decide (hdr h 6 2 > 1) || hdr h 0x10 4 % 64 != 0 || hdr h 0x14 4 % 4 != 0 ||
    hdr h 0x18 4 % 64 != 0 || (hdr h 0x18 4 == 0 && hdr h 0x1C 4 != 0) || hdr h 0x20 4 % 8 != 0 || hdr h 0x24 2 == 0 ||
    hdr h 0x26 2 != 0 || hdr h 0x28 4 % 16 != 0 || hdr h 0x2E 2 != 0 || hdr h 0x38 8 != 0 ||
    (if signed then
      hdr h 0x34 4 != 3309 || decide (hdr h 0x10 4 + hdr h 0x14 4 > hdr h 0x30 4) ||
        decide (hdr h 0x18 4 + hdr h 0x1C 4 > hdr h 0x30 4) || decide (hdr h 0x20 4 + 8 * hdr h 0x24 2 > hdr h 0x30 4) ||
        decide (hdr h 0x28 4 + 16 * hdr h 0x2C 2 > hdr h 0x30 4)
    else hdr h 0x30 4 != 0 || hdr h 0x34 4 != 0)

/-- The regions of a table (R53): start offset, length, whether exposed. -/
def regionsOf (raw n : Nat) : List (Nat × Nat × Bool) :=
  (List.range n).map fun i => (bitsOf raw (64 * i) 32, bitsOf raw (64 * i + 32) 31, bitsOf raw (64 * i + 63) 1 == 1)

/-- Whether the entries of a region table rise and do not overlap (R53). -/
def regionsOk : List (Nat × Nat × Bool) → Bool
  | a :: b :: l => decide (a.1 < b.1) && decide (a.1 + a.2.1 ≤ b.1) && regionsOk (b :: l)
  | _ => true

/-- The 4 KiB pages of placed pieces. -/
def pagesOf (l : List (Nat × Nat × W64)) : List Nat := (l.map fun p => p.1 / 4096 * 4096).eraseDups

/-- Words of a bundle from an address on: up to the first with S = 1, at most four; `room` bytes of code are left. The
words with their physical addresses; `none` where the code ends first (R12, R30, R368). -/
def bundleWords (s : State) (core : Nat) (t : Task) : Nat → W64 → Nat →
    Except TrapInfo (Option (List (Nat × Nat)) × List TlbEntry × List Nat)
  | 0, _, _ => .ok (some [], [], [])
  | k + 1, va, room =>
    if room < 4 then .ok (none, [], [])
    else
      match codeRead s core t va 4 with
      | .error e => .error e
      | .ok (w, places, fills, need) =>
        if w / 2 ^ 31 % 2 = 1 ∨ need ≠ [] then .ok (some [(w, (places.head?.map (·.1)).getD 0)], fills, need)
        else
          match bundleWords s core t k (va + 4) (room - 4) with
          | .error e => .error { e with fills := fills ++ e.fills }
          | .ok (r, f, n) => .ok (r.map fun l => (w, (places.head?.map (·.1)).getD 0) :: l, fills ++ f, n)

-- Code objects (R52 to R54, R369). ------------------------------------------------------------------------------

/-- The region that holds an offset of the code: start and end offsets and mode. -/
def regionHolding (l : List (Nat × Nat × Bool)) (o : Nat) : Option (Nat × Nat × Bool) :=
  l.find? fun r => decide (r.1 ≤ o) && decide (o < r.1 + r.2.1)

/-- Bytes of an object by its header: up to the last byte of any of its parts. -/
def objectSize (h : Nat) : Nat :=
  [64, hdr h 0x10 4 + hdr h 0x14 4, hdr h 0x18 4 + hdr h 0x1C 4, hdr h 0x20 4 + 8 * hdr h 0x24 2, hdr h 0x28 4 + 16 * hdr h 0x2C 2,
    hdr h 0x30 4 + hdr h 0x34 4].foldl max 0

/-- The physical pages of an object that its task's translation maps. -/
def objectPages (s : State) (core : Nat) (t : Task) (h : Nat) : List Nat :=
  ((piecesOf t.code (objectSize h)).filterMap fun p =>
    match translate s (fetchCodeCtx core t) .exec p.1 with
    | .ok r => some (r.pa / 4096 * 4096)
    | .error _ => none).eraseDups

/-- An object as its header and region table give it, read now: with the walks and the places read; or the units of apertures
that the reads wait for (R52, R53). -/
def readObject (s : State) (core : Nat) (t : Task) (pa : Nat) :
    Except TrapInfo (Sum (CodeObj × List TlbEntry × List (Nat × Nat × W64)) (List Nat)) :=
  match codeRead s core t t.code 64 with
  | .error e => .error e
  | .ok (h, places, fills, need) =>
    let bad : CodeObj :=
      { pa := pa, pages := pagesOf places, objid := BitVec.ofNat 64 (hdr h 8 8), off := hdr h 0x10 4, size := hdr h 0x14 4, ok := false }
    if need ≠ [] then .ok (.inr need)
    else if codeHeaderBad h then .ok (.inl (bad, fills, places))
    else
      match codeRead s core t (t.code + BitVec.ofNat 64 (hdr h 0x20 4)) (8 * hdr h 0x24 2) with
      | .error e => .error { e with fills := fills ++ e.fills }
      | .ok (raw, places2, fills2, need2) =>
        if need2 ≠ [] then .ok (.inr need2)
        else
          let r := regionsOf raw (hdr h 0x24 2)
          .ok (.inl ({ bad with pages := objectPages s core t h, ok := regionsOk r, regions := r }, fills ++ fills2, places ++ places2))

/-- The code object of a task: as it was first judged, kept by the physical address of its header, else read now (R54). -/
def codeObject (s : State) (core : Nat) (t : Task) :
    Except TrapInfo (Sum (CodeObj × List TlbEntry × List (Nat × Nat × W64)) (List Nat)) :=
  match place s (fetchCodeCtx core t) .exec 4 t.code with
  | .error e => .error e
  | .ok p =>
    match s.sky.objs.find? fun o => o.pa == p.pa with
    | some o => .ok (.inl (o, p.fills, []))
    | none => readObject s core t p.pa

/-- A state in which an object is kept. -/
def State.keepObject (s : State) (o : CodeObj) : State :=
  if s.sky.objs.any fun x => x.pa == o.pa then s else s.withSky { s.sky with objs := s.sky.objs ++ [o] }

/-- The signature result of an object (R369): kept by the physical address of its header, else worked out now, with the walks and
the places read; or the units of apertures that the reads wait for. -/
def sigCheck (s : State) (core : Nat) (t : Task) (pa : Nat) :
    Except TrapInfo (Sum (SigRes × List TlbEntry × List (Nat × Nat × W64)) (List Nat)) :=
  match s.sky.sigs.find? fun r => r.pa == pa with
  | some r => .ok (.inl (r, [], []))
  | none =>
    match codeRead s core t t.code 64 with
    | .error e => .error e
    | .ok (h, places, fills, need) =>
      let r : SigRes := { pa := pa, pages := objectPages s core t h, good := false }
      if need ≠ [] then .ok (.inr need)
      else if hdr h 6 2 % 2 = 0 then .ok (.inl (r, fills, places))
      else
        let n := hdr h 0x30 4
        match codeRead s core t t.code n, codeRead s core t (t.code + BitVec.ofNat 64 n) 3309 with
        | .error e, _ => .error { e with fills := fills ++ e.fills }
        | .ok m, .error e => .error { e with fills := fills ++ m.2.2.1 ++ e.fills }
        | .ok m, .ok g =>
          let need2 := m.2.2.2 ++ g.2.2.2
          if need2 ≠ [] then .ok (.inr need2)
          else
            let ok := Config.verifies 1 (natBytes (Config.shake256 (natBytes m.1 n)).toNat 64) (natBytes g.1 3309)
            .ok (.inl ({ r with good := ok }, fills ++ m.2.2.1 ++ g.2.2.1, places ++ m.2.1 ++ g.2.1))

/-- A state in which a signature result is kept. -/
def State.keepSig (s : State) (r : SigRes) : State :=
  if s.sky.sigs.any fun x => x.pa == r.pa then s else s.withSky { s.sky with sigs := s.sky.sigs ++ [r] }

-- The translation cache (R362, R368, R373). ----------------------------------------------------------------------

/-- Whether a translation is pinned (R373): a word of its bundle is. -/
def xltPinned (s : State) (e : XEntry) : Bool :=
  s.sky.pins.any fun p => p.die == e.die && p.objid == e.objid && rangeMeets e.va (4 * e.words.length) p.va 1

/-- Whether pinned translations of a die leave no room for another in its 2 MiB (R362, R368). -/
def noRoom (s : State) (e : XEntry) : Bool :=
  let l := s.sky.xlat.filter fun x => x.die == e.die && xltPinned s x
  l != [] && decide ((l ++ [e]).foldl (fun a x => a + Config.xlatBytes x.shape x.words) 0 > 2 ^ 21)

/-- Whether two entries have the same key on the same die (R362). -/
def sameKey (a b : XEntry) : Bool :=
  a.die == b.die && a.objid == b.objid && a.va == b.va && a.shape == b.shape && a.exposed == b.exposed

/-- A translation put into the cache for that with its key. -/
def State.cacheBundle (s : State) (e : XEntry) : State :=
  match s.sky.xlat.find? (sameKey e) with
  | some x => let k := s.sky.dropEntry x; s.withSky { k with xlat := k.xlat ++ [e] }
  | none => s.withSky { s.sky with xlat := s.sky.xlat ++ [e] }

/-- What fetching a bundle comes to: the bundle, with the state and the task after it; the units of apertures it waits
for; or a fault of the code fetch, the address of the bundle it names, and the state with what the fetch has judged. -/
abbrev Fetched := Except (TrapInfo × W64 × State) (Sum (State × Task × Bundle) (List Nat))

/-- The task that issues a bundle of its code. The writes in flight become visible where the mode changes, but for the first
bundle after a trap entry or an `rfe` (R22, R334, R351). -/
def Task.opens (t : Task) (objid : W64) (b : Bundle) : Task :=
  let t1 := if b.exposed != t.exposed && !t.keepMode then t.landAll else t
  { t1 with pc := b.addr, entry := none, objid := some objid, exposed := b.exposed, keepMode := false }

/-- The bundle of a task from words that its translation holds. -/
def startBundle (s : State) (t : Task) (slot : Nat) (pc objid : W64) (e : XEntry) : State × Task × Bundle :=
  let b : Bundle :=
    { live := true, slot := slot, addr := pc, next := pc + BitVec.ofNat 64 (4 * e.words.length), exposed := e.exposed,
      region := e.region, code := e.words, words := e.words, staged := [], sel := e.sel }
  (s, t.opens objid b, b)

/-- The words of a bundle of a kept object translated (R12, R30, R362, R368): its bounds, its words, room in the cache. `s` keeps
the object. -/
def translateWords (s : State) (core slot : Nat) (t : Task) (o : CodeObj) (pc : W64) (signed : Bool) : Fetched :=
  let at0 := (pc.toNat + 2 ^ 64 - t.code.toNat - o.off) % 2 ^ 64
  if at0 ≥ o.size then .error (translationFault 4, pc, s)
  else
    match bundleWords s core t 4 pc (o.size - at0) with
    | .error e => .error (e, pc, s)
    | .ok (none, _, _) => .error (translationFault 4, pc, s)
    | .ok (some l, fills3, need) =>
      if need ≠ [] then .ok (.inr need)
      else
        let r := regionHolding o.regions at0
        let base := t.code.toNat + o.off
        let e : XEntry :=
          { die := dieOf core, objid := o.objid, va := pc.toNat, shape := shapeOf (s.core core), exposed := (r.map (·.2.2)).getD false,
            words := l.map (·.1), pas := l.map (·.2), region := r.map fun q => (base + q.1, base + q.1 + q.2.1), signed := signed,
            tier1 := hintOf s.sky (dieOf core) o.objid pc.toNat == .tier1 && s.regs.xltctl.getLsbD 1 }
        let s2 := s.sawPlaces s fills3 (l.map fun w => (w.2, 4, 0))
        if noRoom s e then .error (translationFault 3, pc, s2)
        else .ok (.inl (startBundle (s2.cacheBundle e) t slot pc o.objid e))

/-- A bundle translated from its code object (R54, R362, R368, R369): header, region table, signature, bounds, words, in
this order. A header that the Skiver has not judged yet is judged at the first bundle of its object. -/
def translateBundle (s : State) (core slot : Nat) (t : Task) : Fetched :=
  let at0 := match t.entry with | some e => t.code + BitVec.ofNat 64 e | none => t.pc
  match codeObject s core t with
  | .error e => .error (e, at0, s)
  | .ok (.inr need) => .ok (.inr need)
  | .ok (.inl (o, fills, places)) =>
    let pc := match t.entry with | some e => t.code + BitVec.ofNat 64 (o.off + e) | none => t.pc
    let s1 := (s.keepObject o).sawPlaces s fills places
    if !o.ok then .error (translationFault 1, pc, s1)
    else if !s.regs.xltctl.getLsbD 0 then translateWords s1 core slot t o pc false
    else
      match sigCheck s1 core t o.pa with
      | .error e => .error (e, pc, s1)
      | .ok (.inr need) => .ok (.inr need)
      | .ok (.inl (r, fills2, places2)) =>
        let s2 := (s1.keepSig r).sawPlaces s fills2 places2
        if r.good then translateWords s2 core slot t o pc true else .error (translationFault 2, pc, s2)

/-- Whether a translation has the schedule mode of its bundle (R53, R362): that of the object as the Skiver keeps it, where it
keeps it still. -/
def modeHolds (s : State) (t : Task) (e : XEntry) (pa : Nat) : Bool :=
  match s.sky.objs.find? fun o => o.pa == pa with
  | some o =>
    ((regionHolding o.regions ((e.va + 2 ^ 64 - t.code.toNat - o.off) % 2 ^ 64)).map (·.2.2)).getD false == e.exposed
  | none => true

/-- The cached translation that the next bundle of a task hits: same die, object, address, shape and mode, not evicted (R362,
R368, R373). -/
def cachedBundle (s : State) (core : Nat) (t : Task) : Option (W64 × XEntry) :=
  match t.objid, t.entry with
  | some o, none =>
    let header := match place s (fetchCodeCtx core t) .exec 4 t.code with | .ok p => some p.pa | .error _ => none
    (s.sky.xlat.find? fun e => e.die == dieOf core && e.objid == o && e.va == t.pc.toNat && e.shape == shapeOf (s.core core) &&
      (match header with | some pa => modeHolds s t e pa | none => true) &&
      (xltPinned s e || !Config.xlatEvicted s.draws)).map fun e => (o, e)
  | _, _ => none

/-- The next bundle of a task fetched (R362): a hit needs the current translation of its address to give the recorded
physical address. -/
def fetchBundle (s : State) (core slot : Nat) (t : Task) : Fetched :=
  match cachedBundle s core t with
  | some (o, e) =>
    match place s (fetchCodeCtx core t) .exec 4 t.pc with
    | .error i => .error (i, t.pc, s)
    | .ok r =>
      let s1 := s.cacheFills r.fills
      if e.pas.head? = some r.pa then .ok (.inl (startBundle s1 t slot t.pc o e)) else translateBundle s1 core slot t
  | none => translateBundle s core slot t

/-- The address after the last of `n` bundles from an address, counted by stop bits (R98); none where the code bytes
before `stop` end first; or the units of apertures its reads wait for. Every bundle has at most four slots. -/
def bodyEnd (s : State) (core : Nat) (t : Task) (stop : Nat) : Nat → W64 → Except TrapInfo (Sum (Option W64) (List Nat))
  | 0, va => .ok (.inl (some va))
  | n + 1, va =>
    match bundleWords s core t 4 va (stop - va.toNat) with
    | .error e => .error e
    | .ok (none, _, _) => .ok (.inl none)
    | .ok (some l, f, need) =>
      if need ≠ [] then .ok (.inr need)
      else
        match bodyEnd s core t stop n (va + BitVec.ofNat 64 (4 * l.length)) with
        | .error e => .error { e with fills := f ++ e.fills }
        | r => r

/-- The places of the code from one address to another and the walks to them, where it can be read. -/
def codePlaces (s : State) (core : Nat) (t : Task) (va stop : W64) : List (Nat × Nat × W64) × List TlbEntry :=
  match placeAll s (fetchCodeCtx core t) .exec (piecesOf va (stop - va).toNat) with
  | .ok q => q
  | .error _ => ([], [])

end Sys2Proof.Machine
end

