-- ==== Sys2Proof/Machine/Commit.lean ====
section
/-! DEFINITION. A bundle brought to its end: the checks of R35 over the whole bundle, the deciding fault, what it waits for,
and its commit; gangs; the meaning shared by every slot (01 R10 to R25, 02 R35 to R37, 04 R94 to R103, 12 R227, R239 to R245,
19 R332 to R336). -/

namespace Sys2Proof.Machine

-- What a bundle waits for (R213, R239, R324). --------------------------------------------------------------------

/-- Whether a started command moves bytes into ring or stream `n` of a task: linear side in space `sp` (R308, R309). -/
def targeted (s : State) (key sp n : Nat) : Bool :=
  s.cores.any fun e => e.2.ch.toList.any fun h => h.active.any fun a =>
    let b := lBase a.cmd.desc
    spaceOf b == sp && baseOffset b == n && memberKey s a.cmd.gid (baseTask b) == some key

/-- Whether a follow-on of a command, or an array operation, uses one of `n` banks of a task from `b` (R137, R156). -/
def banksBusy (s : State) (t : Task) (b n : Nat) : Bool :=
  t.arrayQ.any (usesBanks b n) ||
  s.cores.any fun e => e.2.ch.toList.any fun h =>
    let mine (c : Cmd) : Bool := c.uid == t.uid && (match c.follow.bind fun f => matrixKind f.word with
      | some k => usesBanks b n { kind := k.1, bank := c.bank }
      | none => false)
    h.queue.any mine || h.active.any fun a => mine a.cmd

/-- Whether a member of a gang holds at its `slv.end` (R245). -/
def holdsRoots (t : Task) : Bool := match t.stall with | some st => st.waits.contains .gangRoots | none => false

/-- Whether commands of a number below a bound wait or run on a channel, or their writes to an aperture are not acknowledged
(R320). -/
def channelBusy (s : State) (core ch bound : Nat) : Bool :=
  let c := (s.core core).chan ch
  c.queue.any (fun x => decide (x.cid < bound)) || c.active.any (fun a => decide (a.cmd.cid < bound)) ||
    s.nets.outside.any fun o => o.store.isSome && o.src.chan == some (core, ch) && decide (o.src.uid < bound)

/-- Whether commands of a task wait or run on either channel (R318). -/
def commandsLeft (s : State) (uid : Nat) : Bool :=
  s.cores.any fun e => e.2.ch.toList.any fun h => h.queue.any (fun c => c.uid == uid) || h.active.any fun a => a.cmd.uid == uid

/-- Whether a body that has read all its elements has only a ring, a stream or a FIFO bank still to write, which no page maps
(R251, R308, R309). -/
def onlyRoom (a : Active) : Bool :=
  a.elem == bodyElems a.cmd.desc && (a.buf.length ≤ a.landed || (!dirOf a.cmd.desc && decide (spaceOf (lBase a.cmd.desc) ≥ 3)))

/-- The bodies, by command and number, that have read elements whose bytes have not landed (R292). One that is stopped, or waits
for an entry of a FIFO bank, reads again from its first element (R323). -/
def bodiesMoving (s : State) : List (Nat × Nat) :=
  s.cores.flatMap fun e => e.2.ch.toList.flatMap fun h => h.active.filterMap fun a =>
    if a.state == .moving && (a.elem != 0 || a.buf != []) && !onlyRoom a then some (a.cmd.cid, a.body) else none

/-- The bundles, by task and contract cycle, that have translated bytes still to write: those whose write-backs stand in the array
queue (R154), but for one that a replay or a ring holds back, which translates its rows again, and those that commit when
their atomics are back (R279, R292). -/
def rowsQueued (s : State) : List (Nat × Nat) :=
  s.tasks.flatMap fun e =>
    (if waitsAtomic e.2 then [(e.2.uid, e.2.cycle)] else []) ++
      (if arrayFlows e.2 then e.2.arrayQ.filterMap fun o => if opWrites o != [] then some (e.2.uid, o.cyc) else none else [])

/-- Whether a wait of a task is met as far as the task itself goes, or ends in a trap that its slot raises when it runs again
(R237). -/
def ownMet (s : State) (core slot : Nat) (t : Task) : Wait → Bool
  | .flag f n =>
    let c := s.core core
    let first := match c.waiters.find? fun w => w.1 == f with | some w => w.2 == slot | none => true
    first && decide ((c.flag f).value ≥ n)
  | .barrier b p => let x := (s.group t.gid).barrier b; x.ovr || phaseDone x.phase p
  | .ringFull n need => decide ((t.ring n).full ≥ need) && !(t.arrayQ.any fun o => o.a.stuck || o.b.stuck)
  | .ringIdle n => (t.ring n).resv == [] && !targeted s (taskKey core slot) 3 n
  | .streamIdle z => (t.z[z]?.getD {}).resv == [] && !targeted s (taskKey core slot) 4 z
  | .stream z k =>
    let x := t.z[z]?.getD {}
    decide (x.present ≥ 256 * (k + 1)) || (x.closed && decide (x.present > 256 * k))
  | .banks b n => !banksBusy s t b n
  | .carried b n => !banksBusy s t b n && arrayFlows t
  | .fifoPush b i o => let x := s.bankOf t.gid b; decide (x.tail + i < x.head + o + 512)
  | .fifoPop b i o => let x := s.bankOf t.gid b; decide (x.head + o < x.tail + i)
  | .history => (s.core core).histOwner.isNone && !((reloadsOf s core).any (·.hist))
  | .channelRoom ch => decide (((s.core core).chan ch).queue.length < 32)
  | .drain ch bound => !channelBusy s core ch bound
  | .pub => !commandsLeft s t.uid
  | .queueRoom q => decide ((wrIdx s q + 2 ^ 64 - rdIdx s q) % 2 ^ 64 < queueCap s q)
  | .cadence n => decide (s.regs.tsc ≥ n)
  | .gangRoots => true
  | .arrayIdle => arrayFlows t
  | .bankIdle b n => !(t.arrayQ.any (usesBanks b n))
  | .arrayOwn => !(t.arrayQ.any ownMem)
  | .rows st sg l => !(t.arrayQ.any (opHolds s core t st sg l))
  | .answer u => (mapGet u t.answers).isSome
  | .atomicBack => false
  | .atomsDone => !(s.tasks.any fun e => e.1 != taskKey core slot && atomRuns e.2)
  | .outside => !(s.nets.outside.any fun o => o.src.uid == t.uid)
  | .modeSwitch l => !l.any (bankBusy s t.gid)
  | .windowIdle w => !aliasBusy s w
  | .savePoint => t.arrayQ == [] && !transfersOf s t
  | .landed l w n =>
    (l.all fun b => !(bodiesMoving s).contains b) && (w.all fun b => !(rowsQueued s).contains b) &&
      !(s.nets.outside.any fun o => (o.store.isSome || o.atomic.isSome) && decide (o.ident < n))
  | .gang => false

/-- Whether a task holds at its `slv.end` and waits for nothing else there (R190, R245). -/
def rootsReady (s : State) (e : Nat × Task) : Bool :=
  holdsRoots e.2 && (match e.2.stall with
    | some st => st.waits.all fun w => w == .gang || ownMet s (e.1 / 4) (e.1 % 4) e.2 w
    | none => false)

/-- Whether a wait of a task is met: that for the roots of a gang once every member holds at its `slv.end` and waits for nothing
else (R245). -/
def waitMet (s : State) (core slot : Nat) (t : Task) (w : Wait) : Bool :=
  match w with
  | .gangRoots => holdsRoots t && (s.tasksOf t.gid).all (rootsReady s)
  | _ => ownMet s core slot t w

/-- The object code of a wait that runs under the wait timer (R240, R251, R324). -/
def waitCode : Wait → Option Nat
  | .flag f _ => some f
  | .barrier b _ => some (0x1000 + b)
  | .ringFull n _ => some (0x2000 + n)
  | .ringIdle n => some (0x2000 + n)
  | .streamIdle z => some (0x3000 + z)
  | .stream z _ => some (0x3000 + z)
  | .banks b _ => some (0x4000 + b)
  | .fifoPush b _ _ => some (0x5000 + b)
  | .fifoPop b _ _ => some (0x5000 + b)
  | .history => some 0xFFFF
  | .channelRoom ch => some (0x6000 + ch)
  | .drain ch _ => some (0x6000 + ch)
  | .pub => some 0x6002
  | .queueRoom _ => some 0xFFFD
  | .gangRoots => some 0xFFFC
  | _ => none

/-- The first wait of a stall that is not met. -/
def firstUnmet (s : State) (core slot : Nat) (t : Task) (l : List Wait) : Option Wait :=
  l.find? fun w => !waitMet s core slot t w

-- The checks of R35. ---------------------------------------------------------------------------------------------

/-- The slots of a class beyond the number a bundle may hold (R12): one control, tensor or sync-or-solve slot, two memory
slots. -/
def classLimit : Nat → Nat
  | 1 => 1 | 3 => 2 | 4 => 1 | 5 => 1 | _ => 4

/-- Whether slot `i` of a bundle breaks a rule of R12. -/
def breaksBundle (l : List Staged) (i : Nat) : Bool :=
  match l[i]? with
  | none => false
  | some x =>
    decide (((l.take i).filter fun y => y.cls == x.cls).length ≥ classLimit x.cls) ||
      (l.zipIdx.any fun y => y.2 != i && y.1.dests.any fun d => x.dests.contains d) ||
      (i == 3 && !x.stop)

/-- The latency of a register write (R18). -/
def latOf : Effect → Option Nat
  | .wr _ _ _ _ lat => some lat
  | .wrKeep _ _ _ _ lat => some lat
  | .wrPart _ _ _ lat _ => some lat
  | .fifoPop _ r lat => if r < 48 then some lat else none
  | .popStream _ r _ lat _ => if r < 48 then some lat else none
  | .counterTake r _ => if r < 48 then some 1 else none
  | _ => none

/-- The latencies of the register writes of a slot that count as in flight (R18, R23, R93). -/
def countedLats (exposed : Bool) (x : Staged) : List Nat := if !exposed then [] else x.effects.filterMap latOf

/-- Writes in flight after a bundle (R23). -/
def totalInFlight (t : Task) (exposed : Bool) (l : List Staged) : Nat := inFlightAfter t.pending (l.flatMap (countedLats exposed))

/-- Every check of R35 that slot `i` fails, those of the bundle among them. -/
def encFails (t : Task) (exposed : Bool) (l : List Staged) (i : Nat) : List EncFail :=
  match l[i]? with
  | none => []
  | some x =>
    let total := totalInFlight t exposed l
    x.encs ++ (if breaksBundle l i then undef 6 l.length 7 else []) ++
      (if total > 16 ∧ (countedLats exposed x).any (fun n => decide (n > 1)) then undef 0x10 total 7 else [])

/-- The cause of a step of R35. -/
def encCause : Nat → Cause
  | 1 => .undefinedEncoding | 2 => .noMicrocode | 3 => .physicalOnly | 4 => .privilege | _ => .undefinedEncoding

/-- The failing check with the lowest reason. -/
def leastReason : List EncFail → Option EncFail
  | [] => none
  | e :: l =>
    match leastReason l with
    | none => some e
    | some f => if f.reason < e.reason then some f else some e

/-- The number with the bits of the slots that meet a condition. -/
def maskOf (l : List Bool) : Nat := (l.zipIdx.map fun p => if p.1 then 2 ^ p.2 else 0).foldl (· + ·) 0

/-- The word of *undefined encoding* (R36). -/
def encWord (e : EncFail) : W64 := BitVec.ofNat 64 (e.reason + e.value % 256 * 2 ^ 32 + e.field % 8 * 2 ^ 40)

/-- The trap of R35 and its slot mask: the first step that a slot fails decides, and the lowest marked slot's lowest
reason gives the word (R35, R36). -/
def encTrap (t : Task) (exposed : Bool) (l : List Staged) : Option (TrapInfo × Nat) :=
  let fs := (List.range l.length).map (encFails t exposed l)
  match ((fs.flatMap id).map (·.step)).min? with
  | none => none
  | some k =>
    let mine := fs.map fun f => f.filter fun e => e.step == k
    let mask := maskOf (mine.map fun f => f != [])
    match (mine.find? fun f => f != []).bind leastReason with
    | some e => some ({ cause := encCause k, word := if k = 1 ∨ k = 5 then encWord e else 0 }, mask)
    | none => none

-- Faults (R11, R332). --------------------------------------------------------------------------------------------

/-- The flags of a bundle (R10). -/
def bundleFlags (l : List Staged) : BitVec 8 := l.foldl (fun a x => a ||| x.flags) 0

/-- The first failing check of a slot (R332): its fault, or *arithmetic exception* for a new enabled flag (R11). -/
def slotFault (t : Task) (l : List Staged) (x : Staged) : Option TrapInfo :=
  x.fault.or (if trapsFlag t.asw x.flags then
      some { cause := .arithmetic, word := (newFlags t.asw (bundleFlags l)).setWidth 64 } else none)

/-- The fault that decides and its mask: that of the lowest faulting slot, marked in every slot of the same cause (R332). -/
def faultTrap (t : Task) (l : List Staged) : Option (TrapInfo × Nat) :=
  let fs := l.map (slotFault t l)
  match fs.findSome? id with
  | none => none
  | some i => some (i, maskOf (fs.map fun f => match f with | some j => j.cause == i.cause | none => false))

-- Traps of bundles; gangs that stop (R220, R245, R336). ----------------------------------------------------------

/-- A member's finished bundle that has not committed with its gang is given up (R244); one at a `slv.end` goes on holding
(R245). -/
def Task.dropHeld (t : Task) : Task :=
  match t.stall with
  | some st =>
    if !st.waits.contains .gang then t
    else if st.waits.contains .gangRoots then
      { t with stall := some { st with bundle := { st.bundle with words := st.bundle.code, staged := [] },
                                       waits := st.waits.filter fun w => w != .gang } }
    else { t with stall := none }
  | none => t

/-- No member of a group holds a finished bundle any more (R244). -/
def State.dropGang (s : State) (gid : Nat) : State :=
  s.withTasks (s.tasks.map fun e => if e.2.gid == gid then (e.1, e.2.dropHeld) else e)

/-- The gang of a cadenced task stops with it (R220). -/
def State.stopWith (s : State) (t : Task) : State := if s.cadenced t then s.stopGang t.gid else s

/-- The other members of a gang that hold at their `slv.end` raise the same trap there (R245). -/
def State.trapRoots (s : State) (key gid : Nat) (i : TrapInfo) : State :=
  (s.tasksOf gid).foldl (fun (x : State) e =>
    if e.1 = key ∨ !holdsRoots e.2 then x
    else
      let t := e.2
      let core := e.1 / 4
      let slot := e.1 % 4
      let mask := match t.stall with
        | some st => (((st.waits.zip st.slots).find? fun w => w.1 == .gangRoots).map fun w => 2 ^ w.2).getD 0
        | none => 0
      x.park core slot t t.pc (recordOf t.tasid.toNat core slot 0 mask i false true false t.pc) 0) s

/-- A trap of the bundle being issued (R24, R333 to R336); a gang stops with it (R220), and a trap of R190 is every
member's (R245). -/
def State.trapBundle (s : State) (i : TrapInfo) (mask : Nat) : State :=
  match s.curTask with
  | none => s
  | some t =>
    let key := taskKey s.cur s.bundle.slot
    let roots := s.cadenced t && (i.cause == .solveCeiling || i.cause == .solveNumeric)
    let s1 := s.trap s.cur s.bundle.slot t i mask 0 false s.bundle.addr s.bundle.addr
    (if roots then s1.trapRoots key t.gid i else s1).stopWith t

-- Effects (R14). -------------------------------------------------------------------------------------------------

/-- A register write in flight, counted from the bundle that issues it; in an interlocked function every result is
visible to the next bundle (R17, R18).
A write of a vector register none of whose lanes is active still ends the tracking of a hoisted load (log entry 65). -/
def Task.addWrite (t : Task) (keep : Bool) (file : RegFile) (reg : Nat) (mask : BitVec 256) (v : VReg) (lat : Nat) : Task :=
  let l := if t.exposed then lat else 1
  let t1 := { t with pending := t.pending ++ [{ file := file, reg := reg, mask := mask, val := v, left := l }] }
  if keep then t1
  else
    match file with
    | .g => { t1 with atab := dropHoisted false reg t1.atab }
    | .v => { t1 with atab := dropHoisted true reg t1.atab }
    | _ => t1

/-- A vector register write in flight of elements smaller than a byte (R114, R182). -/
def Task.addPart (t : Task) (reg : Nat) (mask : BitVec 256) (v : VReg) (lat : Nat) (part : Part) : Task :=
  let l := if t.exposed then lat else 1
  { t with pending := t.pending ++ [{ file := .v, reg := reg, mask := mask, val := v, left := l, part := part }],
           atab := dropHoisted true reg t.atab }

/-- An entry of the address table entered: it replaces one for its register; the oldest of 16 makes room (R91). -/
def Task.enterHoist (t : Task) (e : ATEntry) : Task :=
  let l := dropHoisted e.vec e.reg t.atab
  let l1 := if l.length ≥ 16 then l.drop 1 else l
  { t with atab := l1 ++ [e] }

/-- The bytes a pop takes from a stream: 256, or those left in a closed one (R131). -/
def popBytes (z : Stream) : Nat := min 256 z.present

/-- The value a pop of a stream gives (R131). -/
def streamValue (s : State) (core : Nat) (t : Task) (z : Stream) : VReg :=
  let k := popBytes z
  let first := min k (z.size - z.head)
  let get (va n : Nat) : Nat :=
    match placeAll s (slotCtx core t) .read (piecesOf (BitVec.ofNat 64 va) n) with
    | .ok q => readPlaced s [] q.1
    | .error _ => 0
  BitVec.ofNat 2048 (get (z.base + z.head) first + 256 ^ first * get z.base (k - first))

/-- *uncorrectable error* for a pop of a stream whose bytes hold poison (R414). -/
def streamPoison (s : State) (core : Nat) (t : Task) (z : Stream) : Option TrapInfo :=
  let k := popBytes z
  let first := min k (z.size - z.head)
  let bad (va n : Nat) : Option TrapInfo :=
    match placeAll s (slotCtx core t) .read (piecesOf (BitVec.ofNat 64 va) n) with
    | .ok q => poisonFault s (some (BitVec.ofNat 64 va)) q.1
    | .error _ => none
  (bad (z.base + z.head) first).or (bad z.base (k - first))

/-- A stream after a pop (R131). -/
def streamPop (z : Stream) : Stream :=
  streamAdvance z.resv { z with head := if z.size = 0 then 0 else (z.head + popBytes z) % z.size, present := z.present - popBytes z }

/-- Commands of a task removed from a channel by `ecan`, counted (R321, R322). -/
def State.cancelCmds (s : State) (core slot ch tag : Nat) (all : Bool) : State :=
  match s.task (taskKey core slot) with
  | none => s
  | some t =>
    let h := (s.core core).chan ch
    let h1 := h.cancel t.uid tag all
    let n := h.queue.length - h1.queue.length
    let w := (t.chst[ch]?.getD 0).toNat
    let w1 := w - bitsOf w 24 8 * 2 ^ 24 + min 255 (bitsOf w 24 8 + n) * 2 ^ 24
    (s.updCore core fun c => c.setChan ch h1).setTask (taskKey core slot)
      { t with chst := t.chst.setIfInBounds ch (BitVec.ofNat 64 w1) }

/-- A command enters its channel (R297, R315): its own number, and for a collective its number among those of its task
with its GROUP and MASK. -/
def State.enqueue (s : State) (core ch : Nat) (c : Cmd) : State :=
  let n := s.fresh
  let key := (c.i0, collGroup c, collMask c)
  let g := s.group c.gid
  let seqNo := match g.colls.find? fun e => e.1 == key with | some e => e.2 | none => 0
  let c1 := { c with cid := n.1, seqNo := if c.op = 0x4C then seqNo else 0 }
  let s1 := n.2.updCore core fun k => k.setChan ch { k.chan ch with queue := (k.chan ch).queue ++ [c1] }
  if c.op = 0x4C then
    s1.setGroup c.gid { g with colls := (g.colls.filter fun e => e.1 != key) ++ [(key, seqNo + 1)] }
  else s1

/-- A packet enqueued on a queue at index `w` (R207): the slot is claimed, filled, and WRIDX advances; its dispatcher wakes
(R406). -/
def State.launchPacket (s : State) (q w data : Nat) : State :=
  ((s.store none (slotPa s q w) 128 data).setQueue q 0 ((w + 1) % 2 ^ 64)).wakeQueue q

/-- An effect that only changes the task.
An array operation of the bundle of an `slv.end` is queued behind the write of x_{k+1}, whatever the slots (log entry 65). -/
def taskEffect (e : Effect) (t : Task) : Task :=
  match e with
  | .wr fl r m v l => t.addWrite false fl r m v l
  | .wrKeep fl r m v l => t.addWrite true fl r m v l
  | .wrPart r m v l part => t.addPart r m v l part
  | .target n a => { t with t := t.t.setIfInBounds n { addr := a, valid := true } }
  | .loopOpen l => { t with loops := t.loops ++ [l] }
  | .setSel q v => { t with q := t.q.setIfInBounds q v }
  | .setDesc y d => { t with y := t.y.setIfInBounds y d }
  | .enter x => t.enterHoist x
  | .dropEntry vec r => { t with atab := dropHoisted vec r t.atab }
  | .setRing n r => { t with n := t.n.setIfInBounds n r }
  | .popRing n => { t with n := t.n.setIfInBounds n (ringPop (t.ring n)) }
  | .setStream z x => { t with z := t.z.setIfInBounds z x }
  | .popStream z r p l v =>
    let t1 := { t with z := t.z.setIfInBounds z (streamPop (t.z[z]?.getD {})) }
    if r < 48 then t1.addWrite false .v r p v l else t1
  | .alloc b n => (List.range n).foldl (fun (u : Task) i => { u.clean .a (b + i) with acc := u.acc.setIfInBounds (b + i) (some 0) }) t
  | .free b n => (List.range n).foldl (fun (u : Task) i => { u with acc := u.acc.setIfInBounds (b + i) none }) t
  | .arr op => { t with arrayQ := t.arrayQ ++ [op] }
  | .bankIs b v => t.setBank b v
  | .scl r c => { t with scl := t.scl ++ [{ since := t.cycle + 3, rows := r, cols := c }] }
  | .solve v => { t with slv := v }
  | .statClear ch =>
    { t with chst := t.chst.setIfInBounds ch 0 }
  | .lateFlags f => t.lateFlags (BitVec.ofNat 8 f)
  | _ => t

/-- The bypass latch that a destination code names takes a value in the lanes of a mask (R358); another code names none. -/
def State.setLatch (s : State) (core code : Nat) (m : Pred) (v : VReg) : State :=
  if 48 ≤ code ∧ code < 56 then
    s.updCore core fun c =>
      { c with latches := c.latches.setIfInBounds (code - 48) (mergeLanes m (c.latches[code - 48]?.getD 0) v) }
  else s

/-- One effect of a slot performed (R14). `slot` is the issuing context slot of core `core`. -/
def applyEffect (core slot : Nat) (s : State) (e : Effect) : State :=
  let k := taskKey core slot
  let gid := ((s.task k).map (·.gid)).getD 0
  let uid := ((s.task k).map (·.uid)).getD 0
  let objid := ((s.task k).bind (·.objid)).getD 0
  match e with
  | .store pa n v => (s.store (some core) pa n v).touchLines pa n
  | .outStore pa n v => (s.writeOut (some core) { uid := uid, launch := ((s.task k).map (·.launch)).getD 0 } pa n v).touchLines pa n
  | .fifoPush b v => s.fifoPush (some core) gid b v.toNat
  | .fifoPop b r lat =>
    let v := s.fifoHead gid b
    let s1 := s.fifoDrop gid b
    if r < 48 then s1.updTask k fun t => t.addWrite false .v r allLanes v lat else s1.setLatch core r allLanes v
  | .popStream _ r p _ v => (s.updTask k (taskEffect e)).setLatch core r p v
  | .histWrite i v => s.updCore core fun c => { c with hist := c.hist.setIfInBounds i v, histBad := c.histBad.filter fun n => n != i }
  | .histTake => s.updCore core fun c => { c with histOwner := some slot, hist := Vector.replicate 64 0, histBad := [] }
  | .histGive => s.updCore core fun c => { c with histOwner := none }
  | .post f n => s.post core f n
  | .postRemote d f n => s.sendPost core d f n ((s.task k).map (·.launch) |>.getD 0)
  | .take f n => s.updCore core fun c => c.setFlag f { c.flag f with value := (c.flag f).value - n }
  | .clearOvf f => s.updCore core fun c => c.setFlag f { c.flag f with ovf := false }
  | .barInit b n => s.barEvents gid b 1 [n] [] [] []
  | .barArrive b n r =>
    let p := (barJoin s gid b [] [n] [] []).base.phase
    let s1 := s.barEvents gid b 1 [] [n] [] []
    if r < 48 then s1.updTask k fun t => t.addWrite false .g r 0xFF (BitVec.ofNat 2048 p) 1 else s1
  | .barExpect b n r =>
    let p := (barJoin s gid b [] [] [] [n]).outcome.phase
    let s1 := s.barEvents gid b 1 [] [] [] [n]
    if r < 48 then s1.updTask k fun t => t.addWrite false .g r 0xFF (BitVec.ofNat 2048 p) 1 else s1
  | .cmd ch c => s.enqueue core ch c
  | .pub n =>
    let x := s.regs.pubs[n]?.getD {}
    s.withRegs { s.regs with pubs := s.regs.pubs.setIfInBounds n { x with ctl := x.ctl ^^^ 2 } }
  | .cancel ch tag all => s.cancelCmds core slot ch tag all
  | .launchAt q w d => s.launchPacket q w d
  | .crWrite n v => s.crApply (some k) n v
  | .tlbInv kind asid a len => s.tlbInv kind asid a len
  | .xltInval troot a len => s.xltInval troot a len
  | .xltPin pin a len => s.xltPin pin (dieOf core) objid a len
  | .xltHint m a len => s.xltHint m (dieOf core) objid a len
  | .ucode l => s.installUcode l
  | .ctxLoad parts => s.loadHandler core slot parts
  | .ctxLoadNew parts sl => s.loadNew core sl parts
  | .counterClear pa => s.counterClear pa
  | .windowFlags w f => s.windowFlags w (BitVec.ofNat 8 f)
  | .leadIs v => s.updGroup gid fun g => { g with lead := g.lead ++ [(((s.task k).map (·.cycle)).getD 0, v)] }
  | .schedule l => s.updGroup gid fun g => { g with sched := l }
  | .touch pa n => s.touchLines pa n
  | .captureSel v =>
    let mark (e : XEntry) : XEntry :=
      if e.die = dieOf core ∧ e.objid = objid ∧ e.va = s.bundle.addr.toNat then { e with sel := some v } else e
    let mates (e : Nat × W64 × Bundle) : Nat × W64 × Bundle :=
      if e.2.1 = objid ∧ e.2.2.addr = s.bundle.addr then (e.1, e.2.1, { e.2.2 with sel := some v }) else e
    (s.withSky { s.sky with xlat := s.sky.xlat.map mark }).updGroup gid fun g => { g with stream := g.stream.map mates }
  | .latch n m v => s.setLatch core (48 + n) m v
  | .hold n v => s.updCore core fun c => { c with holds := c.holds.setIfInBounds n v }
  | _ => s.updTask k (taskEffect e)

/-- The new value of an atomic and its flags (R279). -/
def atomNew (op : AtomOp) (old b d : Nat) : Nat × BitVec 8 :=
  match op with
  | .add => ((old + b) % 2 ^ 64, 0)
  | .addf => fAdd .f64 false old b
  | .min => (if toSigned 64 b < toSigned 64 old then b else old, 0)
  | .max => (if toSigned 64 b > toSigned 64 old then b else old, 0)
  | .conj => (old &&& b, 0)
  | .disj => (old ||| b, 0)
  | .xor => (old ^^^ b, 0)
  | .xchg => (b, 0)
  | .cas => (if old = d then b else old, 0)

/-- The lanes of an atomic performed in order on memory: the stores, the old values packed in their lanes, the lanes
written, the flags (R279, R280). -/
def atomicRun (op : AtomOp) : List Host.Cell → List (Nat × Nat × Nat × Nat) → List Effect × Nat × Nat × BitVec 8
  | _, [] => ([], 0, 0, 0)
  | m, (pa, i, b, d) :: l =>
    let old := memNat m pa 8
    let x := atomNew op old b d
    let r := atomicRun op (memPut pa x.1 8 m) l
    (.store pa 8 x.1 :: r.1, old * 256 ^ (8 * i) + r.2.1, 255 * 2 ^ (8 * i) + r.2.2.1, x.2 ||| r.2.2.2)

/-- An atomic turned into what it does to memory as it stands before its bundle commits, a counter and a queue read as they are
then (R13, R207, R296); another effect as it is. -/
def resolveAtomic (s : State) : Effect → List Effect
  | .atomic op l d vec =>
    let r := atomicRun op s.mem l
    r.1 ++ (if vec then wrV d 1 (BitVec.ofNat 256 r.2.2.1) (BitVec.ofNat 2048 r.2.1) else wrG d 1 (BitVec.ofNat 64 r.2.1)) ++
      [.lateFlags r.2.2.2.toNat]
  | .counterTake r pa => wrG (BitVec.ofNat 6 r) 1 (counterWord s pa) ++ [.counterClear pa]
  | .launch q d => [.launchAt q (wrIdx s q) d]
  | e => [e]

/-- Whether a write of a control register comes after everything else of its bundle: a REPLAY, which goes on with accesses of
other parties (R340), and the registers that effects of sibling slots read as before the bundle: CSMODE, CTRBASE, QTBASE (R13).
-/
def lateRegister (n : Nat) : Bool := n == 0x30 || n == 0x10 || n == 0x22 || n == 0x504

/-- When an effect is performed within its commit: entries of hoisted loads before the stores of the bundle remove any (R92,
item 1); removals of translations next, by registers and page tables from before the bundle (R13); flags that never trap after a
write of the ASW (R75), and late registers, after everything else. -/
def phaseOf : Effect → Nat
  | .enter _ => 0
  | .tlbInv _ _ _ _ => 1
  | .xltInval _ _ _ => 1
  | .lateFlags _ => 3
  | .crWrite n _ => if lateRegister n then 3 else 2
  | _ => 2

/-- Effects in the order of their phases, within a phase in slot order (R14). -/
def inPhases (l : List Effect) : List Effect := (List.range 4).flatMap fun p => l.filter fun e => phaseOf e == p

/-- The physical range that an effect stores to. -/
def storeRange : Effect → Option (Nat × Nat)
  | .store pa n _ => some (pa, n)
  | .outStore pa n _ => some (pa, n)
  | _ => none

/-- The bytes of memory that an effect stores to, as they stand before its bundle. -/
def bytesBefore (s : State) : Effect → List (Nat × Byte)
  | .store pa n _ => (List.range n).map fun i => (pa + i, memGet s.mem (pa + i))
  | _ => []

/-- An array operation among the effects of its bundle: its fetch reads what the sibling stores overwrite as it was before
(R13, R146), and its own stores come before those of later slots (R14, R154). `all` holds the bundle's effects. -/
def besideStores (s : State) (all : List Effect) : List Effect → List Effect
  | [] => []
  | .arr op :: l =>
    .arr { op with before := all.flatMap (bytesBefore s), kept := l.filterMap storeRange } :: besideStores s all l
  | e :: l => e :: besideStores s all l

/-- The effects of a bundle as its commit performs them (R14).
Two writes of one control register in one bundle, which no rule orders, take effect in slot order: that of the later slot stays
(log entry 65). -/
def orderedEffects (s : State) (l : List Staged) : List Effect :=
  let es := (l.flatMap (·.effects)).flatMap (resolveAtomic s)
  inPhases (besideStores s es es)

-- Where control goes (R96 to R100). ------------------------------------------------------------------------------

/-- The next address when an innermost loop ends at `a`: its body's start while iterations remain, else past it (R98,
R99). `l` holds the innermost level first. -/
def loopBack (a : W64) : List Loop → W64 × List Loop
  | [] => (a, [])
  | x :: l =>
    if x.stop = a then (if x.left > 0 then (x.start, { x with left := x.left - 1 } :: l) else loopBack a l)
    else (a, x :: l)

/-- The target of a transfer (R96). -/
def jumpOf : Effect → Option W64
  | .jump a => some a
  | _ => none

/-- The end of a loop body that runs no time (R98). -/
def skipOf : Effect → Option W64
  | .skipTo a => some a
  | _ => none

/-- Whether an effect opens a loop. -/
def opensLoop : Effect → Bool
  | .loopOpen _ => true
  | _ => false

/-- Whether an effect ends the task (R101). -/
def isLeave : Effect → Bool
  | .leave => true
  | _ => false

/-- Whether an effect returns from the handler (R351). -/
def isRfe : Effect → Bool
  | .rfe => true
  | _ => false

/-- The trap that an effect asks for after the commit (R103, R350). -/
def raiseOf : Effect → Option (Cause × W64)
  | .raise c w => some (c, w)
  | _ => none

/-- The address at which an effect saves an image (R352). -/
def savesTo : Effect → Option W64
  | .ctxSave va => some va
  | _ => none

/-- The next bundle of a task after the bundle, with the loop state (R96, R98 to R100): `outer` is the loop state with
the outermost level first. A body that runs no time is passed over, and with it an outer body that ends there, whose last
bundle has not committed (log entry 29). -/
def nextPc (b : Bundle) (es : List Effect) (outer : List Loop) : W64 × List Loop :=
  match es.findSome? jumpOf with
  | some a => (a, outer)
  | none =>
    match es.findSome? skipOf with
    | some x => (x, outer)
    | none =>
      let r := loopBack b.next outer.reverse
      (r.1, r.2.reverse)

/-- Whether the bundle that comes next begins a loop body or is the target of a transfer to a lower address (R363). -/
def entersHead (b : Bundle) (es : List Effect) (loops : List Loop) (pc : W64) : Bool :=
  es.any opensLoop || decide (pc.toNat < b.addr.toNat) || (es.all (fun e => (jumpOf e).isNone) && loops.any fun l => l.start == pc)

/-- Whether a slot makes its bundle the last of its atom (R364): an engine command, a sync-or-solve slot (`lnch` is one), a system
slot, a class 111 slot, `exit`, `brk`, `trap` or `rfe`. -/
def endsAtom (w : Nat) : Bool :=
  let op := fOp w
  op == 0x16 || op == 0x18 || (decide (0x49 ≤ op) && decide (op ≤ 0x4D)) || decide (0x50 ≤ op)

/-- The slots that 64 long words of at most 8 slots hold (R356, R364). -/
def atomSlots : Nat := 512

/-- Whether the run of a loop can be one atom (R364, R381): no bundle of its body ends an atom, and 64 long words hold its
slots. -/
def loopFits (s : State) (core : Nat) (t : Task) (l : Loop) (first : Nat) : Bool :=
  let n := (l.stop - l.start).toNat / 4
  decide (first + n * (l.left + 1) ≤ atomSlots) && (match codeRead s core t l.start (4 * n) with
    | .ok (w, _, _, []) => (List.range n).all fun i => !endsAtom (bitsOf w (32 * i) 32)
    | _ => false)

/-- A task whose bundle of `n` slots has committed inside an atom of more bundles; the atom ends with it where it must (R364). -/
def atomNext (ends : Bool) (n : Nat) (u : Task) : Task :=
  if u.tier1 = 0 then u
  else if ends ∨ u.atomRoom < n then { u with tier1 := 0 } else { u with atomRoom := u.atomRoom - n }

/-- A bundle that comes next begins a loop body or is the target of a transfer to a lower address: its entry is counted, and
the entry of an `lp` loop says whether its run is one atom (R363, R381, R382); a gang's step is one (R219). -/
def State.enterHead (s : State) (core slot : Nat) (objid : W64) (b : Bundle) (es : List Effect) : State :=
  match s.task (taskKey core slot) with
  | none => s
  | some t =>
    let last := b.code.any endsAtom
    let s0 := if t.tier1 != 0 then s.updTask (taskKey core slot) (atomNext last b.code.length) else s
    if !entersHead b es t.loops t.pc then s0
    else
      let die := dieOf core
      let va := t.pc.toNat
      let s1 := s0.headSeen die objid va (if es.any opensLoop then some b.addr.toNat else none)
      match es.any opensLoop, t.loops.getLast? with
      | true, some l =>
        if inAtom { t with loops := t.loops.dropLast } then s1
        else s1.updTask (taskKey core slot) fun u =>
          { u with
            tier1 := if !last && !s.cadenced t && loopFits s core t l b.code.length && runsTier1 s1 die objid va (l.left + 1)
              then t.loops.length else 0
            atomRoom := atomSlots - b.code.length }
      | _, _ => s1

-- Commit (R14). --------------------------------------------------------------------------------------------------

/-- The end of the bundle for its task: flags, one contract cycle, the next bundle (R10, R16). -/
def Task.finish (t : Task) (flags : BitVec 8) (pc : W64) (loops : List Loop) : Task :=
  { ({ t with asw := aswOr t.asw flags, pc := pc, loops := loops, stall := none, answers := [] } : Task).tick with
    pc := pc, loops := loops }

/-- What follows a commit: the end of the task, a trap that its bundle has asked for, or a return from the handler
(R101, R103, R350, R351). -/
def State.afterCommit (s : State) (core slot : Nat) (addr : W64) (mask : Nat) (es : List Effect) : State :=
  let k := taskKey core slot
  if es.any isLeave then s.endTask core slot
  else
    let s1 := if es.any isRfe then s.updTask k leaveHandler else s
    match es.findSome? raiseOf with
    | some (c, w) =>
      (match s1.task k with
        | some t => s1.trap core slot t { cause := c, word := w } mask 0 true addr t.pc
        | none => s1)
    | none => s1

/-- The slots of a bundle that ask for a trap after the commit (R103, R350). -/
def raiseMask (l : List Staged) : Nat :=
  maskOf (l.map fun x => x.effects.any fun e => (raiseOf e).isSome)

/-- Inside an atom of more bundles the task goes on before any other party: what the atom does becomes visible at one instant
(R365, R381). -/
def State.goOn (s : State) (core slot : Nat) : State :=
  if (s.task (taskKey core slot)).any fun u => inAtom u && u.run == .ready then { s with agenda := .issue core :: s.agenda } else s

/-- The bundle being issued commits: every effect of every slot as one event (R14). DESIGN CHOICE: R10 does not order the
flags of a bundle and a `cr.wr` of the ASW in it; here the write comes first and the flags are ORed in after it (log
entry 54). -/
def State.commit (s : State) : State :=
  match s.curTask with
  | none => s
  | some t =>
    let b := s.bundle
    let core := s.cur
    let slot := b.slot
    let k := taskKey core slot
    let es := orderedEffects s b.staged
    let s1 := es.foldl (applyEffect core slot) (s.updCore core fun c => c.dropWaiter slot)
    let s2 := s1.updTask k fun u =>
      let n := nextPc b es u.loops
      u.finish (bundleFlags b.staged) n.1 n.2
    let s3 := (s2.withBundle {}).enterHead core slot (t.objid.getD 0) b es
    (s3.afterCommit core slot b.addr (raiseMask b.staged) es).goOn core slot

-- Waiting (R227, R239, R241). ------------------------------------------------------------------------------------

/-- A task takes its place among the waiters of the flags it waits for (R227). -/
def Core.addWaiters (c : Core) (slot : Nat) (l : List Wait) : Core :=
  l.foldl (fun (x : Core) w => match w with
    | .flag f _ => if x.waiters.contains (f, slot) then x else { x with waiters := x.waiters ++ [(f, slot)] }
    | _ => x) c

/-- The bundle being issued stalls: nothing of it has taken effect, and it runs again when its waits are met (R241). Reads of an
aperture that it needs are asked for (R396); an atom of more bundles is left to tier 0 (R364, R365); at a switch point the
quantum of its core starts afresh (R214). -/
def State.stallBundle (s : State) (waits : List (Wait × Nat)) : State :=
  match s.curTask with
  | none => s
  | some t =>
    let b := s.bundle
    let core := s.cur
    let slot := b.slot
    let unmet := waits.filter fun w => !waitMet s core slot t w.1
    let mask := match unmet with | w :: _ => 2 ^ w.2 | [] => 0
    let waited := match t.stall with | some st => st.waited | none => 0
    let st : Stall :=
      { bundle := { b with words := b.code, staged := [] }, waits := waits.map (·.1), slots := waits.map (·.2), mask := mask,
        waited := waited }
    let asks := waits.filterMap fun w => match w.1 with | .answer u => (if (mapGet u t.answers).isSome then none else some u) | _ => none
    let t1 := { t with stall := some st, tier1 := 0 }
    let switches := unmet.any fun w => switchWait w.1
    let s1 := (s.setTask (taskKey core slot) t1).updCore core fun c =>
      let c1 := c.addWaiters slot st.waits
      if switches then { c1 with issued := 0 } else c1
    let s2 := (s1.withBundle {}).askOutside t.source false asks
    if s.cadenced t then s2.dropGang t.gid else s2

-- Fetching the next bundle (R219, R360, R362). -------------------------------------------------------------------

/-- A fault of the code fetch (R288, R331): requester 3 and no slot mask. A task whose first bundle cannot be located keeps
its ENTRY while it is parked. -/
def State.trapFetch (s : State) (core slot : Nat) (t : Task) (i : TrapInfo) (addr : W64) : State :=
  ((s.cacheFills i.fills).trap core slot t i 0 3 false addr addr).stopWith t

/-- A bundle live on a core at the start of its atom, where every latch reads as zero (R360). -/
def State.liveBundle (s : State) (core : Nat) (b : Bundle) : State :=
  { (s.updCore core fun c => { c with latches := Vector.replicate 8 0, holds := Vector.replicate 16 0 }).withBundle b with cur := core }

/-- The bundle that the lead of a gang has fetched for a member's next contract cycle (R219). -/
def gangFetched (s : State) (t : Task) : Option (W64 × Bundle) :=
  if s.cadenced t && t.i0 != 0 then ((s.group t.gid).stream.find? fun e => e.1 == t.cycle).map (·.2) else none

/-- The lead's first bundle fixes the origin of a gang that has no start step (R221, R400). -/
def State.setOrigin (s : State) (t : Task) : State :=
  if s.cadenced t && t.i0 == 0 && t.entry.isSome && startStep (s.launch t.launch) == 0 then
    s.updGroup t.gid fun g => { g with origin := some s.regs.tsc }
  else s

/-- A bundle that a lead fetches is sent to every member (R219), and kept until all have passed it. -/
def State.broadcast (s : State) (t : Task) (objid : W64) (b : Bundle) : State :=
  if !s.cadenced t || t.i0 != 0 then s
  else
    let mates := s.tasksOf t.gid
    s.updGroup t.gid fun g =>
      { g with stream := (g.stream.filter fun e => e.1 != t.cycle && mates.any fun m => decide (m.2.cycle ≤ e.1)) ++ [(t.cycle, objid, b)] }

/-- The next bundle of a task fetched, or for a member of a gang taken from what its lead fetched (R219). -/
def State.fetchInto (s : State) (core slot : Nat) (t : Task) : State :=
  match gangFetched s t with
  | some (o, b) =>
    let own := { b with slot := slot }
    (s.setTask (taskKey core slot) (t.opens o own)).liveBundle core own
  | none =>
    match fetchBundle s core slot t with
    | .error (i, addr, s1) => s1.trapFetch core slot t i addr
    | .ok (.inr units) => s.askOutside t.source false units
    | .ok (.inl (s1, t1, b)) => (((s1.setTask (taskKey core slot) t1).setOrigin t).broadcast t (t1.objid.getD 0) b).liveBundle core b


/-- Whether a task of a core is ready (R213, R214): it is not parked, and it waits for nothing or its waits have been met. -/
def taskReady (s : State) (core slot : Nat) (t : Task) : Bool :=
  t.run == .ready && (match t.stall with | some st => (firstUnmet s core slot t st.waits).isNone | none => true)

/-- The next ready task of a core, in context-slot order from the one after `last` (R214). -/
def nextReady (s : State) (core last : Nat) : Option Nat :=
  (slotOrder last).find? fun sl => match s.task (taskKey core sl) with | some t => taskReady s core sl t | none => false

/-- The core issues the task of a slot from now on. -/
def State.runSlot (s : State) (core slot : Nat) : State :=
  (s.settleCore core).updCore core fun c => { c with running := some slot }

/-- Whether a core issues bundles of a slot, or has no task to issue and takes this one next (R214). -/
def runsSlot (s : State) (core slot : Nat) : Bool :=
  match (s.core core).running with
  | some sl => sl == slot
  | none => nextReady s core (s.core core).last == some slot

/-- The waits of a stall that run under the wait timer and are not met, with their object codes and slots (R239, R240); a member
holds for the roots of its gang until they have arrived (R245). -/
def timedWaits (s : State) (core slot : Nat) (t : Task) (st : Stall) : List (Nat × Nat) :=
  (st.waits.zip st.slots).filterMap fun w =>
    if waitMet s core slot t w.1 && w.1 != .gangRoots then none else (waitCode w.1).map fun code => (code, w.2)

/-- The wait of a task whose time is up: its object code and its slot (R239, R240). The timer is the task's: of several waits the
first that is not met is the one that expires. -/
def timeUp (s : State) (core slot : Nat) (t : Task) : Option (Stall × Nat × Nat) :=
  match t.run, t.stall with
  | .ready, some st =>
    if st.waited < 2 ^ t.wtexp then none else ((timedWaits s core slot t st).head?).map fun w => (st, w)
  | _, _ => none

/-- A wait whose time is up (R239, R240): *wait timeout* in the slot that waits. -/
def State.waitTimeout (s : State) (core slot : Nat) : State :=
  if s.bundle.live then s
  else
  match s.task (taskKey core slot) with
  | none => s
  | some t =>
    match timeUp s core slot t with
    | some (st, code, at') =>
      let i : TrapInfo := { cause := .waitTimeout, word := BitVec.ofNat 64 (code + min st.waited (2 ^ 40 - 1) * 2 ^ 24) }
      (s.trap core slot t i (2 ^ at') 0 false st.bundle.addr st.bundle.addr).stopWith t
    | none => s

-- Gangs (R219, R244, R245). --------------------------------------------------------------------------------------

/-- The step of its gang at which a member issues its next bundle (R219). -/
def gangStep (s : State) (t : Task) : Nat := t.cycle + t.i0 * (s.launch t.launch).pkt.skew

/-- Whether a gang may issue (R220, R400): its lead has begun and no member is stopped, saved or about to be. -/
def gangRuns (s : State) (gid : Nat) : Bool :=
  (s.group gid).origin.isSome && !(s.gone.any fun g => g.gid == gid) &&
    ((s.tasksOf gid).all fun e => e.2.run == .ready) && !gangSaves s gid

/-- The members that issue in the gang's next step: those furthest behind; all of them when each holds at its `slv.end`
(R219, R244, R245). -/
def gangTurn (s : State) (gid : Nat) : List (Nat × Task) :=
  let l := s.tasksOf gid
  let free := l.filter fun e => !holdsRoots e.2
  if free = [] then l
  else
    match (free.map fun e => gangStep s e.2).min? with
    | some m => free.filter fun e => gangStep s e.2 == m
    | none => []

/-- Whether a member has finished its bundle of the step and waits for the others. -/
def heldGang (t : Task) : Bool := match t.stall with | some st => st.waits.contains .gang | none => false

/-- The effects of the bundle that a task holds. -/
def heldEffects (t : Task) : List Effect := match t.stall with | some st => st.bundle.staged.flatMap (·.effects) | none => []

/-- Whether some member of a gang holds at its `slv.end` and others do not yet: those issue on their own (R245). -/
def catchingUp (s : State) (gid : Nat) : Bool :=
  let l := s.tasksOf gid
  (l.any fun e => holdsRoots e.2) && l.any fun e => !holdsRoots e.2

/-- A member's finished bundle is held until every member of the step has finished; then they commit at one instant
(R219, R220, R244). -/
def State.holdGang (s : State) (t : Task) : State :=
  let b := s.bundle
  let k := taskKey s.cur b.slot
  let old := match t.stall with | some st => st | none => { bundle := b, waits := [] }
  let s1 := (s.setTask k { t with stall := some { old with bundle := b, waits := old.waits ++ [.gang] } }).withBundle {}
  let mates := (gangTurn s t.gid).filter fun e => e.1 != k && !heldGang e.2
  match mates with
  | e :: _ => { s1 with agenda := .issue (e.1 / 4) :: s1.agenda }
  | [] => { s1 with agenda := .event (.atomCommit s.cur) :: s1.agenda }

/-- The barrier that an effect brings an event to. -/
def barOf : Effect → Option Nat
  | .barInit b _ => some b
  | .barArrive b _ _ => some b
  | .barExpect b _ _ => some b
  | _ => none

/-- The targets that effects set barrier `b` up with. -/
def initsAt (b : Nat) (es : List Effect) : List Nat := es.filterMap fun e => match e with | .barInit c n => (if c = b then some n else none) | _ => none
/-- The arrivals that effects bring to barrier `b`. -/
def arrivalsAt (b : Nat) (es : List Effect) : List Nat := es.filterMap fun e => match e with | .barArrive c n _ => (if c = b then some n else none) | _ => none
/-- The bytes that effects make barrier `b` expect. -/
def expectsAt (b : Nat) (es : List Effect) : List Nat := es.filterMap fun e => match e with | .barExpect c n _ => (if c = b then some n else none) | _ => none

/-- The cycle that the barrier events of a gang's step fall into at barrier `b` (R233). -/
def gangJoin (s : State) (gid : Nat) (es : List Effect) (b : Nat) : BarCycle :=
  barJoin s gid b (initsAt b es) (arrivalsAt b es) [] (expectsAt b es)

/-- What is left of the event that an effect brings to a barrier once the events of its cycle have been applied: its register gets
PHASE, that before step 3 for an arrival, that after it for an expectation (R235, R236). `f` gives the cycle of a barrier. -/
def barResult (f : Nat → BarCycle) : Effect → List Effect
  | .barInit _ _ => []
  | .barArrive b _ r => wrG (BitVec.ofNat 6 r) 1 (BitVec.ofNat 64 (f b).base.phase)
  | .barExpect b _ r => wrG (BitVec.ofNat 6 r) 1 (BitVec.ofNat 64 (f b).outcome.phase)
  | e => [e]

/-- *count overflow* for a barrier event of a gang's step (R235, R236): `es` are the effects of all members, `before` those of the
members that come first; the home core counts the events of these and of the cycle before them. -/
def barOverflow (s : State) (gid : Nat) (es before : List Effect) : Effect → Option TrapInfo
  | .barArrive b n _ =>
    let c := gangJoin s gid es b
    let start := (barCycle c.inits [] [] [] c.base).arrived + c.arrivals.sum - (arrivalsAt b es).sum
    faultIf (decide (start + (arrivalsAt b before).sum + n > 65535)) (countOverflow (0x1000 + b) n false)
  | .barExpect b n _ =>
    let c := gangJoin s gid es b
    let start := c.outcome.pending - (expectsAt b es).sum
    faultIf (decide (start + (expectsAt b before).sum + n > 2 ^ 40 - 1)) (countOverflow (0x1000 + b) n false)
  | _ => none

/-- The first member of a gang's step whose barrier event overflows a count, with its trap and its slot mask (R235, R236). -/
def gangOverflow (s : State) (gid : Nat) (es : List Effect) : List Effect → List (Nat × Task) → Option (Nat × Task × Stall × TrapInfo × Nat)
  | _, [] => none
  | before, e :: l =>
    let mine : Option (Nat × Task × Stall × TrapInfo × Nat) := e.2.stall.bind fun st =>
      (st.bundle.staged.zipIdx.findSome? fun x =>
        (x.1.effects.findSome? (barOverflow s gid es before)).map fun i => (i, 2 ^ x.2)).map fun r => (e.1, e.2, st, r.1, r.2)
    mine.or (gangOverflow s gid es (before ++ heldEffects e.2) l)

/-- The finished bundles of a gang's step commit, in member order (R219, R365); their barrier events meet in one cycle (R233). -/
def State.commitGang (s : State) (gid : Nat) : State :=
  let l := (s.tasksOf gid).filter fun e => heldGang e.2
  let es := l.flatMap fun e => heldEffects e.2
  let s1 := ((es.filterMap barOf).eraseDups).foldl (fun (x : State) b =>
    x.barEvents gid b l.length (initsAt b es) (arrivalsAt b es) [] (expectsAt b es)) s
  l.foldl (fun (x : State) e =>
    match e.2.stall with
    | some st =>
      let staged := st.bundle.staged.map fun y => { y with effects := y.effects.flatMap (barResult (gangJoin s gid es)) }
      ({ x with cur := e.1 / 4, bundle := { st.bundle with staged := staged } } : State).commit
    | none => x) s1

-- Poisoned registers (R414). -------------------------------------------------------------------------------------

/-- The register fields of a slot of classes 000, 010 and 011 (R38, R40 to R44): position (1 D, 2 A, 3 B), file code of R376
(0 for another file, and for a number that is no operand code), whether it is read, whether it is written. -/
def slotFields (w : Nat) : List (Nat × Nat × Bool × Bool) :=
  let f := fF w
  let target (n : Nat) : Nat × Nat × Bool × Bool := (1, n, false, true)
  let upd (n : Nat) : Nat × Nat × Bool × Bool := (1, n, true, true)
  let src (n : Nat) : Nat × Nat × Bool × Bool := (1, n, true, false)
  let a (n : Nat) : Nat × Nat × Bool × Bool := (2, n, true, false)
  let b (n : Nat) : Nat × Nat × Bool × Bool := (3, n, true, false)
  match fOp w with
  | 0x00 =>
    if f = 5 then [upd 1, a 1, b 1]
    else if f = 0x12 ∨ f = 0x13 ∨ f = 0x14 ∨ f = 0x19 then [target 1, a 1] else [target 1, a 1, b 1]
  | 0x01 => [upd 4, a 1, b 1]
  | 0x02 => [target 1, a 1, b 1]
  | 0x05 => [upd 1, a 1]
  | 0x06 => [target 1]
  | 0x0C => [target 0, a 1]
  | 0x0E => [target 1]
  | 0x0F => [upd 1]
  | 0x26 => [upd 2, a 2, b 2]
  | 0x27 => if f ≥ 32 then [upd 2, a 2, b 2] else [target 2, a 2, b 2]
  | 0x2C => [target 0, a 2, b 2]
  | 0x2D => [target 2, a 2]
  | 0x2E => [target 2, a (if f = 9 ∨ f = 10 then 1 else 2)]
  | 0x2F =>
    if f ≤ 2 then [target 3, a 3, b 3]
    else if f = 3 then [target 3, a 3]
    else if f = 4 then [target 1, a 3]
    else if f ≤ 7 then [target 4, a 3, b 3]
    else if f ≤ 11 then [target 1, a 2, b 1]
    else if f ≤ 15 then [upd 2, a 1, b 1]
    else if f ≤ 19 then [target 2, a 2, b 2]
    else if f ≤ 27 then [upd 2, a 2, b 2]
    else [target 2, a 2, b 2]
  | 0x30 => [target 1, a 1, b 1]
  | 0x31 => [target 1, a 1]
  | 0x32 => [src 1, a 1, b 1]
  | 0x33 => [src 1, a 1]
  | 0x34 => [target 1, a 1, b 1]
  | 0x35 => [target 0, a 1]
  | 0x36 => [target 2, a 1, b 1]
  | 0x37 => [target 2, a 1]
  | 0x38 => [src 2, a 1, b 1]
  | 0x39 => [src 2, a 1]
  | 0x3A => [target 2, a 1, b 2]
  | 0x3B => [src 2, a 1, b 2]
  | 0x3C => if f / 8 % 2 = 1 then [target 2, a 0] else [target 2, a 1, b 1]
  | 0x3D => if f / 2 % 2 = 1 then [src 2, a 1, b 2] else [target 2, a 1, b 2]
  | 0x3E => [upd 1, a 1, b 1]
  | 0x3F => [upd 2, a 1, b 2]
  | op => if op < 16 then [target 1, a 1] else [target 2, a 2, b 2]

/-- The code in a field of a slot. -/
def codeAt (w pos : Nat) : Nat := field w (24 - 6 * pos) 6

/-- The register fields that a slot of another class reads, as `slotFields` gives them; file code 5 is a bank. -/
def otherReads (w : Nat) : List (Nat × Nat) :=
  let f := fF w
  let ab : List (Nat × Nat) := [(2, 1), (3, 1)]
  let oper (ka kb : Nat) : List (Nat × Nat) := (if bitsOf f ka 1 = 1 then [(2, 1)] else []) ++ (if bitsOf f kb 1 = 1 then [(3, 1)] else [])
  let acc (z : Nat) : List (Nat × Nat) := if bitsOf f z 1 = 1 then [] else [(1, 5)]
  match fOp w with
  | 0x11 => [(2, 1)]
  | 0x14 => [(2, 1)]
  | 0x15 => [(2, 1)]
  | 0x40 => match f with | 0 => [(2, 1)] | 1 => [(2, 1)] | 2 => ab | 4 => [(2, 5), (3, 1)] | 5 => [(2, 2), (3, 1)] | _ => []
  | 0x41 => oper 2 1 ++ acc 0
  | 0x42 => (if bitsOf f 0 1 = 1 then [(3, 1)] else []) ++ [(1, 5)]
  | 0x43 => (if bitsOf f 0 1 = 1 then [(3, 1)] else []) ++ acc 1
  | 0x44 => oper 2 1 ++ acc 0
  | 0x45 => [(2, 2), (3, 2)]
  | 0x47 => if f = 0 then ab else []
  | 0x48 => ab ++ [(1, 5)]
  | 0x4D => if f / 16 = 1 ∨ f / 16 = 2 then [(2, 1)] else []
  | 0x4E => ab ++ [(1, 5)]
  | 0x4F => if f % 2 = 0 then [(2, 2)] else [(2, 1)]
  | 0x50 => [(2, 1)]
  | 0x51 => [(2, 1)]
  | 0x53 => ab
  | 0x54 => match f with | 0 => (1, 1) :: ab | 3 => [(2, 1)] | 4 => ab | _ => []
  | 0x57 => (1, 1) :: ab
  | 0x58 => [(2, 1)]
  | 0x65 => [(1, 1)]
  | op => if (0x49 ≤ op ∧ op ≤ 0x6C) ∧ op ≠ 0x55 ∧ op ≠ 0x60 ∧ op ≠ 0x61 ∧ op ≠ 0x64 ∧ op ≠ 0x67 then ab else []

/-- The poisoned register that a slot reads, where there is one: *uncorrectable error* with 0xFF (R414). Class 111 slots read
their registers in their body. -/
def poisonRead (t : Task) (w : Nat) : Option TrapInfo :=
  let reads : List (Nat × Nat) :=
    if fOp w / 16 = 0 ∨ fOp w / 16 = 2 ∨ fOp w / 16 = 3 then
      (slotFields w).filterMap fun x => if x.2.2.1 then some (x.1, x.2.1) else none
    else otherReads w
  let hit : Bool := reads.any fun r =>
    match r.2 with
    | 1 => t.poison.contains (.g, codeAt w r.1)
    | 2 => t.poison.contains (.v, codeAt w r.1)
    | 5 => t.poison.contains (.a, codeAt w r.1)
    | _ => false
  if t.poison = [] then none else if hit then some { cause := .uncorrectable, word := 0xFF } else none

/-- The executed slots of a bundle with the reads of poisoned registers, which come before every other access. -/
def poisonStaged (t : Task) (b : Bundle) : List Staged :=
  if t.poison = [] then b.staged
  else b.staged.zipIdx.map fun p => { p.1 with fault := (poisonRead t (b.code.getD p.2 0)).or p.1.fault }

-- The end of a bundle. -------------------------------------------------------------------------------------------

/-- The image a `ctx.save` writes (R352): the task as it stood before its bundle. DESIGN CHOICE: outside the handler the
counts of its pending writes are those of the `ctx.save` bundle itself, although EPC is the bundle after it (log entry 55). -/
def saveParts (s : State) (t : Task) : List (Nat × Nat × Nat) :=
  let n := nextPc s.bundle (s.bundle.staged.flatMap (·.effects)) t.loops
  let f := imageFields t
  let hist := (s.core s.cur).hist
  if t.inh then imageParts t s.cur s.bundle.slot f.1 f.2.1 f.2.2.1 f.2.2.2.1 [] f.2.2.2.2 hist
  else imageParts t s.cur s.bundle.slot 0 n.1 t.pending t.loops [] t.trec hist

/-- The stores of a placed image, as those of its slot (R352). -/
def imageStores (s : State) (l : List (List (Nat × Nat × W64) × Nat)) : List Effect := l.flatMap fun p => storePlaced s p.1 p.2

/-- The slots of a bundle with the stores of its images in place of each `ctx.save` (R352), or the address and the fault of
an image that cannot be written (R348). -/
def placeSaves (s : State) (t : Task) : List Staged → Except (W64 × TrapInfo) (List Staged)
  | [] => .ok []
  | x :: l =>
    match placeSaves s t l, x.effects.findSome? savesTo with
    | .error e, none => .error e
    | .ok r, none => .ok (x :: r)
    | r, some va =>
      match placeParts s (imageCtx s.cur t) .write va (saveParts s t), r with
      | .error i, _ => .error (va, i)
      | .ok _, .error e => .error e
      | .ok p, .ok r =>
        .ok ({ x with effects := x.effects.flatMap fun e => if (savesTo e).isSome then imageStores s p.1 else [e],
                      fills := x.fills ++ p.2 } :: r)

-- Atomics at apertures (R279). ------------------------------------------------------------------------------------

/-- The atomics of a bundle at apertures whose old value has not come back: operation, address, operands. -/
def outAtomics (l : List Staged) : List (AtomOp × Nat × Nat × Nat) :=
  (l.flatMap (·.effects)).filterMap fun e => match e with | .outAtomic op pa b d _ => some (op, pa, b, d) | _ => none

/-- The address of an atomic at an aperture. -/
def atomicAt : Effect → Option Nat
  | .outAtomic _ pa _ _ _ => some pa
  | _ => none

/-- An atomic at an aperture whose old value has come back: its register and its flags (R279). -/
def atomicReturned (pa old : Nat) : Effect → List Effect
  | .outAtomic op p b d c =>
    if p = pa then wrG c 1 (BitVec.ofNat 64 old) ++ [.lateFlags (atomNew op old b d).2.toNat] else [.outAtomic op p b d c]
  | e => [e]

/-- The writes of a bundle at apertures leave in slot order (R14, R279): a store without the bytes that a later atomic writes,
and of two atomics at one address the later one; both get the value before the bundle (R13). -/
def sendOut (core : Nat) (src : Source) : List Effect → State → State
  | [], s => s
  | .outStore pa n v :: l, s =>
    sendOut core src l (writeAround ((l.filterMap atomicAt).map fun a => (a, 8)) s (some core) src [(pa, n)] v)
  | .outAtomic op pa b d _ :: l, s =>
    if (l.filterMap atomicAt).contains pa then sendOut core src l s
    else sendOut core src l (s.sendOutside
      { ident := 0, src := src, pa := pa, size := 8, atomic := some (op, b, d), since := 0, writer := some core })
  | _ :: l, s => sendOut core src l s

/-- A store to an aperture that has left (R255). -/
def storeSent : Effect → Effect
  | .outStore pa n _ => .touch pa n
  | e => e

/-- The atomics of a finished bundle leave for their aperture, and its stores there with them (R279). It commits when the old
values have come back. -/
def State.sendAtomics (s : State) (key : Nat) (t : Task) (st : Stall) : State :=
  let l := st.bundle.staged
  let b := { st.bundle with staged := l.map fun x => { x with effects := x.effects.map storeSent } }
  let mask := maskOf (l.map fun x => outAtomics [x] != [])
  sendOut (key / 4) t.source (l.flatMap (·.effects))
    (s.setTask key { t with stall := some { st with bundle := b, waits := st.waits ++ [.atomicBack], mask := mask } })

/-- A finished bundle commits, or waits for its atomics (R14, R279). -/
def State.finishReady (s : State) (t : Task) : State :=
  let old := match t.stall with | some st => st | none => { bundle := s.bundle, waits := [] }
  if outAtomics s.bundle.staged ≠ [] then
    (s.withBundle {}).sendAtomics (taskKey s.cur s.bundle.slot) t { old with bundle := s.bundle }
  else s.commit

/-- The finished bundles of a gang's step commit, unless a count overflows among their barrier events (R235, R236), once every
atomic of theirs at an aperture has left, after all of them had finished (R244), and has come back (R279). -/
def State.finishGang (s : State) (gid : Nat) : State :=
  let l := (s.tasksOf gid).filter fun e => heldGang e.2
  if l.any fun e => waitsAtomic e.2 then s
  else
    let send := l.filterMap fun e => e.2.stall.bind fun st => if outAtomics st.bundle.staged != [] then some (e.1, e.2, st) else none
    match gangOverflow s gid (l.flatMap fun e => heldEffects e.2) [] l with
    | some (k, t, st, i, mask) =>
      (({ s.setTask k { t with stall := none } with cur := k / 4, bundle := { st.bundle with live := true } } : State)).trapBundle i mask
    | none =>
    if send = [] then s.commitGang gid else send.foldl (fun (x : State) e => x.sendAtomics e.1 e.2.1 e.2.2) s

/-- The old value of an atomic comes back: the far end has performed it, and the bundle that waits commits where it waits for no
other, alone or with its gang (R279, R365). -/
def State.atomicBack (s : State) (uid pa old : Nat) : State :=
  match (s.tasks.find? fun e => e.2.uid == uid) with
  | none => s
  | some (k, t) =>
    match t.stall with
    | none => s
    | some st =>
      if !st.waits.contains .atomicBack then s
      else
        let b := { st.bundle with staged := st.bundle.staged.map fun x => { x with effects := x.effects.flatMap (atomicReturned pa old) } }
        if outAtomics b.staged ≠ [] then s.setTask k { t with stall := some { st with bundle := b } }
        else
          let t1 := { t with stall := some { st with bundle := b, waits := st.waits.filter fun w => w != .atomicBack } }
          let s1 := s.setTask k t1
          if heldGang t1 then s1.finishGang t.gid
          else ({ s1.withBundle { b with live := true } with cur := k / 4 } : State).commit

/-- A bundle whose checks pass and whose waits are met: the images it saves take their places (R348, R352), then it commits, alone
or with its gang (R14, R219). -/
def State.finishBundle (s : State) (t : Task) : State :=
  match placeSaves s t s.bundle.staged with
  | .ok l =>
    let x := (s.withBundle { s.bundle with staged := l }).cacheFills (l.flatMap (·.fills))
    if s.cadenced t && !catchingUp s t.gid then x.holdGang t else x.finishReady t
  | .error (va, i) =>
    s.saveFault s.cur s.bundle.slot t i { parts := saveParts s t, va := va, slot := s.bundle.slot, preempt := false, bundle := s.bundle } s.bundle.addr

/-- The entries that the walks of a failing access leave cached (R289). -/
def faultFills (f : Option TrapInfo) : List TlbEntry := match f with | some i => i.fills | none => []

/-- THE END OF A BUNDLE whose slots have all been executed: the checks of R35 over the whole bundle, then the deciding fault
(R332), then a fault of an operand fetch (R146), then its waits (R241), then the commit (R14). -/
def State.endBundle (s0 : State) : State :=
  match s0.curTask with
  | none => s0
  | some t =>
    let l := poisonStaged t s0.bundle
    match encTrap t s0.bundle.exposed l with
    | some (i, m) => s0.trapBundle i m
    | none =>
      let s := s0.cacheFills (l.flatMap fun x => x.fills ++ faultFills x.fault ++ faultFills x.fetch)
      match faultTrap t l with
      | some (i, m) => s.trapBundle i m
      | none =>
        let waits := l.zipIdx.flatMap fun p => p.1.waits.map fun w => (w, p.2)
        match l.findSome? (·.fetch) with
        | some i => (s.stopFetch s.cur s.bundle.slot s.bundle.addr i).stallBundle ((.arrayIdle, 0) :: waits)
        | none =>
          if (waits.all fun w => waitMet s s.cur s.bundle.slot t w.1) then s.finishBundle t else s.stallBundle waits

-- A bundle that waits goes on (R214, R241). ----------------------------------------------------------------------

/-- The bundle of a stall run again from its first slot (R241), fetched anew where its translation has been removed
(R372). One whose slots have all been executed ends (R348). -/
def State.reopen (s : State) (core slot : Nat) (t : Task) (st : Stall) : State :=
  if st.bundle.code = [] then s.fetchInto core slot t
  else
    let x := s.liveBundle core { st.bundle with live := true }
    if st.bundle.words = [] then x.endBundle else x

/-- A bundle that waits runs again from its first slot (R241). -/
def State.rerun (s : State) (core slot : Nat) (t : Task) (st : Stall) : State :=
  let s1 := s.reopen core slot t st
  { s1 with agenda := .issue core :: s1.agenda }

/-- A wait that an event of the table ends: where every wait of the task's bundle is met and its core issues it, the bundle runs
and commits before any other turn, but while no core issues (R397, R413); a task that is switched out is ready from then on, and
its core's next switch may take it (R214). -/
def State.release (s : State) (core slot : Nat) : State :=
  if s.bundle.live || issueStops s then s
  else
    match s.task (taskKey core slot) with
    | none => s
    | some t =>
      match t.run, t.stall with
      | .ready, some st =>
        if s.cadenced t ∨ (firstUnmet s core slot t st.waits).isSome ∨ !runsSlot s core slot then s
        else if (s.core core).running.isSome then s.rerun core slot t st
        else
          let s1 := s.runSlot core slot
          { s1 with agenda := .issue core :: s1.agenda }
      | _, _ => s

-- The meaning shared by every slot. ------------------------------------------------------------------------------

/-- What a slot comes to when it is executed: `cls` its class and `op` its OP (R30, R31), `f` what it stages from the state
before its bundle (R13). The last slot of the bundle brings it to its end; another is followed by the next slot. -/
def finishSlot (cls op : Nat) (stop : Bool) (f : Nat → State → Task → Staged) (s : State) : Host.Outcome State Fault Refusal :=
  match s.curTask with
  | none => .refused .noIssuingTask
  | some t =>
    let x := { f s.cur s t with cls := cls, op := op, stop := stop }
    let s1 := s.withBundle { s.bundle with words := s.bundle.words.tail, staged := s.bundle.staged ++ [x] }
    if stop || s.bundle.words.tail.isEmpty then .next s1.endBundle
    else .next { s1 with agenda := .issue s.cur :: s1.agenda }

/-- Whether waits call for earlier array operations to finish. -/
def settles (w : Wait) : Bool :=
  match w with
  | .arrayOwn => true | .rows _ _ _ => true | .savePoint => true | .bankIdle _ _ => true | .banks _ _ => true | .carried _ _ => true
  | _ => false

/-- The array operations that a slot waits for brought to their end, as far as they can go. -/
def State.settleOnce (s : State) (f : Nat → State → Task → Staged) : State :=
  match s.curTask with
  | none => s
  | some t =>
    let w := (f s.cur s t).waits
    if w.any fun x => settles x && !waitMet s s.cur s.bundle.slot t x then s.settle w else s

/-- The state in which a slot is executed: where it waits for array operations they have ended, as far as they can, those for a
block that it reads first and then those that the block makes it wait for. -/
def State.settleFor (s : State) (f : Nat → State → Task → Staged) : State := (s.settleOnce f).settleOnce f

/-- A slot that may read what earlier array operations of its task leave, or touch bytes they read or write (R134, R146,
R154): where it does, they finish first, as far as their operand fetches allow. -/
def finishSettled (cls op : Nat) (stop : Bool) (f : Nat → State → Task → Staged) (s : State) :
    Host.Outcome State Fault Refusal :=
  match s.curTask with
  | none => .refused .noIssuingTask
  | some _ => finishSlot cls op stop f (s.settleFor f)

/-- The registers that a word names as written by the map (R12, R38 to R46), where its OP alone, with F where F selects the
operation, says which. -/
def namedDests (w : Nat) : List (RegFile × Nat) :=
  let f := fF w
  let d := codeAt w 1
  let g : List (RegFile × Nat) := destG (BitVec.ofNat 6 d)
  let v : List (RegFile × Nat) := destV (BitVec.ofNat 6 d)
  match fOp w with
  | 0x0C => [(.c, d % 8)]
  | 0x10 => [(.t, d / 8)]
  | 0x11 => [(.t, d / 8)]
  | 0x13 => destG (BitVec.ofNat 6 (codeAt w 2))
  | 0x50 => [(.f, d)]
  | 0x51 => [(.f, d)]
  | 0x52 => [(.f, d)]
  | 0x2C => destK (d % 16)
  | 0x35 => [(.y, d)]
  | 0x40 => match f % 8 with | 0 => g ++ [(.c, codeAt w 3)] | 1 => g | 3 => [(.a, d)] | 4 => v | 5 => [(.a, d)] | _ => []
  | 0x46 => [(.q, d)]
  | 0x47 => match f % 4 with | 0 => [(.n, d)] | 1 => [(.n, d)] | 2 => g | 3 => [(.z, d)] | _ => []
  | 0x4D => if f / 16 = 3 then g else []
  | 0x4F => if f % 2 = 0 then v else [(.c, d)]
  | 0x53 => match f % 8 with | 1 => g | 2 => g | 4 => [(.c, d)] | _ => []
  | 0x54 => match f % 8 with | 2 => [(.c, d)] | 3 => g | 4 => v | _ => []
  | 0x56 => g
  | 0x64 => g
  | 0x68 => g
  | op =>
    if (0x41 ≤ op ∧ op ≤ 0x44) ∨ op = 0x4A ∨ op = 0x4E then [(.a, d)]
    else if op / 16 = 0 ∨ op / 16 = 2 ∨ op / 16 = 3 then
      (slotFields w).flatMap fun x => if x.1 ≠ 1 ∨ !x.2.2.2 then [] else match x.2.1 with
        | 1 => g | 2 => v | 3 => destK d | 4 => [(.c, d)] | _ => []
    else []

/-- Whether the F field of a major selects its operation, so that an unassigned F leaves the operation unknown. -/
def selectsOp (op : Nat) : Bool := [0x00, 0x2E, 0x2F, 0x40, 0x47, 0x53, 0x54].contains op

/-- A word that is no instruction is executed (R35): its checks fail, the control register number of a `cr.rd` or `cr.wr` among
them. -/
def finishBad (w : Nat) (e : DecodeError) (s : State) : Host.Outcome State Fault Refusal :=
  let op := w / 2 ^ 24 % 128
  let number : List EncFail := if (op = 0x64 ∨ op = 0x65) ∧ !crAssigned (fI w) then undef 2 (fI w % 256) 5 else []
  let x : Staged :=
    { encs := undef e.reason.code e.value e.field ++ number,
      dests := if e.reason = .unassignedOp ∨ (e.reason = .unassignedField ∧ e.field = 4 ∧ selectsOp op) then [] else namedDests w }
  finishSlot (op / 16) op (w / 2 ^ 31 % 2 == 1) (fun _ _ _ => x) s

end Sys2Proof.Machine
end

