-- ==== Sys2Proof/Machine/Stage.lean ====
section
/-! DEFINITION. Shapes of staging that several instructions share: operands of the general file, their checks, the
destination and its write (01 R12, R13, R18, 02 R32 to R35, 03 R44). -/

namespace Sys2Proof.Machine

/-- The contract latencies of R19 by class. -/
def latLogic : Nat := 1
/-- Integer multiply. -/
def latMul : Nat := 3
/-- Scalar load. -/
def latLoad : Nat := 4
/-- Vector add, logic, compare, select. -/
def latVec : Nat := 3
/-- Vector multiply and FMA. -/
def latVecMul : Nat := 5
/-- Vector conversion. -/
def latCvt : Nat := 3
/-- Vector reduction and scan. -/
def latRed : Nat := 6
/-- Vector load from the near store. -/
def latVld : Nat := 4
/-- Gather. -/
def latGather : Nat := 6
/-- `acc.rd`. -/
def latAcc : Nat := 4
/-- `vrcp`, `vrsqrt`, `vsqrt`, `vexp2`, `vlog2`. -/
def latFunc : Nat := 8
/-- Interlocked instructions: visible to the next bundle in both modes (R18). -/
def latNext : Nat := 1

/-- A fault that is judged only once a wait is met (R142, R310, R320). -/
def faultAfter (s : State) (core : Nat) (t : Task) (w : Wait) (f : Option TrapInfo) : Option TrapInfo :=
  if waitMet s core s.bundle.slot t w then f else none

/-- A register result of two general operands (R13, R32). -/
def stageBin (lat : Nat) (d a b : Code) (f : W64 → W64 → W64) (core : Nat) (t : Task) : Staged :=
  { encs := dstG d 1 ++ srcG a 2 ++ srcG b 3, dests := destG d, effects := wrG d lat (f (rdG core t a) (rdG core t b)) }

/-- A register result of one general operand. -/
def stageUn (lat : Nat) (d a : Code) (f : W64 → W64) (core : Nat) (t : Task) : Staged :=
  { encs := dstG d 1 ++ srcG a 2, dests := destG d, effects := wrG d lat (f (rdG core t a)) }

/-- A sign-extended immediate of 12 bits. -/
def sext12 (i : BitVec 12) : W64 := i.signExtend 64
/-- A sign-extended immediate of 18 bits. -/
def sext18 (i : BitVec 18) : W64 := i.signExtend 64

/-- A failing check of a slot that needs a privilege (R35 step 4). -/
def needSup (t : Task) : List EncFail := if t.sup then [] else [{ step := 4 }]

/-- *misaligned access*: the size asked for and the address (R87). -/
def misaligned (size : Nat) (ea : W64) : TrapInfo :=
  { cause := .misaligned, word := BitVec.ofNat 64 size, target := some ea }

end Sys2Proof.Machine
end

