-- ==== Sys2Proof/Machine/Int.lean ====
section
/-! DEFINITION. The integer and address class (04 R76 to R86). -/

namespace Sys2Proof.Machine

/-- `div` of R77 and R78: the quotient toward zero; all ones for a zero divisor. -/
def divSigned (a b : W64) : W64 := if b = 0 then BitVec.allOnes 64 else a.sdiv b
/-- `divn` of R77 and R78. -/
def divUnsigned (a b : W64) : W64 := if b = 0 then BitVec.allOnes 64 else a / b
/-- `rem` of R77 and R78: a nonzero remainder takes the sign of a. -/
def remSigned (a b : W64) : W64 := if b = 0 then a else a.srem b
/-- `remn` of R77 and R78. -/
def remUnsigned (a b : W64) : W64 := if b = 0 then a else a % b
/-- Bits [127:64] of the signed product (R77). -/
def mulHigh (a b : W64) : W64 := (a.signExtend 128 * b.signExtend 128).extractLsb' 64 64
/-- Bits [127:64] of the unsigned product (R77). -/
def mulHighN (a b : W64) : W64 := (a.setWidth 128 * b.setWidth 128).extractLsb' 64 64
/-- A shift amount: b[5:0] (R77). -/
def shiftOf (b : W64) : Nat := b.toNat % 64
/-- The number of leading zero bits (R77). -/
def leadingZeros (a : W64) : W64 := if a = 0 then 64 else BitVec.ofNat 64 (63 - Nat.log2 a.toNat)
/-- The number of trailing zero bits of the low `n` bits, counted from the top. -/
def trailing (a : W64) : Nat → Nat
  | 0 => 64
  | n + 1 => if a.getLsbD (63 - n) then 63 - n else trailing a n
/-- The number of trailing zero bits (R77). -/
def trailingZeros (a : W64) : W64 := BitVec.ofNat 64 (trailing a 64)
/-- The number of one bits among the low `n`. -/
def onesBelow (x : Nat) : Nat → Nat
  | 0 => 0
  | n + 1 => onesBelow x n + x / 2 ^ n % 2
/-- The number of one bits (R77). -/
def popCount (a : W64) : W64 := BitVec.ofNat 64 (onesBelow a.toNat 64)
/-- The lesser as signed numbers. -/
def minSigned (a b : W64) : W64 := if a.sle b then a else b
/-- The greater as signed numbers. -/
def maxSigned (a b : W64) : W64 := if a.sle b then b else a
/-- The lesser as unsigned numbers. -/
def minUnsigned (a b : W64) : W64 := if a ≤ b then a else b
/-- The greater as unsigned numbers. -/
def maxUnsigned (a b : W64) : W64 := if a ≤ b then b else a

/-- A condition of `cmp` (R83). -/
def condHolds (c : Cond) (a b : W64) : Bool :=
  match c with
  | .eq => a == b
  | .ne => a != b
  | .lt => a.slt b
  | .le => a.sle b
  | .gt => b.slt a
  | .ge => b.sle a
  | .ltn => a.ult b
  | .len => a.ule b
  | .gtn => b.ult a
  | .gen => b.ule a
  | .tst => (a &&& b) != 0

/-- A condition of `cmpi` (R84). -/
def immCondHolds (c : ImmCond) (a b : W64) : Bool :=
  match c with
  | .eq => a == b
  | .ne => a != b
  | .lt => a.slt b
  | .le => a.sle b
  | .gt => b.slt a
  | .ge => b.sle a
  | .ltn => a.ult b
  | .gen => b.ule a

/-- What `cmp` writes: the condition combined with the old one (R83). -/
def combined (m : Combine) (old t : Bool) : Bool :=
  match m with
  | .set => t
  | .conj => old && t
  | .disj => old || t

/-- The low `n` bits set. -/
def onesMask (n : Nat) : W64 := BitVec.ofNat 64 (2 ^ n - 1)
/-- A field of `n` bits at `p`, sign-extended (R79). -/
def extSigned (a : W64) (p n : Nat) : W64 := ((a >>> p) <<< (64 - n)).sshiftRight (64 - n)
/-- A field of `n` bits at `p`, zero-extended (R79). -/
def extZero (a : W64) (p n : Nat) : W64 := (a >>> p) &&& onesMask n
/-- The low `n` bits of `a` put at `p` of `d` (R79). -/
def insField (d a : W64) (p n : Nat) : W64 := (d &&& ~~~(onesMask n <<< p)) ||| ((a &&& onesMask n) <<< p)
/-- A position and a length that end above bit 63 (R38, R79): reason 2, field F. -/
def fieldFits (p l : BitVec 6) : List EncFail := if p.toNat + l.toNat + 1 > 64 then undef 2 l.toNat 4 else []

/-- The field of the work identifier that `wid` reads (R82, R200). -/
def widField (s : State) (t : Task) (k : Nat) : W64 :=
  if k = 6 then t.wid
  else
    let fw := (s.launch t.launch).pkt.fw.takeWhile fun x => x != 0
    if k < fw.length then BitVec.ofNat 64 (bitsOf t.wid.toNat ((fw.take k).foldl (· + ·) 0) (fw.getD k 0)) else 0

/-- `add` stages its result (R77). -/
def stageAdd (d a b : Code) (core : Nat) (_ : State) (t : Task) : Staged :=
  stageBin latLogic d a b (fun a b => a + b) core t

/-- `add` (R77). -/
def execAdd (st : Bool) (d a b : Code) (s : State) : Host.Outcome State Fault Refusal :=
  finishSlot 0 0x00 st (stageAdd d a b) s

/-- `sub` stages its result (R77). -/
def stageSub (d a b : Code) (core : Nat) (_ : State) (t : Task) : Staged :=
  stageBin latLogic d a b (fun a b => a - b) core t

/-- `sub` (R77). -/
def execSub (st : Bool) (d a b : Code) (s : State) : Host.Outcome State Fault Refusal :=
  finishSlot 0 0x00 st (stageSub d a b) s

/-- `mul` stages its result (R77). -/
def stageMul (d a b : Code) (core : Nat) (_ : State) (t : Task) : Staged :=
  stageBin latMul d a b (fun a b => a * b) core t

/-- `mul` (R77). -/
def execMul (st : Bool) (d a b : Code) (s : State) : Host.Outcome State Fault Refusal :=
  finishSlot 0 0x00 st (stageMul d a b) s

/-- `mulh` stages its result (R77). -/
def stageMulh (d a b : Code) (core : Nat) (_ : State) (t : Task) : Staged :=
  stageBin latMul d a b (fun a b => mulHigh a b) core t

/-- `mulh` (R77). -/
def execMulh (st : Bool) (d a b : Code) (s : State) : Host.Outcome State Fault Refusal :=
  finishSlot 0 0x00 st (stageMulh d a b) s

/-- `mulhn` stages its result (R77). -/
def stageMulhn (d a b : Code) (core : Nat) (_ : State) (t : Task) : Staged :=
  stageBin latMul d a b (fun a b => mulHighN a b) core t

/-- `mulhn` (R77). -/
def execMulhn (st : Bool) (d a b : Code) (s : State) : Host.Outcome State Fault Refusal :=
  finishSlot 0 0x00 st (stageMulhn d a b) s

/-- `div` stages its result (R77, R78). -/
def stageDiv (d a b : Code) (core : Nat) (_ : State) (t : Task) : Staged :=
  stageBin latNext d a b (fun a b => divSigned a b) core t

/-- `div` (R77, R78). -/
def execDiv (st : Bool) (d a b : Code) (s : State) : Host.Outcome State Fault Refusal :=
  finishSlot 0 0x00 st (stageDiv d a b) s

/-- `divn` stages its result (R77, R78). -/
def stageDivn (d a b : Code) (core : Nat) (_ : State) (t : Task) : Staged :=
  stageBin latNext d a b (fun a b => divUnsigned a b) core t

/-- `divn` (R77, R78). -/
def execDivn (st : Bool) (d a b : Code) (s : State) : Host.Outcome State Fault Refusal :=
  finishSlot 0 0x00 st (stageDivn d a b) s

/-- `rem` stages its result (R77, R78). -/
def stageRem (d a b : Code) (core : Nat) (_ : State) (t : Task) : Staged :=
  stageBin latNext d a b (fun a b => remSigned a b) core t

/-- `rem` (R77, R78). -/
def execRem (st : Bool) (d a b : Code) (s : State) : Host.Outcome State Fault Refusal :=
  finishSlot 0 0x00 st (stageRem d a b) s

/-- `remn` stages its result (R77, R78). -/
def stageRemn (d a b : Code) (core : Nat) (_ : State) (t : Task) : Staged :=
  stageBin latNext d a b (fun a b => remUnsigned a b) core t

/-- `remn` (R77, R78). -/
def execRemn (st : Bool) (d a b : Code) (s : State) : Host.Outcome State Fault Refusal :=
  finishSlot 0 0x00 st (stageRemn d a b) s

/-- `and` stages its result (R77). -/
def stageAnd (d a b : Code) (core : Nat) (_ : State) (t : Task) : Staged :=
  stageBin latLogic d a b (fun a b => a &&& b) core t

/-- `and` (R77). -/
def execAnd (st : Bool) (d a b : Code) (s : State) : Host.Outcome State Fault Refusal :=
  finishSlot 0 0x00 st (stageAnd d a b) s

/-- `or` stages its result (R77). -/
def stageOr (d a b : Code) (core : Nat) (_ : State) (t : Task) : Staged :=
  stageBin latLogic d a b (fun a b => a ||| b) core t

/-- `or` (R77). -/
def execOr (st : Bool) (d a b : Code) (s : State) : Host.Outcome State Fault Refusal :=
  finishSlot 0 0x00 st (stageOr d a b) s

/-- `xor` stages its result (R77). -/
def stageXor (d a b : Code) (core : Nat) (_ : State) (t : Task) : Staged :=
  stageBin latLogic d a b (fun a b => a ^^^ b) core t

/-- `xor` (R77). -/
def execXor (st : Bool) (d a b : Code) (s : State) : Host.Outcome State Fault Refusal :=
  finishSlot 0 0x00 st (stageXor d a b) s

/-- `andn` stages its result (R77). -/
def stageAndn (d a b : Code) (core : Nat) (_ : State) (t : Task) : Staged :=
  stageBin latLogic d a b (fun a b => a &&& ~~~b) core t

/-- `andn` (R77). -/
def execAndn (st : Bool) (d a b : Code) (s : State) : Host.Outcome State Fault Refusal :=
  finishSlot 0 0x00 st (stageAndn d a b) s

/-- `shl` stages its result (R77). -/
def stageShl (d a b : Code) (core : Nat) (_ : State) (t : Task) : Staged :=
  stageBin latLogic d a b (fun a b => a <<< shiftOf b) core t

/-- `shl` (R77). -/
def execShl (st : Bool) (d a b : Code) (s : State) : Host.Outcome State Fault Refusal :=
  finishSlot 0 0x00 st (stageShl d a b) s

/-- `shr` stages its result (R77). -/
def stageShr (d a b : Code) (core : Nat) (_ : State) (t : Task) : Staged :=
  stageBin latLogic d a b (fun a b => a >>> shiftOf b) core t

/-- `shr` (R77). -/
def execShr (st : Bool) (d a b : Code) (s : State) : Host.Outcome State Fault Refusal :=
  finishSlot 0 0x00 st (stageShr d a b) s

/-- `sha` stages its result (R77). -/
def stageSha (d a b : Code) (core : Nat) (_ : State) (t : Task) : Staged :=
  stageBin latLogic d a b (fun a b => a.sshiftRight (shiftOf b)) core t

/-- `sha` (R77). -/
def execSha (st : Bool) (d a b : Code) (s : State) : Host.Outcome State Fault Refusal :=
  finishSlot 0 0x00 st (stageSha d a b) s

/-- `rot` stages its result (R77). -/
def stageRot (d a b : Code) (core : Nat) (_ : State) (t : Task) : Staged :=
  stageBin latLogic d a b (fun a b => a.rotateRight (shiftOf b)) core t

/-- `rot` (R77). -/
def execRot (st : Bool) (d a b : Code) (s : State) : Host.Outcome State Fault Refusal :=
  finishSlot 0 0x00 st (stageRot d a b) s

/-- `min` stages its result (R77). -/
def stageMin (d a b : Code) (core : Nat) (_ : State) (t : Task) : Staged :=
  stageBin latLogic d a b (fun a b => minSigned a b) core t

/-- `min` (R77). -/
def execMin (st : Bool) (d a b : Code) (s : State) : Host.Outcome State Fault Refusal :=
  finishSlot 0 0x00 st (stageMin d a b) s

/-- `max` stages its result (R77). -/
def stageMax (d a b : Code) (core : Nat) (_ : State) (t : Task) : Staged :=
  stageBin latLogic d a b (fun a b => maxSigned a b) core t

/-- `max` (R77). -/
def execMax (st : Bool) (d a b : Code) (s : State) : Host.Outcome State Fault Refusal :=
  finishSlot 0 0x00 st (stageMax d a b) s

/-- `minn` stages its result (R77). -/
def stageMinn (d a b : Code) (core : Nat) (_ : State) (t : Task) : Staged :=
  stageBin latLogic d a b (fun a b => minUnsigned a b) core t

/-- `minn` (R77). -/
def execMinn (st : Bool) (d a b : Code) (s : State) : Host.Outcome State Fault Refusal :=
  finishSlot 0 0x00 st (stageMinn d a b) s

/-- `maxn` stages its result (R77). -/
def stageMaxn (d a b : Code) (core : Nat) (_ : State) (t : Task) : Staged :=
  stageBin latLogic d a b (fun a b => maxUnsigned a b) core t

/-- `maxn` (R77). -/
def execMaxn (st : Bool) (d a b : Code) (s : State) : Host.Outcome State Fault Refusal :=
  finishSlot 0 0x00 st (stageMaxn d a b) s

/-- `mad` stages its result (R77). -/
def stageMad (d a b : Code) (core : Nat) (_ : State) (t : Task) : Staged :=
  stageBin latMul d a b (fun a b => rdG core t d + a * b) core t

/-- `mad` (R77). -/
def execMad (st : Bool) (d a b : Code) (s : State) : Host.Outcome State Fault Refusal :=
  finishSlot 0 0x00 st (stageMad d a b) s

/-- `clz` stages its result (R77). -/
def stageClz (d a : Code) (core : Nat) (_ : State) (t : Task) : Staged :=
  stageUn latLogic d a (fun a => leadingZeros a) core t

/-- `clz` (R77). -/
def execClz (st : Bool) (d a : Code) (s : State) : Host.Outcome State Fault Refusal :=
  finishSlot 0 0x00 st (stageClz d a) s

/-- `ctz` stages its result (R77). -/
def stageCtz (d a : Code) (core : Nat) (_ : State) (t : Task) : Staged :=
  stageUn latLogic d a (fun a => trailingZeros a) core t

/-- `ctz` (R77). -/
def execCtz (st : Bool) (d a : Code) (s : State) : Host.Outcome State Fault Refusal :=
  finishSlot 0 0x00 st (stageCtz d a) s

/-- `popc` stages its result (R77). -/
def stagePopc (d a : Code) (core : Nat) (_ : State) (t : Task) : Staged :=
  stageUn latLogic d a (fun a => popCount a) core t

/-- `popc` (R77). -/
def execPopc (st : Bool) (d a : Code) (s : State) : Host.Outcome State Fault Refusal :=
  finishSlot 0 0x00 st (stagePopc d a) s

/-- `mov` stages its result (R77). -/
def stageMov (d a : Code) (core : Nat) (_ : State) (t : Task) : Staged :=
  stageUn latLogic d a (fun a => a) core t

/-- `mov` (R77). -/
def execMov (st : Bool) (d a : Code) (s : State) : Host.Outcome State Fault Refusal :=
  finishSlot 0 0x00 st (stageMov d a) s

/-- `lea` stages its result (R77). -/
def stageLeaRrScale12 (d a b : Code) (x : Bool) (core : Nat) (_ : State) (t : Task) : Staged :=
  stageBin latLogic d a b (fun a b => a + b <<< (if x then 1 else 0)) core t

/-- `lea` (R77). -/
def execLeaRrScale12 (st : Bool) (d a b : Code) (x : Bool) (s : State) : Host.Outcome State Fault Refusal :=
  finishSlot 0 0x00 st (stageLeaRrScale12 d a b x) s

/-- `lea` stages its result (R77). -/
def stageLeaRrScale48 (d a b : Code) (x : Bool) (core : Nat) (_ : State) (t : Task) : Staged :=
  stageBin latLogic d a b (fun a b => a + b <<< (if x then 3 else 2)) core t

/-- `lea` (R77). -/
def execLeaRrScale48 (st : Bool) (d a b : Code) (x : Bool) (s : State) : Host.Outcome State Fault Refusal :=
  finishSlot 0 0x00 st (stageLeaRrScale48 d a b x) s

/-- `cmp` stages its result (R83). -/
def stageCmp (d a b : Code) (m : Combine) (c : Cond) (core : Nat) (_ : State) (t : Task) : Staged :=
  { encs := inFile 8 d 1 ++ srcG a 2 ++ srcG b 3, dests := [(.c, d.toNat)],
    effects := wrC d.toNat latLogic (combined m (t.cReg d.toNat) (condHolds c (rdG core t a) (rdG core t b))) }

/-- `cmp` (R83). -/
def execCmp (st : Bool) (d a b : Code) (m : Combine) (c : Cond) (s : State) : Host.Outcome State Fault Refusal :=
  finishSlot 0 0x01 st (stageCmp d a b m c) s

/-- `sel` stages its result (R85). -/
def stageSel (d a b : Code) (n : Bool) (c : BitVec 3) (core : Nat) (_ : State) (t : Task) : Staged :=
  stageBin latLogic d a b (fun a b => if t.cReg c.toNat != n then a else b) core t

/-- `sel` (R85). -/
def execSel (st : Bool) (d a b : Code) (n : Bool) (c : BitVec 3) (s : State) : Host.Outcome State Fault Refusal :=
  finishSlot 0 0x02 st (stageSel d a b n c) s

/-- `ext` stages its result (R79). -/
def stageExt (d a : Code) (p : BitVec 6) (l : BitVec 6) (core : Nat) (_ : State) (t : Task) : Staged :=
  let x := stageUn latLogic d a (fun a => extSigned a p.toNat (l.toNat + 1)) core t
  { x with encs := fieldFits p l ++ x.encs }

/-- `ext` (R79). -/
def execExt (st : Bool) (d a : Code) (p : BitVec 6) (l : BitVec 6) (s : State) : Host.Outcome State Fault Refusal :=
  finishSlot 0 0x03 st (stageExt d a p l) s

/-- `extn` stages its result (R79). -/
def stageExtn (d a : Code) (p : BitVec 6) (l : BitVec 6) (core : Nat) (_ : State) (t : Task) : Staged :=
  let x := stageUn latLogic d a (fun a => extZero a p.toNat (l.toNat + 1)) core t
  { x with encs := fieldFits p l ++ x.encs }

/-- `extn` (R79). -/
def execExtn (st : Bool) (d a : Code) (p : BitVec 6) (l : BitVec 6) (s : State) : Host.Outcome State Fault Refusal :=
  finishSlot 0 0x04 st (stageExtn d a p l) s

/-- `ins` stages its result (R79). -/
def stageIns (d a : Code) (p : BitVec 6) (l : BitVec 6) (core : Nat) (_ : State) (t : Task) : Staged :=
  let x := stageUn latLogic d a (fun a => insField (rdG core t d) a p.toNat (l.toNat + 1)) core t
  { x with encs := fieldFits p l ++ x.encs }

/-- `ins` (R79). -/
def execIns (st : Bool) (d a : Code) (p : BitVec 6) (l : BitVec 6) (s : State) : Host.Outcome State Fault Refusal :=
  finishSlot 0 0x05 st (stageIns d a p l) s

/-- `wid` stages its result (R82). -/
def stageWid (d : Code) (k : BitVec 12) (_ : Nat) (s : State) (t : Task) : Staged :=
  { encs := dstG d 1 ++ (if k.toNat > 6 then undef 2 (k.toNat % 256) 5 else []), dests := destG d,
    effects := wrG d latLogic (widField s t k.toNat) }

/-- `wid` (R82). -/
def execWid (st : Bool) (d : Code) (k : BitVec 12) (s : State) : Host.Outcome State Fault Refusal :=
  finishSlot 0 0x06 st (stageWid d k) s

/-- `lea` stages its result (R80). -/
def stageLeaRi (d a : Code) (i : BitVec 12) (core : Nat) (_ : State) (t : Task) : Staged :=
  stageUn latLogic d a (fun a => a + sext12 i) core t

/-- `lea` (R80). -/
def execLeaRi (st : Bool) (d a : Code) (i : BitVec 12) (s : State) : Host.Outcome State Fault Refusal :=
  finishSlot 0 0x07 st (stageLeaRi d a i) s

/-- `addi` stages its result (R80). -/
def stageAddi (d a : Code) (i : BitVec 12) (core : Nat) (_ : State) (t : Task) : Staged :=
  stageUn latLogic d a (fun a => a + sext12 i) core t

/-- `addi` (R80). -/
def execAddi (st : Bool) (d a : Code) (i : BitVec 12) (s : State) : Host.Outcome State Fault Refusal :=
  finishSlot 0 0x08 st (stageAddi d a i) s

/-- `andi` stages its result (R80). -/
def stageAndi (d a : Code) (i : BitVec 12) (core : Nat) (_ : State) (t : Task) : Staged :=
  stageUn latLogic d a (fun a => a &&& sext12 i) core t

/-- `andi` (R80). -/
def execAndi (st : Bool) (d a : Code) (i : BitVec 12) (s : State) : Host.Outcome State Fault Refusal :=
  finishSlot 0 0x09 st (stageAndi d a i) s

/-- `ori` stages its result (R80). -/
def stageOri (d a : Code) (i : BitVec 12) (core : Nat) (_ : State) (t : Task) : Staged :=
  stageUn latLogic d a (fun a => a ||| sext12 i) core t

/-- `ori` (R80). -/
def execOri (st : Bool) (d a : Code) (i : BitVec 12) (s : State) : Host.Outcome State Fault Refusal :=
  finishSlot 0 0x0A st (stageOri d a i) s

/-- `xori` stages its result (R80). -/
def stageXori (d a : Code) (i : BitVec 12) (core : Nat) (_ : State) (t : Task) : Staged :=
  stageUn latLogic d a (fun a => a ^^^ sext12 i) core t

/-- `xori` (R80). -/
def execXori (st : Bool) (d a : Code) (i : BitVec 12) (s : State) : Host.Outcome State Fault Refusal :=
  finishSlot 0 0x0B st (stageXori d a i) s

/-- `cmpi` stages its result (R84). -/
def stageCmpi (k : ImmCond) (c : BitVec 3) (a : Code) (i : BitVec 12) (core : Nat) (_ : State) (t : Task) : Staged :=
  { encs := srcG a 2, dests := [(.c, c.toNat)], effects := wrC c.toNat latLogic (immCondHolds k (rdG core t a) (sext12 i)) }

/-- `cmpi` (R84). -/
def execCmpi (st : Bool) (k : ImmCond) (c : BitVec 3) (a : Code) (i : BitVec 12) (s : State) : Host.Outcome State Fault Refusal :=
  finishSlot 0 0x0C st (stageCmpi k c a i) s

/-- `shli` stages its result (R80). -/
def stageShli (d a : Code) (n : BitVec 6) (core : Nat) (_ : State) (t : Task) : Staged :=
  stageUn latLogic d a (fun a => a <<< n.toNat) core t

/-- `shli` (R80). -/
def execShli (st : Bool) (d a : Code) (n : BitVec 6) (s : State) : Host.Outcome State Fault Refusal :=
  finishSlot 0 0x0D st (stageShli d a n) s

/-- `shri` stages its result (R80). -/
def stageShri (d a : Code) (n : BitVec 6) (core : Nat) (_ : State) (t : Task) : Staged :=
  stageUn latLogic d a (fun a => a >>> n.toNat) core t

/-- `shri` (R80). -/
def execShri (st : Bool) (d a : Code) (n : BitVec 6) (s : State) : Host.Outcome State Fault Refusal :=
  finishSlot 0 0x0D st (stageShri d a n) s

/-- `shai` stages its result (R80). -/
def stageShai (d a : Code) (n : BitVec 6) (core : Nat) (_ : State) (t : Task) : Staged :=
  stageUn latLogic d a (fun a => a.sshiftRight n.toNat) core t

/-- `shai` (R80). -/
def execShai (st : Bool) (d a : Code) (n : BitVec 6) (s : State) : Host.Outcome State Fault Refusal :=
  finishSlot 0 0x0D st (stageShai d a n) s

/-- `li` stages its result (R81). -/
def stageLi (d : Code) (i : BitVec 18) (_ : Nat) (_ : State) (_ : Task) : Staged :=
  { encs := dstG d 1, dests := destG d, effects := wrG d latLogic (sext18 i) }

/-- `li` (R81). -/
def execLi (st : Bool) (d : Code) (i : BitVec 18) (s : State) : Host.Outcome State Fault Refusal :=
  finishSlot 0 0x0E st (stageLi d i) s

/-- `lih` stages its result (R81). -/
def stageLih (d : Code) (i : BitVec 18) (core : Nat) (_ : State) (t : Task) : Staged :=
  { encs := dstG d 1, dests := destG d, effects := wrG d latLogic ((rdG core t d <<< 18) ||| i.setWidth 64) }

/-- `lih` (R81). -/
def execLih (st : Bool) (d : Code) (i : BitVec 18) (s : State) : Host.Outcome State Fault Refusal :=
  finishSlot 0 0x0F st (stageLih d i) s

end Sys2Proof.Machine
end

