-- ==== Sys2Proof/Machine/Control.lean ====
section
/-! DEFINITION. The control class (04 R94 to R103, 06 R139, 10 R195). -/

namespace Sys2Proof.Machine

/-- A signed displacement in slots (R39). -/
def slotsFrom (base : W64) (i : BitVec 18) : W64 := base + (sext18 i <<< 2)

/-- *misaligned access* of a code address (R94, R95). -/
def codeMisaligned (a : W64) : Option TrapInfo := faultIf (a.toNat % 4 != 0) (misaligned 4 a)

/-- The value of the lead of a gang that a control slot of a bundle held aside has used (R219). -/
def leadHeld (t : Task) : Option W64 :=
  match t.stall with
  | some st => (st.bundle.staged.flatMap (·.effects)).findSome? fun e => match e with | .leadIs v => some v | _ => none
  | none => none

/-- The value that a control slot goes by (R219): a member of a gang takes the lead's at the same contract cycle; the lead
leaves its own for the others. -/
def controlValue (s : State) (u : Task) (own : W64) : W64 × List Effect :=
  if !s.cadenced u then (own, [])
  else if u.i0 = 0 then (own, [.leadIs own])
  else
    let held : Option W64 := match (s.tasksOf u.gid).find? fun e => e.2.i0 == 0 with
      | some l => if l.2.cycle = u.cycle then leadHeld l.2 else none
      | none => none
    ((held.or (mapGet u.cycle (s.groupOf u).lead)).getD own, [])

/-- `brp t, label` (R94). -/
def execBrpLabel (st : Bool) (t : BitVec 3) (i : BitVec 18) (s : State) : Host.Outcome State Fault Refusal :=
  finishSlot 1 0x10 st (fun _ s _ => { dests := [(.t, t.toNat)], effects := [.target t.toNat (slotsFrom s.bundle.addr i)] }) s

/-- `brp t, g` (R94). -/
def execBrpReg (st : Bool) (t : BitVec 3) (g : Code) (s : State) : Host.Outcome State Fault Refusal :=
  finishSlot 1 0x11 st (fun core s u =>
    let a := controlValue s u (rdG core u g)
    { encs := srcG g 5, fault := codeMisaligned a.1, dests := [(.t, t.toNat)], effects := .target t.toNat a.1 :: a.2 }) s

/-- Reason 0x21: a transfer in the body of an active `lp` (R97, R99). -/
def inLoop (u : Task) (op : Nat) : List EncFail := if u.loops = [] then [] else undef 0x21 op 0

/-- Reason 0x20: a transfer through an entry that is not valid (R96). -/
def invalidTarget (u : Task) (t : BitVec 3) : List EncFail :=
  if (u.tReg t.toNat).valid then [] else undef 0x20 t.toNat 6

/-- Whether a `go` transfers (R95). -/
def goes (u : Task) (c : BitVec 3) (m : GoMode) : Bool :=
  match m with
  | .always => true
  | .ifSet => u.cReg c.toNat
  | .ifClear => !u.cReg c.toNat

/-- `go` (R95, R96). -/
def execGo (st : Bool) (t c : BitVec 3) (m : GoMode) (s : State) : Host.Outcome State Fault Refusal :=
  finishSlot 1 0x12 st (fun _ s u =>
    let v := controlValue s u (if goes u c m then 1 else 0)
    if v.1 = 0 then { encs := inLoop u 0x12, effects := v.2 }
    else { encs := inLoop u 0x12 ++ invalidTarget u t, effects := .jump (u.tReg t.toNat).addr :: v.2 }) s

/-- `call` (R95, R96): the return address is that of the bundle that follows its own. -/
def execCall (st : Bool) (t : BitVec 3) (g : Code) (s : State) : Host.Outcome State Fault Refusal :=
  finishSlot 1 0x13 st (fun _ s u =>
    { encs := inLoop u 0x13 ++ invalidTarget u t ++ dstG g 5, dests := destG g,
      effects := .jump (u.tReg t.toNat).addr :: wrG g latNext s.bundle.next }) s

/-- `ret` (R95). -/
def execRet (st : Bool) (g : Code) (s : State) : Host.Outcome State Fault Refusal :=
  finishSlot 1 0x14 st (fun core s u =>
    let a := controlValue s u (rdG core u g)
    { encs := inLoop u 0x14 ++ srcG g 5, fault := codeMisaligned a.1, effects := .jump a.1 :: a.2 }) s

/-- The region of the task's code object that holds an address (R53), by the object as the Skiver keeps it: start and end
addresses; the units of apertures that reading it waits for; or a fault of that read. -/
def regionAt (s : State) (core : Nat) (u : Task) (va : W64) : Except TrapInfo (Sum (Option (Nat × Nat)) (List Nat)) :=
  match codeObject s core u with
  | .error e => .error e
  | .ok (.inr need) => .ok (.inr need)
  | .ok (.inl (o, _, _)) =>
    let base := u.code.toNat + o.off
    .ok <| .inl ((regionHolding o.regions ((va.toNat + 2 ^ 64 - base) % 2 ^ 64)).map fun r => (base + r.1, base + r.1 + r.2.1))

/-- The region in which the body of an `lp` of a bundle begins: that of the bundle, or the next (R99). -/
def bodyRegion (s : State) (core : Nat) (u : Task) : Except TrapInfo (Sum (Option (Nat × Nat)) (List Nat)) :=
  let va := s.bundle.next
  match s.bundle.region with
  | some r => if va.toNat < r.2 then .ok (.inl (some r)) else regionAt s core u va
  | none => regionAt s core u va

/-- Reason 0x22: nesting broken (R97, R99). -/
def nestingBroken (u : Task) : List EncFail := undef 0x22 (u.loops.length + 1) 7

/-- `lp` (R98 to R100): its body is found by its stop bits, read from memory as the code fetch reads it. DESIGN CHOICE (log
entry 59): an `lp` with N = 0, which opens no level, raises reason 0x22 inside four active loops all the same; a fault of
reading the region table or the body's code is one of this slot; and the stop bits are those in memory now, not those of
translations that survive a change of the code (R371). -/
def stageLp (g : Code) (n : BitVec 12) (core : Nat) (s : State) (u : Task) : Staged :=
  let v := controlValue s u (rdG core u g)
  let count := v.1.toNat
  let bad : Staged := { encs := nestingBroken u ++ srcG g 5 }
  if n = 0 then { encs := undef 2 0 5 ++ srcG g 5 }
  else if u.loops.length ≥ 4 then bad
  else
    match bodyRegion s core u with
    | .error i => { encs := srcG g 5, fault := some i }
    | .ok (.inr need) => { encs := srcG g 5, waits := need.map .answer }
    | .ok (.inl none) => bad
    | .ok (.inl (some r)) =>
      match bodyEnd s core u r.2 n.toNat s.bundle.next with
      | .error i => { encs := srcG g 5, fault := some i }
      | .ok (.inr need) => { encs := srcG g 5, waits := need.map .answer }
      | .ok (.inl none) => bad
      | .ok (.inl (some stop)) =>
        let outer := match u.loops.getLast? with | some l => decide (stop.toNat ≤ l.stop.toNat) | none => true
        let code := codePlaces s core u s.bundle.next stop
        let head : Effect :=
          if count = 0 then .skipTo stop else .loopOpen { start := s.bundle.next, stop := stop, left := count - 1 }
        if !outer then bad else { encs := srcG g 5, fills := code.2, effects := head :: v.2 ++ windowEffects s code.1 }

/-- `lp` (R98). -/
def execLp (st : Bool) (g : Code) (n : BitVec 12) (s : State) : Host.Outcome State Fault Refusal :=
  finishSlot 1 0x15 st (stageLp g n) s

/-- *solve misuse* with a reason, and the lowest bit of the offending field (R196). -/
def solveMisuse (u : Task) (reason bit : Nat) : TrapInfo :=
  let code := match u.slv.code with | .idle => 0 | .ready => 1 | .opened => 2 | .looping => 3
  { cause := .solveMisuse, word := BitVec.ofNat 64 (reason + code * 2 ^ 32 + bit * 2 ^ 40) }

/-- Whether a solve is OPEN or LOOPING (R183). -/
def solveRuns (u : Task) : Bool := u.slv.code == .opened || u.slv.code == .looping

/-- `exit` (R101, R139, R195). -/
def execExit (st : Bool) (s : State) : Host.Outcome State Fault Refusal :=
  finishSlot 1 0x16 st (fun _ _ u =>
    { fault := (faultIf (solveRuns u) (solveMisuse u 0x0B 0)).or
        (faultIf (u.banks != []) { cause := .accLeak, word := BitVec.ofNat 64 u.banks.length }),
      effects := [.leave] }) s

/-- `nop` (R102). -/
def execNop (st : Bool) (s : State) : Host.Outcome State Fault Refusal := finishSlot 1 0x17 st (fun _ _ _ => {}) s

/-- `brk` (R103): *breakpoint* after its bundle commits. -/
def execBrk (st : Bool) (k : BitVec 18) (s : State) : Host.Outcome State Fault Refusal :=
  finishSlot 1 0x18 st (fun _ _ _ => { effects := [.raise .breakpoint (k.setWidth 64)] }) s

end Sys2Proof.Machine
end

