-- ==== Sys2Proof/Machine/MemScalar.lean ====
section
/-! DEFINITION. Scalar loads and stores, hoisted loads, and control registers as the memory class and the system class
reach them (04 R87 to R93, 14 R247, 19 R354). -/

namespace Sys2Proof.Machine

/-- Places of an access, or its first fault. -/
abbrev Placed := Except TrapInfo (List (Nat × Nat × W64) × List TlbEntry)

-- Control registers (R247, R354). --------------------------------------------------------------------------------

/-- The control register that placed pieces are, in the control-register region (R247). -/
def controlReg (s : State) (l : List (Nat × Nat × W64)) : Option Nat :=
  match l with
  | [(pa, 8, _)] => if regionOf s pa == .control then some ((pa - 0x081000000000) / 8) else none
  | _ => none

/-- *undefined encoding* for a register number that no rule assigns, as `cr.rd` of it would be (R247, R354; log entry 30). -/
def crUnassigned (n : Nat) : TrapInfo := { cause := .undefinedEncoding, word := crUnassignedWord n }

/-- The value a `cr.rd` of a task reads (R354). -/
def crValue (s : State) (core : Nat) (t : Task) (n : Nat) : W64 := crRead s (some (dieOf core)) t n

/-- What an access of the issuing task waits for, where it can be placed. -/
def touchWaits (s : State) (t : Task) (store : Bool) (r : Placed) : List Wait :=
  match r with
  | .ok q => accessWaits s t store q.1
  | .error _ => []

/-- What a write of a control register by a task's slot comes to (R252 to R254, R260, R354, R370). The table of a schedule is read
as loads of the bundle. -/
def stageCrWrite (s : State) (core : Nat) (t : Task) (n : Nat) (v : W64) : Staged :=
  let base : Staged := { effects := [.crWrite n v] }
  if crRefused s t n v then { fault := some { cause := .permission, word := crWord n } }
  else if n = 0x12 ∧ v ≠ 0 then
    let va := scheduleTable (s.group t.gid)
    let r := schedulePlaces s core t v.toNat
    let x := loadStaged s t va r
    let waits := x.waits ++ touchWaits s t false r
    if x.fault.isSome || waits != [] then { x with waits := waits, effects := [] }
    else
      match loadSchedule s core t v.toNat with
      | .error e => { fault := some e, fills := x.fills }
      | .ok l => { base with effects := x.effects ++ [.crWrite n v, .schedule l], fills := x.fills }
  else if n = 0x10 ∧ banksChanged (s.group t.gid) v ≠ [] then { base with waits := [.modeSwitch (banksChanged (s.group t.gid) v)] }
  else if n = 0x40 then { base with waits := [.atomsDone] }
  else
    match windowShut s n v with
    | some w => { base with waits := [.windowIdle w] }
    | none => base

-- Scalar accesses (R87). -----------------------------------------------------------------------------------------

/-- The checks of a scalar access in their order: canonical, aligned, translated and allowed (R87). -/
def scalarPlace (s : State) (core : Nat) (t : Task) (acc : Acc) (size : Nat) (ea : W64) : Placed :=
  if canonical ea && ea.toNat % size != 0 then .error (misaligned size ea)
  else placeAll s (slotCtx core t) acc [(ea, size)]

/-- The checks of an access that is not in the classes L and S of a core's L slot: those of R87, without the direct regions, which
only these reach (R247, R271). -/
def orderedPlace (s : State) (core : Nat) (t : Task) (acc : Acc) (size : Nat) (ea : W64) : Placed :=
  if canonical ea && ea.toNat % size != 0 then .error (misaligned size ea)
  else placeAll s { slotCtx core t with slotL := false } acc [(ea, size)]

/-- Bytes of a scalar width (R44). -/
def widthBytes : Width → Nat
  | .n8 => 1 | .i8 => 1 | .n16 => 2 | .i16 => 2 | .n32 => 4 | .i32 => 4 | .w64 => 8

/-- Whether a width is sign-extended (R88). -/
def widthSigned : Width → Bool
  | .i8 => true | .i16 => true | .i32 => true | _ => false

/-- A loaded value extended (R88). -/
def extended (w : Width) (x : Nat) : W64 :=
  let n := 8 * widthBytes w
  if widthSigned w then BitVec.ofNat 64 (ofSigned 64 (toSigned n x)) else BitVec.ofNat 64 (x % 2 ^ n)

/-- A read of placed bytes by a slot: what it comes to, the number read, and whether the result is interlocked because it
is a control register's (R247). -/
def readStaged (s : State) (core : Nat) (t : Task) (va : W64) (n : Nat) (r : Placed) : Staged × Nat × Bool :=
  match (match r with | .ok q => controlReg s q.1 | .error _ => none) with
  | some c =>
    if c < 4096 ∧ crAssigned c then ({}, (crValue s core t c).toNat, true) else ({ fault := some (crUnassigned c) }, 0, true)
  | none =>
    let x := loadStaged s t va r
    ({ x with waits := x.waits ++ touchWaits s t false r }, loadValue s t r, false)

/-- A store of placed bytes by a slot; `v` holds the bytes, the first lowest (R89, R247). -/
def writeStaged (s : State) (core : Nat) (t : Task) (va : W64) (n : Nat) (r : Placed) (v : Nat) : Staged :=
  match r with
  | .error e => { fault := some e }
  | .ok q =>
    match controlReg s q.1 with
    | some c =>
      if c < 4096 ∧ crAssigned c then stageCrWrite s core t c (BitVec.ofNat 64 v) else { fault := some (crUnassigned c) }
    | none =>
      match peerFault s (some va) q.1 with
      | some e => { fault := some e, fills := q.2 }
      | none => { effects := storePlaced s q.1 v, fills := q.2, waits := touchWaits s t true r }

/-- `ld` at an address (R88). -/
def loadAt (d : Code) (ea : W64) (w : Width) (core : Nat) (s : State) (t : Task) : Staged :=
  let n := widthBytes w
  let r := readStaged s core t ea n (scalarPlace s core t .read n ea)
  ({ dests := destG d, effects := wrG d (if r.2.2 then latNext else latLoad) (extended w r.2.1) } : Staged).and r.1

/-- `st` of the low bytes of a value at an address (R89). -/
def storeAt (ea : W64) (n : Nat) (v : W64) (core : Nat) (s : State) (t : Task) : Staged :=
  writeStaged s core t ea n (scalarPlace s core t .write n ea) (v.toNat % 256 ^ n)

/-- The address of an RR access: B scaled by 2^x (R87). -/
def addrRr (core : Nat) (t : Task) (a b : Code) (x : BitVec 2) : W64 := rdG core t a + rdG core t b <<< x.toNat

/-- The address of an RI access (R87). -/
def addrRi (core : Nat) (t : Task) (a : Code) (i : BitVec 12) : W64 := rdG core t a + sext12 i

/-- `ld` RR stages its result (R88). -/
def stageLdRr (d a b : Code) (w : Width) (x : BitVec 2) (core : Nat) (s : State) (t : Task) : Staged :=
  ({ encs := dstG d 1 ++ srcG a 2 ++ srcG b 3 } : Staged).and (loadAt d (addrRr core t a b x) w core s t)

/-- `ld` RR (R88). -/
def execLdRr (st : Bool) (d a b : Code) (w : Width) (x : BitVec 2) (s : State) : Host.Outcome State Fault Refusal :=
  finishSettled 3 0x30 st (stageLdRr d a b w x) s

/-- `ld` RI stages its result (R88). -/
def stageLdRi (d a : Code) (i : BitVec 12) (core : Nat) (s : State) (t : Task) : Staged :=
  ({ encs := dstG d 1 ++ srcG a 2 } : Staged).and (loadAt d (addrRi core t a i) .w64 core s t)

/-- `ld` RI (R88). -/
def execLdRi (st : Bool) (d a : Code) (i : BitVec 12) (s : State) : Host.Outcome State Fault Refusal :=
  finishSettled 3 0x31 st (stageLdRi d a i) s

/-- `st` RR stages its store (R89). -/
def stageStRr (d a b : Code) (w : ITy) (x : BitVec 2) (core : Nat) (s : State) (t : Task) : Staged :=
  ({ encs := srcG d 1 ++ srcG a 2 ++ srcG b 3 } : Staged).and
    (storeAt (addrRr core t a b x) (ityBytes w) (rdG core t d) core s t)

/-- `st` RR (R89). -/
def execStRr (st : Bool) (d a b : Code) (w : ITy) (x : BitVec 2) (s : State) : Host.Outcome State Fault Refusal :=
  finishSettled 3 0x32 st (stageStRr d a b w x) s

/-- `st` RI stages its store (R89). -/
def stageStRi (d a : Code) (i : BitVec 12) (core : Nat) (s : State) (t : Task) : Staged :=
  ({ encs := srcG d 1 ++ srcG a 2 } : Staged).and (storeAt (addrRi core t a i) 8 (rdG core t d) core s t)

/-- `st` RI (R89). -/
def execStRi (st : Bool) (d a : Code) (i : BitVec 12) (s : State) : Host.Outcome State Fault Refusal :=
  finishSettled 3 0x33 st (stageStRi d a i) s

-- Hoisted loads (R91 to R93). ------------------------------------------------------------------------------------

/-- A register write that leaves the address table alone (R92, item 3). -/
def keepEntry : Effect → Effect
  | .wr f r m v l => .wrKeep f r m v l
  | e => e

/-- Whether the page of a leaf is unordered (R269, R285); the task windows are not. -/
def leafUnordered (leaf : W64) : Bool := leaf != 0 && leaf.extractLsb' 10 2 == 0

/-- Whether an access to placed bytes is ordered as one to an unordered page (R269): a supervisor access to the near-store or
cluster-store region is ordered as one to a release-consistent page (R247). -/
def unorderedAt (s : State) (pa : Nat) (leaf : W64) : Bool :=
  leafUnordered leaf && regionOf s pa != .near && regionOf s pa != .cluster

/-- The physical ranges of a hoisted load, with those that an alias decodes from (R92, R262). -/
def hoistRanges (s : State) (l : List (Nat × Nat × W64)) : List (Nat × Nat × Bool) :=
  l.flatMap fun p => ((p.1, p.2.1) :: sourceRanges s p.1 p.2.1).map fun r => (r.1, r.2, unorderedAt s p.1 p.2.2)

/-- `ld.a` stages its load and its entry (R91). -/
def stageLdA (d a b : Code) (w : Width) (x : BitVec 2) (core : Nat) (s : State) (t : Task) : Staged :=
  let ea := addrRr core t a b x
  let r := stageLdRr d a b w x core s t
  let entry : List Effect := match scalarPlace s core t .read (widthBytes w) ea with
    | .ok q =>
      if d.toNat < 48 then
        [.enter { vec := false, width := w, reg := d.toNat, va := ea.toNat, len := widthBytes w, pas := hoistRanges s q.1 }]
      else []
    | .error _ => []
  { r with effects := r.effects.map keepEntry ++ entry }

/-- `ld.a` (R91). -/
def execLdA (st : Bool) (d a b : Code) (w : Width) (x : BitVec 2) (s : State) : Host.Outcome State Fault Refusal :=
  finishSettled 3 0x30 st (stageLdA d a b w x) s

/-- The write that a hit of `chk.a`, or one with D = 56, counts as under R23 (R93): a register beyond the file, so that
nothing is written. -/
def phantom (lat : Nat) : Effect := .wrKeep .g 63 0 0 lat

/-- `chk.a` stages its hit or its load (R93). -/
def stageChkA (d a b : Code) (w : Width) (x : BitVec 2) (core : Nat) (s : State) (t : Task) : Staged :=
  let ea := addrRr core t a b x
  let hit := t.atab.any fun e => !e.vec && e.width == w && e.reg == d.toNat && e.va == ea.toNat
  if d.toNat < 48 ∧ hit then
    { encs := dstG d 1 ++ srcG a 2 ++ srcG b 3, dests := destG d, effects := [phantom latLoad] }
  else
    let r := stageLdRr d a b w x core s t
    { r with effects := r.effects.map keepEntry ++ (if d.toNat = 56 then [phantom latLoad] else []) }

/-- `chk.a` (R93). -/
def execChkA (st : Bool) (d a b : Code) (w : Width) (x : BitVec 2) (s : State) : Host.Outcome State Fault Refusal :=
  finishSettled 3 0x34 st (stageChkA d a b w x) s

end Sys2Proof.Machine
end

