-- ==== Sys2Proof/Machine/VecArith.lean ====
section
/-! DEFINITION. The vector arithmetic majors OP 0x20 to 0x2E (05 R104 to R115, R117). -/

namespace Sys2Proof.Machine

/-- An element-wise operation under a predicate on elements of `e` bytes (R104, R105): `f i` gives element `i` and its
flags. -/
def stageLanes (lat e n : Nat) (p : BitVec 3) (d : Code) (encs : List EncFail) (u : Task) (f : Nat → Nat × BitVec 8) : Staged :=
  let r := lanes e (onActive (u.kReg p.toNat) e f) n
  { encs := dstV u.vcnt d 1 ++ encs, dests := destV d, flags := r.2.2,
    effects := wrV d lat (BitVec.ofNat 256 r.2.1) (BitVec.ofNat 2048 r.1) }

/-- An element-wise operation on two vectors. -/
def stageV2 (lat : Nat) (ty : VTy) (p : BitVec 3) (d a b : Code) (u : Task) (f : Nat → Nat → Nat × BitVec 8) : Staged :=
  let e := vtyBytes ty
  let x := rdV u a ty
  let y := rdV u b ty
  stageLanes lat e (256 / e) p d (srcV u.vcnt a 2 ++ srcV u.vcnt b 3) u fun i => f (elem e x i) (elem e y i)

/-- An element-wise operation on three vectors, the destination read (R108, R110). -/
def stageV3 (lat : Nat) (ty : VTy) (p : BitVec 3) (d a b : Code) (u : Task) (f : Nat → Nat → Nat → Nat × BitVec 8) : Staged :=
  let e := vtyBytes ty
  let x := rdV u a ty
  let y := rdV u b ty
  let z := rdV u d ty
  stageLanes lat e (256 / e) p d (srcV u.vcnt a 2 ++ srcV u.vcnt b 3) u fun i => f (elem e x i) (elem e y i) (elem e z i)

/-- An element-wise operation on one vector. -/
def stageV1 (lat : Nat) (ty : VTy) (p : BitVec 3) (d a : Code) (u : Task) (f : Nat → Nat × BitVec 8) : Staged :=
  let e := vtyBytes ty
  let x := rdV u a ty
  stageLanes lat e (256 / e) p d (srcV u.vcnt a 2) u fun i => f (elem e x i)

/-- An integer operation on elements of a type, or a floating-point one in its format. -/
def byType (ty : VTy) (int : Nat → Nat → Nat → Nat × BitVec 8) (fp : FFmt → Nat → Nat → Nat × BitVec 8) (a b : Nat) : Nat × BitVec 8 :=
  match vtyFmt ty with
  | some f => fp f a b
  | none => int (8 * vtyBytes ty) a b

/-- An integer operation on signed values of `n` bits, wrapped, or clamped under `.sat` (R55). -/
def intOp (sat : Bool) (op : Int → Int → Int) (n a b : Nat) : Nat × BitVec 8 :=
  intTo true sat n (op (toSigned n a) (toSigned n b))

/-- The lesser or greater of two signed elements. -/
def intPick (isMax : Bool) (n a b : Nat) : Nat × BitVec 8 :=
  (if (toSigned n a ≤ toSigned n b) != isMax then a else b, 0)

/-- `.vshl`, `.vshr`, `.vsha`: shifts by b modulo the width (R107). -/
def shiftLeftN (n a b : Nat) : Nat × BitVec 8 := (a * 2 ^ (b % n), 0)
/-- A logical right shift. -/
def shiftRightN (n a b : Nat) : Nat × BitVec 8 := (a / 2 ^ (b % n), 0)
/-- An arithmetic right shift. -/
def shiftArithN (n a b : Nat) : Nat × BitVec 8 := (ofSigned n (toSigned n a / (2 : Int) ^ (b % n)), 0)

/-- The comparison of `vcmp` on signed integers (R40, R109). -/
def intCmp (c : VCond) (n a b : Nat) : Bool :=
  match c with
  | .eq => a == b
  | .ne => a != b
  | .lt => decide (toSigned n a < toSigned n b)
  | .le => decide (toSigned n a ≤ toSigned n b)

/-- What `vcmp` makes of two elements: the result and its flags. -/
def elemCmp (c : VCond) (ty : VTy) (a b : Nat) : Bool × BitVec 8 :=
  match vtyFmt ty with
  | some f => fCmp f c a b
  | none => (intCmp c (8 * vtyBytes ty) a b, 0)

/-- A value converted to an element type (R56, R66, R67, R113): `sig` is the flag of a signalling NaN. -/
def fvToType (ty : VTy) (r : Rounding) (v : Fv) : Nat × BitVec 8 :=
  let x := match vtyFmt ty with
    | some f => fvTo f r false v
    | none => fvToInt true (8 * vtyBytes ty) r v
  (x.1, x.2 ||| sigFlag v)

/-- An integer converted to an element type (R56, R67). -/
def intToType (ty : VTy) (r : Rounding) (i : Int) : Nat × BitVec 8 :=
  match vtyFmt ty with
  | some f => finalRound f r false (dyOfInt i)
  | none => intTo true (satMode r) (8 * vtyBytes ty) i

/-- An element converted between two standard types (R113). -/
def convert (src dst : VTy) (r : Rounding) (x : Nat) : Nat × BitVec 8 :=
  match vtyFmt src with
  | some f => fvToType dst r (fvOf f x)
  | none => intToType dst r (toSigned (8 * vtyBytes src) x)

/-- `vabs`: the sign bit cleared, or the absolute value wrapped (R112). -/
def elemAbs (ty : VTy) (x : Nat) : Nat :=
  let n := 8 * vtyBytes ty
  match vtyFmt ty with
  | some _ => x % 2 ^ (n - 1)
  | none => ofSigned n (toSigned n x).natAbs

/-- `vneg`: the sign bit flipped, or the negation wrapped (R112). -/
def elemNeg (ty : VTy) (x : Nat) : Nat :=
  let n := 8 * vtyBytes ty
  match vtyFmt ty with
  | some _ => if x / 2 ^ (n - 1) % 2 = 1 then x - 2 ^ (n - 1) else x + 2 ^ (n - 1)
  | none => ofSigned n (-(toSigned n x))

/-- Element `i` of `vli` (R112). -/
def elemLi (ty : VTy) (g : W64) (i : Nat) : Nat × BitVec 8 :=
  match vtyFmt ty with
  | some f => finalRound f .rn false (dyOfInt (g.toInt + i))
  | none => (g.toNat + i, 0)

-- Reductions and scans (R72, R115). ------------------------------------------------------------------------------


/-- The tree of one list of leaves with an operation on elements and flags. -/
def treeOf (op : Nat × BitVec 8 → Nat × BitVec 8 → Nat × BitVec 8) (l : List (Option Nat)) : Option (Nat × BitVec 8) :=
  treeRoot op 8 (l.map fun x => x.map fun v => (v, 0))

/-- The sum of leaves of a type (R70, R72): rounded once at the root, or wrapped. -/
def redSum (ty : VTy) (l : List (Option Nat)) : Nat × BitVec 8 :=
  match vtyFmt ty with
  | some f =>
    (match treeRoot (sumNode (prec f + 8)) 8 (l.map fun x => x.map fun v => (fvOf f v, sigFlag (fvOf f v))) with
      | none => (0, 0)
      | some r => let y := fvTo f .rn false r.1; (y.1, y.2 ||| r.2))
  | none =>
    let n := 8 * vtyBytes ty
    (treeOf (fun a b => ((a.1 + b.1) % 2 ^ n, 0)) l).getD (0, 0)

/-- A leaf of a minimum or maximum tree: a NaN becomes canonical, a signalling one sets NV (R58). -/
def pickLeaf (f : FFmt) (x : Nat) : Nat × BitVec 8 :=
  match fvOf f x with
  | .nan sig => (canonNan f, flagIf sig fNV)
  | _ => (x, 0)

/-- The minimum or maximum of leaves of a type (R60, R72); the value for no leaf is that of R72. -/
def redPick (isMax : Bool) (ty : VTy) (l : List (Option Nat)) : Nat × BitVec 8 :=
  match vtyFmt ty with
  | some f =>
    (treeRoot (fun a b => let m := fMinMax f isMax a.1 b.1; (m.1, a.2 ||| b.2 ||| m.2)) 8
      (l.map fun x => x.map (pickLeaf f))).getD (withSign f isMax (overflowCode f), 0)
  | none =>
    let n := 8 * vtyBytes ty
    (treeOf (fun a b => intPick isMax n a.1 b.1) l).getD (ofSigned n (if isMax then intMin true n else intMax true n), 0)

/-- The unsigned minimum or maximum of leaves (R72, R115). -/
def redPickN (isMax : Bool) (n : Nat) (l : List (Option Nat)) : Nat × BitVec 8 :=
  (treeOf (fun a b => (if decide (a.1 ≤ b.1) != isMax then a.1 else b.1, 0)) l).getD (if isMax then 0 else 2 ^ n - 1, 0)

/-- A bitwise tree of leaves with its value for no leaf (R72). -/
def redBits (op : Nat → Nat → Nat) (none0 : Nat) (l : List (Option Nat)) : Nat × BitVec 8 :=
  (treeOf (fun a b => (op a.1 b.1, 0)) l).getD (none0, 0)

/-- The leaves of a reduction: inactive elements are absent (R72). -/
def leaves (p : Pred) (e : Nat) (x : VReg) : List (Option Nat) :=
  (List.range (256 / e)).map fun i => if active p e i then some (elem e x i) else none

/-- `vred` (R115): the result in element 0, zeros above. -/
def stageRed (ty : VTy) (p : BitVec 3) (d a : Code) (u : Task) (red : List (Option Nat) → Nat × BitVec 8) : Staged :=
  let e := vtyBytes ty
  let r := red (leaves (u.kReg p.toNat) e (rdV u a ty))
  { encs := dstV u.vcnt d 1 ++ srcV u.vcnt a 2, dests := destV d, flags := r.2,
    effects := wrV d latRed allLanes (BitVec.ofNat 2048 (r.1 % 256 ^ e)) }

/-- `vscan` (R115): prefix trees at the active elements. -/
def stageScan (ty : VTy) (p : BitVec 3) (d a : Code) (u : Task) (red : List (Option Nat) → Nat × BitVec 8) : Staged :=
  let e := vtyBytes ty
  let l := leaves (u.kReg p.toNat) e (rdV u a ty)
  stageLanes latRed e (256 / e) p d (srcV u.vcnt a 2) u fun i => red (l.take (i + 1))

-- Compaction (R117). ---------------------------------------------------------------------------------------------

/-- `vcompress` of a source: the active elements after their count (R117). -/
def compressed (p : Pred) (e : Nat) (x : VReg) : Nat × BitVec 8 :=
  let n := 256 / e
  let l := (leaves p e x).filterMap id
  let c := min l.length (n - 1)
  (packElems e (fun j => if j = 0 then c else if j ≤ c then l.getD (j - 1) 0 else 0) n, flagIf (decide (l.length > n - 1)) fCNT)

/-- The number of active elements below element `i`. -/
def activeBelow (p : Pred) (e : Nat) : Nat → Nat
  | 0 => 0
  | i + 1 => activeBelow p e i + (if active p e i then 1 else 0)

/-- The count of a packed run, saturated, with CNT where it saturates (R117). -/
def runCount (e : Nat) (x : VReg) : Nat × BitVec 8 :=
  let n := 256 / e
  (min (elem e x 0) (n - 1), flagIf (decide (elem e x 0 > n - 1)) fCNT)

-- Non-standard formats (R42, R114). ------------------------------------------------------------------------------

/-- Bytes of a format element; none for the packed formats. -/
def narrowBytes : NarrowFmt → Option Nat
  | .e4m3 => some 1 | .e4m3Sat => some 1 | .e5m2 => some 1 | .e5m2Sat => some 1 | .e2m1 => none | .e2m1Sat => none
  | .e8m0 => some 1 | .ternary => none | .n8 => some 1 | .n16 => some 2 | .n32 => some 4 | .n64 => some 8
  | .n8Sat => some 1 | .n16Sat => some 2 | .n32Sat => some 4 | .n64Sat => some 8

/-- M of R114: format elements in 256 bytes. -/
def narrowCount (f : NarrowFmt) : Nat :=
  match f with
  | .e2m1 => 512
  | .e2m1Sat => 512
  | .ternary => 1280
  | _ => match narrowBytes f with | some e => 256 / e | none => 256

/-- The rounding of a conversion to a named format (R42). -/
def narrowMode : NarrowFmt → Rounding
  | .e4m3Sat => .rnSat | .e5m2Sat => .rnSat | .e2m1Sat => .rnSat | .n8Sat => .rnSat | .n16Sat => .rnSat | .n32Sat => .rnSat
  | .n64Sat => .rnSat | _ => .rn

/-- Nibble `i` of a register. -/
def nibble (v : VReg) (i : Nat) : Nat := bitsOf v.toNat (4 * i) 4

/-- Format element `i` of a register converted to an element type (R114, direction 0). -/
def fromNarrow (f : NarrowFmt) (ty : VTy) (v : VReg) (i : Nat) : Nat × BitVec 8 :=
  match f with
  | .e4m3 => fvToType ty .rn (fvOf .e4m3 (elem 1 v i))
  | .e4m3Sat => fvToType ty .rn (fvOf .e4m3 (elem 1 v i))
  | .e5m2 => fvToType ty .rn (fvOf .e5m2 (elem 1 v i))
  | .e5m2Sat => fvToType ty .rn (fvOf .e5m2 (elem 1 v i))
  | .e2m1 => fvToType ty .rn (fvOf .e2m1 (nibble v i))
  | .e2m1Sat => fvToType ty .rn (fvOf .e2m1 (nibble v i))
  | .e8m0 => fvToType ty .rn (e8m0Value (elem 1 v i))
  | .ternary =>
    let b := elem 1 v (i / 5)
    let r := intToType ty .rn (digitWeight (ternDigit b (i % 5)))
    (r.1, r.2 ||| flagIf (decide (b ≥ 243)) fTRN)
  | .n8 => intToType ty .rn (elem 1 v i)
  | .n16 => intToType ty .rn (elem 2 v i)
  | .n32 => intToType ty .rn (elem 4 v i)
  | .n64 => intToType ty .rn (elem 8 v i)
  | .n8Sat => intToType ty .rn (elem 1 v i)
  | .n16Sat => intToType ty .rn (elem 2 v i)
  | .n32Sat => intToType ty .rn (elem 4 v i)
  | .n64Sat => intToType ty .rn (elem 8 v i)

/-- An element converted to a named format (R114, direction 1). -/
def toNarrow (f : NarrowFmt) (ty : VTy) (x : Nat) : Nat × BitVec 8 :=
  let v : Fv := match vtyFmt ty with
    | some g => fvOf g x
    | none => .fin (dyOfInt (toSigned (8 * vtyBytes ty) x))
  let unsigned (n : Nat) : Nat × BitVec 8 := match vtyFmt ty with
    | some _ => fvToInt false n (narrowMode f) v
    | none => intTo false (satMode (narrowMode f)) n (toSigned (8 * vtyBytes ty) x)
  let r := match f with
    | .e4m3 => fvTo .e4m3 .rn false v
    | .e4m3Sat => fvTo .e4m3 .rnSat false v
    | .e5m2 => fvTo .e5m2 .rn false v
    | .e5m2Sat => fvTo .e5m2 .rnSat false v
    | .e2m1 => fvTo .e2m1 .rn false v
    | .e2m1Sat => fvTo .e2m1 .rnSat false v
    | .e8m0 => fvToE8M0 v
    | .ternary => fvToDigit v
    | .n8 => unsigned 8
    | .n16 => unsigned 16
    | .n32 => unsigned 32
    | .n64 => unsigned 64
    | .n8Sat => unsigned 8
    | .n16Sat => unsigned 16
    | .n32Sat => unsigned 32
    | .n64Sat => unsigned 64
  (r.1, r.2 ||| sigFlag v)

/-- A byte of the packed result of E2M1 (R114): nibbles of inactive elements keep their values. -/
def packNibbles (old : Nat) (x : Nat → Option (Nat × BitVec 8)) (j : Nat) : Option (Nat × BitVec 8) :=
  match x (2 * j), x (2 * j + 1) with
  | none, none => none
  | lo, hi =>
    some ((match lo with | some r => r.1 | none => old % 16) + 16 * (match hi with | some r => r.1 | none => old / 16),
      (match lo with | some r => r.2 | none => 0) ||| (match hi with | some r => r.2 | none => 0))

/-- A byte of the packed ternary result (R63, R114): digits of inactive elements keep their values; a byte of 243 or above
is first read as five zero digits, with TRN.
Whether a byte reads so is judged on D as at issue (log entry 65). -/
def packDigits (old : Nat) (x : Nat → Option (Nat × BitVec 8)) (j : Nat) : Option (Nat × BitVec 8) :=
  let l := (List.range 5).map fun i => x (5 * j + i)
  if l.all Option.isNone then none
  else
    some ((l.zipIdx.map fun p => (match p.1 with | some r => r.1 | none => ternDigit old p.2) * 3 ^ p.2).foldl (· + ·) 0,
      (l.foldl (fun a r => a ||| (match r with | some y => y.2 | none => 0)) 0) ||| flagIf (decide (old ≥ 243)) fTRN)

/-- `vcvt` with a non-standard format (R114); `target` says that the format is the destination. -/
def stageNarrow (d a : Code) (ty : VTy) (p : BitVec 3) (f : NarrowFmt) (target : Bool) (u : Task) : Staged :=
  let e := vtyBytes ty
  let n := min (256 / e) (narrowCount f)
  let src := rdV u a ty
  if !target then stageLanes latCvt e n p d (srcV u.vcnt a 2) u fun i => fromNarrow f ty src i
  else
    let pr := u.kReg p.toNat
    let old := rdV u d ty
    let x (i : Nat) : Option (Nat × BitVec 8) := if i < n ∧ active pr e i then some (toNarrow f ty (elem e src i)) else none
    let r := match f with
      | .e2m1 => lanes 1 (fun j => packNibbles (elem 1 old j) x j) 256
      | .e2m1Sat => lanes 1 (fun j => packNibbles (elem 1 old j) x j) 256
      | .ternary => lanes 1 (fun j => packDigits (elem 1 old j) x j) 256
      | _ => lanes ((narrowBytes f).getD 1) x n
    let m : Pred := BitVec.ofNat 256 r.2.1
    let v : VReg := BitVec.ofNat 2048 r.1
    let on (k : Nat) : BitVec k := BitVec.ofNat k (((List.range n).filter fun i => active pr e i).map (2 ^ ·)).sum
    { encs := dstV u.vcnt d 1 ++ srcV u.vcnt a 2, dests := destV d, flags := r.2.2,
      effects := match narrowPart f on with
        | .bytes => wrV d latCvt m v
        | part => if d.toNat < 48 then [.wrPart d.toNat m v latCvt part] else wrV d latCvt m v }
where narrowPart (f : NarrowFmt) (on : (k : Nat) → BitVec k) : Part :=
  match f with
  | .e2m1 => .nibbles (on 512)
  | .e2m1Sat => .nibbles (on 512)
  | .ternary => .digits (on 1280)
  | _ => .bytes

/-- `vadd` stages its result (R107). -/
def stageVadd (d a b : Code) (t : VTy) (p : BitVec 3) (_ : Nat) (_ : State) (u : Task) : Staged :=
  stageV2 latVec t p d a b u (byType t (intOp false (· + ·)) (fun f => fAdd f false))

/-- `vadd` (R107). -/
def execVadd (st : Bool) (d a b : Code) (t : VTy) (p : BitVec 3) (s : State) : Host.Outcome State Fault Refusal :=
  finishSlot 2 0x20 st (stageVadd d a b t p) s

/-- `vsub` stages its result (R107). -/
def stageVsub (d a b : Code) (t : VTy) (p : BitVec 3) (_ : Nat) (_ : State) (u : Task) : Staged :=
  stageV2 latVec t p d a b u (byType t (intOp false (· - ·)) (fun f => fSub f false))

/-- `vsub` (R107). -/
def execVsub (st : Bool) (d a b : Code) (t : VTy) (p : BitVec 3) (s : State) : Host.Outcome State Fault Refusal :=
  finishSlot 2 0x21 st (stageVsub d a b t p) s

/-- `vmul` stages its result (R107). -/
def stageVmul (d a b : Code) (t : VTy) (p : BitVec 3) (_ : Nat) (_ : State) (u : Task) : Staged :=
  stageV2 latVecMul t p d a b u (byType t (intOp false (· * ·)) (fun f => fMul f false))

/-- `vmul` (R107). -/
def execVmul (st : Bool) (d a b : Code) (t : VTy) (p : BitVec 3) (s : State) : Host.Outcome State Fault Refusal :=
  finishSlot 2 0x22 st (stageVmul d a b t p) s

/-- `vadd.ftz` stages its result (R107). -/
def stageVaddFtz (d a b : Code) (t : FTy) (p : BitVec 3) (_ : Nat) (_ : State) (u : Task) : Staged :=
  stageV2 latVec (ftyVty t) p d a b u (fAdd (ftyFmt t) true)

/-- `vadd.ftz` (R107). -/
def execVaddFtz (st : Bool) (d a b : Code) (t : FTy) (p : BitVec 3) (s : State) : Host.Outcome State Fault Refusal :=
  finishSlot 2 0x23 st (stageVaddFtz d a b t p) s

/-- `vsub.ftz` stages its result (R107). -/
def stageVsubFtz (d a b : Code) (t : FTy) (p : BitVec 3) (_ : Nat) (_ : State) (u : Task) : Staged :=
  stageV2 latVec (ftyVty t) p d a b u (fSub (ftyFmt t) true)

/-- `vsub.ftz` (R107). -/
def execVsubFtz (st : Bool) (d a b : Code) (t : FTy) (p : BitVec 3) (s : State) : Host.Outcome State Fault Refusal :=
  finishSlot 2 0x24 st (stageVsubFtz d a b t p) s

/-- `vmul.ftz` stages its result (R107). -/
def stageVmulFtz (d a b : Code) (t : FTy) (p : BitVec 3) (_ : Nat) (_ : State) (u : Task) : Staged :=
  stageV2 latVecMul (ftyVty t) p d a b u (fMul (ftyFmt t) true)

/-- `vmul.ftz` (R107). -/
def execVmulFtz (st : Bool) (d a b : Code) (t : FTy) (p : BitVec 3) (s : State) : Host.Outcome State Fault Refusal :=
  finishSlot 2 0x25 st (stageVmulFtz d a b t p) s

/-- `vadd.sat` stages its result (R107). -/
def stageVaddSat (d a b : Code) (t : ITy) (p : BitVec 3) (_ : Nat) (_ : State) (u : Task) : Staged :=
  stageV2 latVec (ityVty t) p d a b u (intOp true (· + ·) (8 * ityBytes t))

/-- `vadd.sat` (R107). -/
def execVaddSat (st : Bool) (d a b : Code) (t : ITy) (p : BitVec 3) (s : State) : Host.Outcome State Fault Refusal :=
  finishSlot 2 0x23 st (stageVaddSat d a b t p) s

/-- `vsub.sat` stages its result (R107). -/
def stageVsubSat (d a b : Code) (t : ITy) (p : BitVec 3) (_ : Nat) (_ : State) (u : Task) : Staged :=
  stageV2 latVec (ityVty t) p d a b u (intOp true (· - ·) (8 * ityBytes t))

/-- `vsub.sat` (R107). -/
def execVsubSat (st : Bool) (d a b : Code) (t : ITy) (p : BitVec 3) (s : State) : Host.Outcome State Fault Refusal :=
  finishSlot 2 0x24 st (stageVsubSat d a b t p) s

/-- `vmul.sat` stages its result (R107). -/
def stageVmulSat (d a b : Code) (t : ITy) (p : BitVec 3) (_ : Nat) (_ : State) (u : Task) : Staged :=
  stageV2 latVecMul (ityVty t) p d a b u (intOp true (· * ·) (8 * ityBytes t))

/-- `vmul.sat` (R107). -/
def execVmulSat (st : Bool) (d a b : Code) (t : ITy) (p : BitVec 3) (s : State) : Host.Outcome State Fault Refusal :=
  finishSlot 2 0x25 st (stageVmulSat d a b t p) s

/-- `vfma` stages its result (R108). -/
def stageVfma (d a b : Code) (t : FTy) (p : BitVec 3) (_ : Nat) (_ : State) (u : Task) : Staged :=
  stageV3 latVecMul (ftyVty t) p d a b u (fFma (ftyFmt t) false false)

/-- `vfma` (R108). -/
def execVfma (st : Bool) (d a b : Code) (t : FTy) (p : BitVec 3) (s : State) : Host.Outcome State Fault Refusal :=
  finishSlot 2 0x26 st (stageVfma d a b t p) s

/-- `vfms` stages its result (R108). -/
def stageVfms (d a b : Code) (t : FTy) (p : BitVec 3) (_ : Nat) (_ : State) (u : Task) : Staged :=
  stageV3 latVecMul (ftyVty t) p d a b u (fFma (ftyFmt t) false true)

/-- `vfms` (R108). -/
def execVfms (st : Bool) (d a b : Code) (t : FTy) (p : BitVec 3) (s : State) : Host.Outcome State Fault Refusal :=
  finishSlot 2 0x26 st (stageVfms d a b t p) s

/-- `vfnma` stages its result (R108). -/
def stageVfnma (d a b : Code) (t : FTy) (p : BitVec 3) (_ : Nat) (_ : State) (u : Task) : Staged :=
  stageV3 latVecMul (ftyVty t) p d a b u (fFma (ftyFmt t) true false)

/-- `vfnma` (R108). -/
def execVfnma (st : Bool) (d a b : Code) (t : FTy) (p : BitVec 3) (s : State) : Host.Outcome State Fault Refusal :=
  finishSlot 2 0x27 st (stageVfnma d a b t p) s

/-- `vsha` stages its result (R107). -/
def stageVsha (d a b : Code) (t : ITy) (p : BitVec 3) (_ : Nat) (_ : State) (u : Task) : Staged :=
  stageV2 latVec (ityVty t) p d a b u (shiftArithN (8 * ityBytes t))

/-- `vsha` (R107). -/
def execVsha (st : Bool) (d a b : Code) (t : ITy) (p : BitVec 3) (s : State) : Host.Outcome State Fault Refusal :=
  finishSlot 2 0x27 st (stageVsha d a b t p) s

/-- `vmin` stages its result (R107). -/
def stageVmin (d a b : Code) (t : VTy) (p : BitVec 3) (_ : Nat) (_ : State) (u : Task) : Staged :=
  stageV2 latVec t p d a b u (byType t (intPick false) (fun f => fMinMax f false))

/-- `vmin` (R107). -/
def execVmin (st : Bool) (d a b : Code) (t : VTy) (p : BitVec 3) (s : State) : Host.Outcome State Fault Refusal :=
  finishSlot 2 0x28 st (stageVmin d a b t p) s

/-- `vmax` stages its result (R107). -/
def stageVmax (d a b : Code) (t : VTy) (p : BitVec 3) (_ : Nat) (_ : State) (u : Task) : Staged :=
  stageV2 latVec t p d a b u (byType t (intPick true) (fun f => fMinMax f true))

/-- `vmax` (R107). -/
def execVmax (st : Bool) (d a b : Code) (t : VTy) (p : BitVec 3) (s : State) : Host.Outcome State Fault Refusal :=
  finishSlot 2 0x29 st (stageVmax d a b t p) s

/-- `vmaxn` stages its result (R107). -/
def stageVmaxn (d a b : Code) (t : ITy) (p : BitVec 3) (_ : Nat) (_ : State) (u : Task) : Staged :=
  stageV2 latVec (ityVty t) p d a b u (fun a b => (max a b, 0))

/-- `vmaxn` (R107). -/
def execVmaxn (st : Bool) (d a b : Code) (t : ITy) (p : BitVec 3) (s : State) : Host.Outcome State Fault Refusal :=
  finishSlot 2 0x2A st (stageVmaxn d a b t p) s

/-- `vminn` stages its result (R107). -/
def stageVminn (d a b : Code) (t : ITy) (p : BitVec 3) (_ : Nat) (_ : State) (u : Task) : Staged :=
  stageV2 latVec (ityVty t) p d a b u (fun a b => (min a b, 0))

/-- `vminn` (R107). -/
def execVminn (st : Bool) (d a b : Code) (t : ITy) (p : BitVec 3) (s : State) : Host.Outcome State Fault Refusal :=
  finishSlot 2 0x2A st (stageVminn d a b t p) s

/-- `vshr` stages its result (R107). -/
def stageVshr (d a b : Code) (t : ITy) (p : BitVec 3) (_ : Nat) (_ : State) (u : Task) : Staged :=
  stageV2 latVec (ityVty t) p d a b u (shiftRightN (8 * ityBytes t))

/-- `vshr` (R107). -/
def execVshr (st : Bool) (d a b : Code) (t : ITy) (p : BitVec 3) (s : State) : Host.Outcome State Fault Refusal :=
  finishSlot 2 0x2B st (stageVshr d a b t p) s

/-- `vshl` stages its result (R107). -/
def stageVshl (d a b : Code) (t : ITy) (p : BitVec 3) (_ : Nat) (_ : State) (u : Task) : Staged :=
  stageV2 latVec (ityVty t) p d a b u (shiftLeftN (8 * ityBytes t))

/-- `vshl` (R107). -/
def execVshl (st : Bool) (d a b : Code) (t : ITy) (p : BitVec 3) (s : State) : Host.Outcome State Fault Refusal :=
  finishSlot 2 0x2B st (stageVshl d a b t p) s

/-- `vcmp` stages its result (R109). -/
def stageVcmp (c : VCond) (k : BitVec 4) (a : Code) (b : Code) (t : VTy) (p : BitVec 3) (_ : Nat) (_ : State) (u : Task) : Staged :=
  let e := vtyBytes t
  let x := rdV u a t
  let y := rdV u b t
  let z (i : Nat) : Bool × BitVec 8 := elemCmp c t (elem e x i) (elem e y i)
  let r := lanes e (onActive (u.kReg p.toNat) e fun i => (0, (z i).2)) (256 / e)
  let hit := lanes e (fun i => if active (u.kReg p.toNat) e i && (z i).1 then some (0, 0) else none) (256 / e)
  { encs := srcV u.vcnt a 2 ++ srcV u.vcnt b 3, dests := destK k.toNat, flags := r.2.2,
    effects := wrK k.toNat latVec (BitVec.ofNat 256 r.2.1) (BitVec.ofNat 256 hit.2.1) }

/-- `vcmp` (R109). -/
def execVcmp (st : Bool) (c : VCond) (k : BitVec 4) (a : Code) (b : Code) (t : VTy) (p : BitVec 3) (s : State) : Host.Outcome State Fault Refusal :=
  finishSlot 2 0x2C st (stageVcmp c k a b t p) s

/-- `vcvt` stages its result (R113). -/
def stageVcvt (d a : Code) (e : VTy) (r : Rounding) (t : VTy) (p : BitVec 3) (_ : Nat) (_ : State) (u : Task) : Staged :=
  let ed := vtyBytes t
  let es := vtyBytes e
  let x := rdV u a e
  stageLanes latCvt ed (256 / max ed es) p d (srcV u.vcnt a 2) u fun i => convert e t r (elem es x i)

/-- `vcvt` (R113). -/
def execVcvt (st : Bool) (d a : Code) (e : VTy) (r : Rounding) (t : VTy) (p : BitVec 3) (s : State) : Host.Outcome State Fault Refusal :=
  finishSlot 2 0x2D st (stageVcvt d a e r t p) s

/-- `vabs` stages its result (R112). -/
def stageVabs (d a : Code) (t : VTy) (p : BitVec 3) (_ : Nat) (_ : State) (u : Task) : Staged :=
  stageV1 latVec t p d a u fun x => (elemAbs t x, 0)

/-- `vabs` (R112). -/
def execVabs (st : Bool) (d a : Code) (t : VTy) (p : BitVec 3) (s : State) : Host.Outcome State Fault Refusal :=
  finishSlot 2 0x2E st (stageVabs d a t p) s

/-- `vneg` stages its result (R112). -/
def stageVneg (d a : Code) (t : VTy) (p : BitVec 3) (_ : Nat) (_ : State) (u : Task) : Staged :=
  stageV1 latVec t p d a u fun x => (elemNeg t x, 0)

/-- `vneg` (R112). -/
def execVneg (st : Bool) (d a : Code) (t : VTy) (p : BitVec 3) (s : State) : Host.Outcome State Fault Refusal :=
  finishSlot 2 0x2E st (stageVneg d a t p) s

/-- `vnot` stages its result (R112). -/
def stageVnot (d a : Code) (t : VTy) (p : BitVec 3) (_ : Nat) (_ : State) (u : Task) : Staged :=
  stageV1 latVec t p d a u fun x => (256 ^ vtyBytes t - 1 - x, 0)

/-- `vnot` (R112). -/
def execVnot (st : Bool) (d a : Code) (t : VTy) (p : BitVec 3) (s : State) : Host.Outcome State Fault Refusal :=
  finishSlot 2 0x2E st (stageVnot d a t p) s

/-- `vmov` stages its result (R112). -/
def stageVmov (d a : Code) (t : VTy) (p : BitVec 3) (_ : Nat) (_ : State) (u : Task) : Staged :=
  stageV1 latVec t p d a u fun x => (x, 0)

/-- `vmov` (R112). -/
def execVmov (st : Bool) (d a : Code) (t : VTy) (p : BitVec 3) (s : State) : Host.Outcome State Fault Refusal :=
  finishSlot 2 0x2E st (stageVmov d a t p) s

/-- `vrcp` stages its result (R73, R112). -/
def stageVrcp (d a : Code) (t : FTy) (p : BitVec 3) (_ : Nat) (_ : State) (u : Task) : Staged :=
  stageV1 latFunc (ftyVty t) p d a u fun x => fRcp (ftyFmt t) x

/-- `vrcp` (R73, R112). -/
def execVrcp (st : Bool) (d a : Code) (t : FTy) (p : BitVec 3) (s : State) : Host.Outcome State Fault Refusal :=
  finishSlot 2 0x2E st (stageVrcp d a t p) s

/-- `vrsqrt` stages its result (R73, R112). -/
def stageVrsqrt (d a : Code) (t : FTy) (p : BitVec 3) (_ : Nat) (_ : State) (u : Task) : Staged :=
  stageV1 latFunc (ftyVty t) p d a u fun x => fRsqrt (ftyFmt t) x

/-- `vrsqrt` (R73, R112). -/
def execVrsqrt (st : Bool) (d a : Code) (t : FTy) (p : BitVec 3) (s : State) : Host.Outcome State Fault Refusal :=
  finishSlot 2 0x2E st (stageVrsqrt d a t p) s

/-- `vsqrt` stages its result (R73, R112). -/
def stageVsqrt (d a : Code) (t : FTy) (p : BitVec 3) (_ : Nat) (_ : State) (u : Task) : Staged :=
  stageV1 latFunc (ftyVty t) p d a u fun x => fSqrt (ftyFmt t) x

/-- `vsqrt` (R73, R112). -/
def execVsqrt (st : Bool) (d a : Code) (t : FTy) (p : BitVec 3) (s : State) : Host.Outcome State Fault Refusal :=
  finishSlot 2 0x2E st (stageVsqrt d a t p) s

/-- `vexp2` stages its result (R73, R112). -/
def stageVexp2 (d a : Code) (t : FTy) (p : BitVec 3) (_ : Nat) (_ : State) (u : Task) : Staged :=
  stageV1 latFunc (ftyVty t) p d a u fun x => fExp2 (ftyFmt t) x

/-- `vexp2` (R73, R112). -/
def execVexp2 (st : Bool) (d a : Code) (t : FTy) (p : BitVec 3) (s : State) : Host.Outcome State Fault Refusal :=
  finishSlot 2 0x2E st (stageVexp2 d a t p) s

/-- `vlog2` stages its result (R73, R112). -/
def stageVlog2 (d a : Code) (t : FTy) (p : BitVec 3) (_ : Nat) (_ : State) (u : Task) : Staged :=
  stageV1 latFunc (ftyVty t) p d a u fun x => fLog2 (ftyFmt t) x

/-- `vlog2` (R73, R112). -/
def execVlog2 (st : Bool) (d a : Code) (t : FTy) (p : BitVec 3) (s : State) : Host.Outcome State Fault Refusal :=
  finishSlot 2 0x2E st (stageVlog2 d a t p) s

/-- `vbcast` stages its result (R112). -/
def stageVbcast (d a : Code) (t : VTy) (p : BitVec 3) (core : Nat) (_ : State) (u : Task) : Staged :=
  let e := vtyBytes t
  let x := (rdG core u a).toNat
  stageLanes latVec e (256 / e) p d (srcG a 2) u fun _ => (x, 0)

/-- `vbcast` (R112). -/
def execVbcast (st : Bool) (d a : Code) (t : VTy) (p : BitVec 3) (s : State) : Host.Outcome State Fault Refusal :=
  finishSlot 2 0x2E st (stageVbcast d a t p) s

/-- `vli` stages its result (R112). -/
def stageVli (d a : Code) (t : VTy) (p : BitVec 3) (core : Nat) (_ : State) (u : Task) : Staged :=
  let e := vtyBytes t
  let x := rdG core u a
  stageLanes latVec e (256 / e) p d (srcG a 2) u fun i => elemLi t x i

/-- `vli` (R112). -/
def execVli (st : Bool) (d a : Code) (t : VTy) (p : BitVec 3) (s : State) : Host.Outcome State Fault Refusal :=
  finishSlot 2 0x2E st (stageVli d a t p) s

/-- `vcompress` stages its result (R117). -/
def stageVcompress (d a : Code) (t : VTy) (p : BitVec 3) (_ : Nat) (_ : State) (u : Task) : Staged :=
  let r := compressed (u.kReg p.toNat) (vtyBytes t) (rdV u a t)
  { encs := dstV u.vcnt d 1 ++ srcV u.vcnt a 2, dests := destV d, flags := r.2,
    effects := wrV d latRed allLanes (BitVec.ofNat 2048 r.1) }

/-- `vcompress` (R117). -/
def execVcompress (st : Bool) (d a : Code) (t : VTy) (p : BitVec 3) (s : State) : Host.Outcome State Fault Refusal :=
  finishSlot 2 0x2E st (stageVcompress d a t p) s

/-- `vexpand` stages its result (R117). -/
def stageVexpand (d a : Code) (t : VTy) (p : BitVec 3) (_ : Nat) (_ : State) (u : Task) : Staged :=
  let e := vtyBytes t
  let x := rdV u a t
  let c := runCount e x
  let r := stageLanes latRed e (256 / e) p d (srcV u.vcnt a 2) u fun i =>
    let j := activeBelow (u.kReg p.toNat) e i + 1
    (if j ≤ c.1 then elem e x j else 0, 0)
  { r with flags := c.2 }

/-- `vexpand` (R117). -/
def execVexpand (st : Bool) (d a : Code) (t : VTy) (p : BitVec 3) (s : State) : Host.Outcome State Fault Refusal :=
  finishSlot 2 0x2E st (stageVexpand d a t p) s

/-- `vred.add` stages its result (R72, R115). -/
def stageVredAdd (d a : Code) (t : VTy) (p : BitVec 3) (_ : Nat) (_ : State) (u : Task) : Staged :=
  stageRed t p d a u (redSum t)

/-- `vred.add` (R72, R115). -/
def execVredAdd (st : Bool) (d a : Code) (t : VTy) (p : BitVec 3) (s : State) : Host.Outcome State Fault Refusal :=
  finishSlot 2 0x2E st (stageVredAdd d a t p) s

/-- `vred.min` stages its result (R72, R115). -/
def stageVredMin (d a : Code) (t : VTy) (p : BitVec 3) (_ : Nat) (_ : State) (u : Task) : Staged :=
  stageRed t p d a u (redPick false t)

/-- `vred.min` (R72, R115). -/
def execVredMin (st : Bool) (d a : Code) (t : VTy) (p : BitVec 3) (s : State) : Host.Outcome State Fault Refusal :=
  finishSlot 2 0x2E st (stageVredMin d a t p) s

/-- `vred.max` stages its result (R72, R115). -/
def stageVredMax (d a : Code) (t : VTy) (p : BitVec 3) (_ : Nat) (_ : State) (u : Task) : Staged :=
  stageRed t p d a u (redPick true t)

/-- `vred.max` (R72, R115). -/
def execVredMax (st : Bool) (d a : Code) (t : VTy) (p : BitVec 3) (s : State) : Host.Outcome State Fault Refusal :=
  finishSlot 2 0x2E st (stageVredMax d a t p) s

/-- `vred.minn` stages its result (R72, R115). -/
def stageVredMinn (d a : Code) (t : ITy) (p : BitVec 3) (_ : Nat) (_ : State) (u : Task) : Staged :=
  stageRed (ityVty t) p d a u (redPickN false (8 * ityBytes t))

/-- `vred.minn` (R72, R115). -/
def execVredMinn (st : Bool) (d a : Code) (t : ITy) (p : BitVec 3) (s : State) : Host.Outcome State Fault Refusal :=
  finishSlot 2 0x2E st (stageVredMinn d a t p) s

/-- `vred.maxn` stages its result (R72, R115). -/
def stageVredMaxn (d a : Code) (t : ITy) (p : BitVec 3) (_ : Nat) (_ : State) (u : Task) : Staged :=
  stageRed (ityVty t) p d a u (redPickN true (8 * ityBytes t))

/-- `vred.maxn` (R72, R115). -/
def execVredMaxn (st : Bool) (d a : Code) (t : ITy) (p : BitVec 3) (s : State) : Host.Outcome State Fault Refusal :=
  finishSlot 2 0x2E st (stageVredMaxn d a t p) s

/-- `vred.and` stages its result (R72, R115). -/
def stageVredAnd (d a : Code) (t : ITy) (p : BitVec 3) (_ : Nat) (_ : State) (u : Task) : Staged :=
  stageRed (ityVty t) p d a u (redBits (· &&& ·) (256 ^ ityBytes t - 1))

/-- `vred.and` (R72, R115). -/
def execVredAnd (st : Bool) (d a : Code) (t : ITy) (p : BitVec 3) (s : State) : Host.Outcome State Fault Refusal :=
  finishSlot 2 0x2E st (stageVredAnd d a t p) s

/-- `vred.or` stages its result (R72, R115). -/
def stageVredOr (d a : Code) (t : ITy) (p : BitVec 3) (_ : Nat) (_ : State) (u : Task) : Staged :=
  stageRed (ityVty t) p d a u (redBits (· ||| ·) 0)

/-- `vred.or` (R72, R115). -/
def execVredOr (st : Bool) (d a : Code) (t : ITy) (p : BitVec 3) (s : State) : Host.Outcome State Fault Refusal :=
  finishSlot 2 0x2E st (stageVredOr d a t p) s

/-- `vred.xor` stages its result (R72, R115). -/
def stageVredXor (d a : Code) (t : ITy) (p : BitVec 3) (_ : Nat) (_ : State) (u : Task) : Staged :=
  stageRed (ityVty t) p d a u (redBits (· ^^^ ·) 0)

/-- `vred.xor` (R72, R115). -/
def execVredXor (st : Bool) (d a : Code) (t : ITy) (p : BitVec 3) (s : State) : Host.Outcome State Fault Refusal :=
  finishSlot 2 0x2E st (stageVredXor d a t p) s

/-- `vscan.add` stages its result (R72, R115). -/
def stageVscanAdd (d a : Code) (t : VTy) (p : BitVec 3) (_ : Nat) (_ : State) (u : Task) : Staged :=
  stageScan t p d a u (redSum t)

/-- `vscan.add` (R72, R115). -/
def execVscanAdd (st : Bool) (d a : Code) (t : VTy) (p : BitVec 3) (s : State) : Host.Outcome State Fault Refusal :=
  finishSlot 2 0x2E st (stageVscanAdd d a t p) s

/-- `vscan.min` stages its result (R72, R115). -/
def stageVscanMin (d a : Code) (t : VTy) (p : BitVec 3) (_ : Nat) (_ : State) (u : Task) : Staged :=
  stageScan t p d a u (redPick false t)

/-- `vscan.min` (R72, R115). -/
def execVscanMin (st : Bool) (d a : Code) (t : VTy) (p : BitVec 3) (s : State) : Host.Outcome State Fault Refusal :=
  finishSlot 2 0x2E st (stageVscanMin d a t p) s

/-- `vscan.max` stages its result (R72, R115). -/
def stageVscanMax (d a : Code) (t : VTy) (p : BitVec 3) (_ : Nat) (_ : State) (u : Task) : Staged :=
  stageScan t p d a u (redPick true t)

/-- `vscan.max` (R72, R115). -/
def execVscanMax (st : Bool) (d a : Code) (t : VTy) (p : BitVec 3) (s : State) : Host.Outcome State Fault Refusal :=
  finishSlot 2 0x2E st (stageVscanMax d a t p) s

/-- `vcvt` stages its result (R114). -/
def stageVcvtFormat (d a : Code) (t : VTy) (p : BitVec 3) (f : NarrowFmt) (n : Bool) (_ : Nat) (_ : State) (u : Task) : Staged :=
  stageNarrow d a t p f n u

/-- `vcvt` (R114). -/
def execVcvtFormat (st : Bool) (d a : Code) (t : VTy) (p : BitVec 3) (f : NarrowFmt) (n : Bool) (s : State) : Host.Outcome State Fault Refusal :=
  finishSlot 2 0x2E st (stageVcvtFormat d a t p f n) s

end Sys2Proof.Machine
end

