-- ==== Sys2Proof/Machine/VecMove.lean ====
section
/-! DEFINITION. The predicate and permutation major OP 0x2F (05 R110, R111, R116, R118, R119). -/

namespace Sys2Proof.Machine

/-- A predicate made from two (R118). -/
def stageK2 (d a b : Code) (u : Task) (f : Pred → Pred → Pred) : Staged :=
  { encs := inFile 16 d 1 ++ inFile 16 a 2 ++ inFile 16 b 3, dests := destK d.toNat,
    effects := wrK d.toNat latVec allLanes (f (u.kReg a.toNat) (u.kReg b.toNat)) }

/-- The number of the lowest set bit of the low 256 bits; 256 for none. -/
def lowestSet (p : Pred) : Nat := ((List.range 256).find? fun i => p.getLsbD i).getD 256

/-- A condition made from the bits of a predicate in the lanes of another (R119). -/
def stageC2 (d a b : Code) (u : Task) (f : Pred → Pred → Bool) : Staged :=
  { encs := inFile 8 d 1 ++ inFile 16 a 2 ++ inFile 16 b 3, dests := [(.c, d.toNat)],
    effects := wrC d.toNat latVec (f (u.kReg a.toNat) (u.kReg b.toNat)) }

/-- *non-uniform condition* (R119): the lowest active lane that is 1 and the lowest that is 0. -/
def nonUniform (k m : Pred) : Option TrapInfo :=
  faultIf ((k &&& m) != 0 && (~~~k &&& m) != 0)
    { cause := .nonUniform, word := BitVec.ofNat 64 (lowestSet (k &&& m) + lowestSet (~~~k &&& m) * 2 ^ 8) }

/-- An unpredicated operation that writes every byte of a vector. -/
def wholeV (d : Code) (encs : List EncFail) (u : Task) (v : VReg) : Staged :=
  { encs := dstV u.vcnt d 1 ++ encs, dests := destV d, effects := wrV d latVec allLanes v }

/-- A bitwise operation on two vectors (R111). -/
def stageBits (d a b : Code) (u : Task) (f : VReg → VReg → VReg) : Staged :=
  wholeV d (srcV u.vcnt a 2 ++ srcV u.vcnt b 3) u (f (rdV u a .i8) (rdV u b .i8))

/-- `vclamp` of one element: min(max(d, lo), hi) (R110). -/
def clampInt (n d lo hi : Nat) : Nat := (intPick false n (intPick true n d lo).1 hi).1

/-- `vclamp` of one element in a format (R60, R110). -/
def clampFp (f : FFmt) (d lo hi : Nat) : Nat × BitVec 8 :=
  let m := fMinMax f true d lo
  let r := fMinMax f false m.1 hi
  (r.1, m.2 ||| r.2)

/-- `kand` stages its result (R118). -/
def stageKand (d a b : Code) (_ : Nat) (_ : State) (u : Task) : Staged :=
  stageK2 d a b u (· &&& ·)

/-- `kand` (R118). -/
def execKand (st : Bool) (d a b : Code) (s : State) : Host.Outcome State Fault Refusal :=
  finishSlot 2 0x2F st (stageKand d a b) s

/-- `kor` stages its result (R118). -/
def stageKor (d a b : Code) (_ : Nat) (_ : State) (u : Task) : Staged :=
  stageK2 d a b u (· ||| ·)

/-- `kor` (R118). -/
def execKor (st : Bool) (d a b : Code) (s : State) : Host.Outcome State Fault Refusal :=
  finishSlot 2 0x2F st (stageKor d a b) s

/-- `kxor` stages its result (R118). -/
def stageKxor (d a b : Code) (_ : Nat) (_ : State) (u : Task) : Staged :=
  stageK2 d a b u (· ^^^ ·)

/-- `kxor` (R118). -/
def execKxor (st : Bool) (d a b : Code) (s : State) : Host.Outcome State Fault Refusal :=
  finishSlot 2 0x2F st (stageKxor d a b) s

/-- `knot` stages its result (R118). -/
def stageKnot (d a : Code) (_ : Nat) (_ : State) (u : Task) : Staged :=
  { encs := inFile 16 d 1 ++ inFile 16 a 2, dests := destK d.toNat,
    effects := wrK d.toNat latVec allLanes (~~~(u.kReg a.toNat)) }

/-- `knot` (R118). -/
def execKnot (st : Bool) (d a : Code) (s : State) : Host.Outcome State Fault Refusal :=
  finishSlot 2 0x2F st (stageKnot d a) s

/-- `kpop` stages its result (R118). -/
def stageKpop (d a : Code) (_ : Nat) (_ : State) (u : Task) : Staged :=
  { encs := dstG d 1 ++ inFile 16 a 2, dests := destG d,
    effects := wrG d latVec (BitVec.ofNat 64 ((List.range 256).filter fun i => (u.kReg a.toNat).getLsbD i).length) }

/-- `kpop` (R118). -/
def execKpop (st : Bool) (d a : Code) (s : State) : Host.Outcome State Fault Refusal :=
  finishSlot 2 0x2F st (stageKpop d a) s

/-- `vtoc` stages its result (R119). -/
def stageVtoc (d a b : Code) (_ : Nat) (_ : State) (u : Task) : Staged :=
  { stageC2 d a b u fun k m => (k &&& m) != 0 with fault := nonUniform (u.kReg a.toNat) (u.kReg b.toNat) }

/-- `vtoc` (R119). -/
def execVtoc (st : Bool) (d a b : Code) (s : State) : Host.Outcome State Fault Refusal :=
  finishSlot 2 0x2F st (stageVtoc d a b) s

/-- `vany` stages its result (R119). -/
def stageVany (d a b : Code) (_ : Nat) (_ : State) (u : Task) : Staged :=
  stageC2 d a b u fun k m => (k &&& m) != 0

/-- `vany` (R119). -/
def execVany (st : Bool) (d a b : Code) (s : State) : Host.Outcome State Fault Refusal :=
  finishSlot 2 0x2F st (stageVany d a b) s

/-- `vall` stages its result (R119). -/
def stageVall (d a b : Code) (_ : Nat) (_ : State) (u : Task) : Staged :=
  stageC2 d a b u fun k m => (k &&& m) == m

/-- `vall` (R119). -/
def execVall (st : Bool) (d a b : Code) (s : State) : Host.Outcome State Fault Refusal :=
  finishSlot 2 0x2F st (stageVall d a b) s

/-- `vext` stages its result (R116). -/
def stageVext (d a b : Code) (w : ITy) (core : Nat) (_ : State) (u : Task) : Staged :=
  let e := ityBytes w
  let i := (rdG core u b).toNat
  let x := if i < 256 / e then ofSigned 64 (toSigned (8 * e) (elem e (rdV u a (ityVty w)) i)) else 0
  { encs := dstG d 1 ++ srcV u.vcnt a 2 ++ srcG b 3, dests := destG d, effects := wrG d latVec (BitVec.ofNat 64 x) }

/-- `vext` (R116). -/
def execVext (st : Bool) (d a b : Code) (w : ITy) (s : State) : Host.Outcome State Fault Refusal :=
  finishSlot 2 0x2F st (stageVext d a b w) s

/-- `vins` stages its result (R116).
All of D is written, the other lanes and, where g(gi) names no lane, every lane as read at issue (log entry 65). -/
def stageVins (d a b : Code) (w : ITy) (core : Nat) (_ : State) (u : Task) : Staged :=
  let e := ityBytes w
  let i := (rdG core u b).toNat
  let x := (rdG core u a).toNat
  let old := rdV u d (ityVty w)
  wholeV d (srcG a 2 ++ srcG b 3) u (BitVec.ofNat 2048 (packElems e (fun j => if j = i then x else elem e old j) (256 / e)))

/-- `vins` (R116). -/
def execVins (st : Bool) (d a b : Code) (w : ITy) (s : State) : Host.Outcome State Fault Refusal :=
  finishSlot 2 0x2F st (stageVins d a b w) s

/-- `vperm` stages its result (R116). -/
def stageVperm (d a b : Code) (w : ITy) (_ : Nat) (_ : State) (u : Task) : Staged :=
  let e := ityBytes w
  let x := rdV u a (ityVty w)
  let y := rdV u b (ityVty w)
  let pick (j : Nat) : Nat := if j < 256 / e then elem e x j else 0
  wholeV d (srcV u.vcnt a 2 ++ srcV u.vcnt b 3) u (BitVec.ofNat 2048 (packElems e (fun i => pick (elem e y i)) (256 / e)))

/-- `vperm` (R116). -/
def execVperm (st : Bool) (d a b : Code) (w : ITy) (s : State) : Host.Outcome State Fault Refusal :=
  finishSlot 2 0x2F st (stageVperm d a b w) s

/-- `vclamp` stages its result (R110). -/
def stageVclampInt (d a b : Code) (t : ITy) (_ : Nat) (_ : State) (u : Task) : Staged :=
  stageV3 latVec (ityVty t) 0 d a b u fun lo hi x => (clampInt (8 * ityBytes t) x lo hi, 0)

/-- `vclamp` (R110). -/
def execVclampInt (st : Bool) (d a b : Code) (t : ITy) (s : State) : Host.Outcome State Fault Refusal :=
  finishSlot 2 0x2F st (stageVclampInt d a b t) s

/-- `vclamp` stages its result (R110). -/
def stageVclampFp (d a b : Code) (t : FTy) (_ : Nat) (_ : State) (u : Task) : Staged :=
  stageV3 latVec (ftyVty t) 0 d a b u fun lo hi x => clampFp (ftyFmt t) x lo hi

/-- `vclamp` (R110). -/
def execVclampFp (st : Bool) (d a b : Code) (t : FTy) (s : State) : Host.Outcome State Fault Refusal :=
  finishSlot 2 0x2F st (stageVclampFp d a b t) s

/-- `vand` stages its result (R111). -/
def stageVand (d a b : Code) (_ : Nat) (_ : State) (u : Task) : Staged :=
  stageBits d a b u (· &&& ·)

/-- `vand` (R111). -/
def execVand (st : Bool) (d a b : Code) (s : State) : Host.Outcome State Fault Refusal :=
  finishSlot 2 0x2F st (stageVand d a b) s

/-- `vor` stages its result (R111). -/
def stageVor (d a b : Code) (_ : Nat) (_ : State) (u : Task) : Staged :=
  stageBits d a b u (· ||| ·)

/-- `vor` (R111). -/
def execVor (st : Bool) (d a b : Code) (s : State) : Host.Outcome State Fault Refusal :=
  finishSlot 2 0x2F st (stageVor d a b) s

/-- `vxor` stages its result (R111). -/
def stageVxor (d a b : Code) (_ : Nat) (_ : State) (u : Task) : Staged :=
  stageBits d a b u (· ^^^ ·)

/-- `vxor` (R111). -/
def execVxor (st : Bool) (d a b : Code) (s : State) : Host.Outcome State Fault Refusal :=
  finishSlot 2 0x2F st (stageVxor d a b) s

/-- `vsel` stages its result (R110). -/
def stageVsel (d a b : Code) (w : ITy) (k : BitVec 3) (_ : Nat) (_ : State) (u : Task) : Staged :=
  let e := ityBytes w
  let x := rdV u a (ityVty w)
  let y := rdV u b (ityVty w)
  let p := u.kReg (8 + k.toNat)
  let pick (i : Nat) : Nat := if active p e i then elem e x i else elem e y i
  wholeV d (srcV u.vcnt a 2 ++ srcV u.vcnt b 3) u (BitVec.ofNat 2048 (packElems e pick (256 / e)))

/-- `vsel` (R110). -/
def execVsel (st : Bool) (d a b : Code) (w : ITy) (k : BitVec 3) (s : State) : Host.Outcome State Fault Refusal :=
  finishSlot 2 0x2F st (stageVsel d a b w k) s

end Sys2Proof.Machine
end

