-- ==== Sys2Proof/Machine/MemVector.lean ====
section
/-! DEFINITION. Vector loads and stores, hoisted vector loads, gather and scatter, and stream pops (05 R120 to R131, 14 R249,
R251). -/

namespace Sys2Proof.Machine

-- Active bytes (R121, R122). -------------------------------------------------------------------------------------

/-- The active byte lanes from an address, in runs of first lane and length, cut at multiples of 1 KiB. -/
def runsOf (p : Pred) (ea : W64) : List (Nat × Nat) :=
  ((List.range 256).foldl (fun (l : List (Nat × Nat)) j =>
    if !p.getLsbD j then l
    else
      match l with
      | (a, n) :: r => if a + n = j ∧ (ea.toNat + j) % 1024 ≠ 0 then (a, n + 1) :: r else (j, 1) :: (a, n) :: r
      | [] => [(j, 1)]) []).reverse

/-- A placed run of a vector access: its first lane, its virtual address, its place. -/
abbrev Run3 := Nat × W64 × (Nat × Nat × W64)

/-- The places of a vector access, or its first fault. -/
abbrev PlacedRuns := Except TrapInfo (List Run3 × List TlbEntry)

/-- *permission* for a vector access into the control-register region (R247). -/
def controlDenied (va : W64) (pa : Nat) : TrapInfo := { cause := .permission, word := BitVec.ofNat 64 pa, target := some va }

/-- The places of runs, checked lower page first; *store to decoded alias* comes after every other check (R122). -/
def placeRuns (s : State) (c : Ctx) (acc : Acc) (ea : W64) : List (Nat × Nat) → PlacedRuns
  | [] => .ok ([], [])
  | (a, n) :: l =>
    let va := ea + BitVec.ofNat 64 a
    let r := placeRuns s c acc ea l
    match place s c acc n va with
    | .error e =>
      if e.cause == .storeToDecoded then
        (match r with
          | .error e2 => if e2.cause == .storeToDecoded then .error e else .error { e2 with fills := e.fills ++ e2.fills }
          | .ok _ => .error e)
      else .error e
    | .ok x =>
      if regionOf s x.pa == .control then .error { controlDenied va x.pa with fills := x.fills }
      else
        match r with
        | .error e => .error { e with fills := x.fills ++ e.fills }
        | .ok q => .ok ((a, va, (x.pa, n, x.leaf)) :: q.1, x.fills ++ q.2)

/-- The first two checks of R122 for the active bytes of a predicate: canonical, then aligned. -/
def vectorCheck (align : Nat) (ea : W64) (p : Pred) : Option TrapInfo :=
  match (List.range 256).find? fun j => p.getLsbD j && !canonical (ea + BitVec.ofNat 64 j) with
  | some j =>
    let va := ea + BitVec.ofNat 64 j
    some { cause := .pageFault, word := pageFaultWord 0x01 0 .read 0 0, target := some va }
  | none => faultIf (ea.toNat % align != 0) (misaligned align (ea + BitVec.ofNat 64 (lowestSet p)))

/-- The checks of a vector access of 256 bytes in the order of R122. -/
def vectorPlace (s : State) (core : Nat) (t : Task) (acc : Acc) (ea : W64) (p : Pred) : PlacedRuns :=
  if p = 0 then .ok ([], [])
  else
    match vectorCheck 32 ea p with
    | some e => .error (if e.cause == .pageFault then { e with word := pageFaultWord 0x01 0 acc 0 0 } else e)
    | none => placeRuns s (slotCtx core t) acc ea (runsOf p ea)

/-- *uncorrectable error* of a vector read: the lowest active byte that is poisoned (R122, R414). -/
def poisonRuns (s : State) : List Run3 → Option TrapInfo
  | [] => none
  | (_, va, (pa, n, _)) :: l =>
    match firstPoison s pa n with
    | some (i, g) => some { cause := .uncorrectable, word := BitVec.ofNat 64 g, target := some (va + BitVec.ofNat 64 i) }
    | none => poisonRuns s l

/-- *uncorrectable error* of a vector access to a peer that no link reaches (R396). -/
def peerRuns (s : State) (l : List Run3) : Option TrapInfo := l.findSome? fun r => peerFault s (some r.2.1) [r.2.2]

/-- What reading runs comes to besides their value: fault, answers to wait for, sticky bits. -/
def readRuns (s : State) (t : Task) (l : List Run3) (fills : List TlbEntry) : Staged :=
  match (peerRuns s l).or (poisonRuns s l) with
  | some e => { fault := some e, fills := fills }
  | none =>
    let ps := l.map (·.2.2)
    { waits := (needPlaced s t.answers ps).map .answer ++
        accessWaits s t false ps,
      fills := fills, effects := windowEffects s ps }

/-- The number that runs read, each at its lanes. -/
def runsValue (s : State) (t : Task) : List Run3 → Nat
  | [] => 0
  | (a, _, (pa, n, _)) :: l => loadNat s t.answers pa n * 256 ^ a + runsValue s t l

/-- What storing lanes of a vector in runs comes to. -/
def writeRuns (s : State) (t : Task) (l : List Run3) (fills : List TlbEntry) (v : VReg) : Staged :=
  match peerRuns s l with
  | some e => { fault := some e, fills := fills }
  | none =>
    { effects := l.flatMap fun r => storePlaced s [r.2.2] (v.toNat / 256 ^ r.1), fills := fills,
      waits := accessWaits s t true (l.map (·.2.2)) }

/-- Whether every active byte of a vector access lies in the near-store window, so that its latency is that of R19. -/
def allNear (p : Pred) (ea : W64) : Bool :=
  (List.range 256).all fun j => !p.getLsbD j || inNear (ea + BitVec.ofNat 64 j)

/-- The contract latency of a vector load (R18, R19). -/
def vectorLat (p : Pred) (ea : W64) : Nat := if allNear p ea then latVld else latNext

-- FIFO banks (R251). ---------------------------------------------------------------------------------------------

/-- The bank in FIFO mode whose part of the cluster-store window holds an address. -/
def fifoBank (s : State) (t : Task) (ea : W64) : Option Nat :=
  if !inCluster ea then none
  else
    let i := (ea.toNat - clusterBase) / 0x20000
    let g := s.groupOf t
    if i < g.banks.length ∧ bankMode g i = 2 then some i else none

/-- Pushes to a bank by earlier slots of the bundle. -/
def earlierPushes (s : State) (bank : Nat) : Nat :=
  ((s.bundle.staged.flatMap (·.effects)).filter fun e => match e with | .fifoPush b _ => b == bank | _ => false).length

/-- Pops of a bank by earlier slots of the bundle. -/
def earlierPops (s : State) (bank : Nat) : Nat :=
  ((s.bundle.staged.flatMap (·.effects)).filter fun e => match e with | .fifoPop b _ _ => b == bank | _ => false).length

/-- *uncorrectable error* for a pop of a FIFO bank whose next entry holds poison (R414). -/
def fifoPoison (s : State) (t : Task) (bank : Nat) (ea : W64) : Option TrapInfo :=
  let x := s.bankOf t.gid bank
  let j := x.head + earlierPops s bank
  if j < x.tail then poisonFault s (some ea) [(s.fifoPa t.gid bank j, 256, 0)] else none

/-- The FIFO bank a whole vector access goes to, after the first two checks of R122. -/
def fifoAccess (s : State) (t : Task) (ea : W64) (p : Pred) : Option Nat :=
  if p = allLanes ∧ (vectorCheck 32 ea p).isNone then fifoBank s t ea else none

-- Vector loads and stores (R121, R123). --------------------------------------------------------------------------

/-- A vector load from memory at an address. -/
def vectorLoad (d : Code) (ea : W64) (p : Pred) (core : Nat) (s : State) (t : Task) : Staged :=
  let base (v : Nat) : Staged := { dests := destV d, effects := wrV d (vectorLat p ea) p (BitVec.ofNat 2048 v) }
  match vectorPlace s core t .read ea p with
  | .error e => { base 0 with fault := some e }
  | .ok q => (base (runsValue s t q.1)).and (readRuns s t q.1 q.2)

/-- `vld` at an address: a pop where it goes to a FIFO bank (R121, R251). -/
def vldAt (d : Code) (ea : W64) (p : Pred) (core : Nat) (s : State) (t : Task) : Staged :=
  match fifoAccess s t ea p with
  | some b =>
    { dests := destV d, fault := fifoPoison s t b ea, waits := [.fifoPop b (earlierPushes s b) (earlierPops s b)],
      effects := [.fifoPop b d.toNat latNext] }
  | none => vectorLoad d ea p core s t

/-- `vst` at an address: a push where it goes to a FIFO bank (R121, R251). -/
def vstAt (ea : W64) (p : Pred) (v : VReg) (core : Nat) (s : State) (t : Task) : Staged :=
  match fifoAccess s t ea p with
  | some b => { waits := .fifoPush b (earlierPushes s b) (earlierPops s b) :: releaseWaits t, effects := [.fifoPush b v] }
  | none =>
    match vectorPlace s core t .write ea p with
    | .error e => { fault := some e }
    | .ok q => writeRuns s t q.1 q.2 v

/-- The operand checks of a vector load RR. -/
def vldEncs (t : Task) (d a b : Code) : List EncFail := dstV t.vcnt d 1 ++ srcG a 2 ++ srcG b 3

/-- `vld` RR stages its result (R121). -/
def stageVldRr (d a b : Code) (x : BitVec 2) (p : BitVec 3) (core : Nat) (s : State) (t : Task) : Staged :=
  ({ encs := vldEncs t d a b } : Staged).and (vldAt d (addrRr core t a b x) (t.kReg p.toNat) core s t)

/-- `vld` RR (R121). -/
def execVldRr (st : Bool) (d a b : Code) (x : BitVec 2) (p : BitVec 3) (s : State) : Host.Outcome State Fault Refusal :=
  finishSettled 3 0x36 st (stageVldRr d a b x p) s

/-- `vld` RI stages its result (R121). -/
def stageVldRi (d a : Code) (i : BitVec 12) (core : Nat) (s : State) (t : Task) : Staged :=
  ({ encs := dstV t.vcnt d 1 ++ srcG a 2 } : Staged).and (vldAt d (addrRi core t a i) allLanes core s t)

/-- `vld` RI (R121). -/
def execVldRi (st : Bool) (d a : Code) (i : BitVec 12) (s : State) : Host.Outcome State Fault Refusal :=
  finishSettled 3 0x37 st (stageVldRi d a i) s

/-- `vst` RR stages its store (R121). -/
def stageVstRr (d a b : Code) (x : BitVec 2) (p : BitVec 3) (core : Nat) (s : State) (t : Task) : Staged :=
  ({ encs := srcV t.vcnt d 1 ++ srcG a 2 ++ srcG b 3 } : Staged).and
    (vstAt (addrRr core t a b x) (t.kReg p.toNat) (rdV t d .i8) core s t)

/-- `vst` RR (R121). -/
def execVstRr (st : Bool) (d a b : Code) (x : BitVec 2) (p : BitVec 3) (s : State) : Host.Outcome State Fault Refusal :=
  finishSettled 3 0x38 st (stageVstRr d a b x p) s

/-- `vst` RI stages its store (R121). -/
def stageVstRi (d a : Code) (i : BitVec 12) (core : Nat) (s : State) (t : Task) : Staged :=
  ({ encs := srcV t.vcnt d 1 ++ srcG a 2 } : Staged).and (vstAt (addrRi core t a i) allLanes (rdV t d .i8) core s t)

/-- `vst` RI (R121). -/
def execVstRi (st : Bool) (d a : Code) (i : BitVec 12) (s : State) : Host.Outcome State Fault Refusal :=
  finishSettled 3 0x39 st (stageVstRi d a i) s

/-- `vldb` stages its result (R122, R124). -/
def stageVldb (d a b : Code) (w : ITy) (p : BitVec 3) (core : Nat) (s : State) (t : Task) : Staged :=
  let e := ityBytes w
  let ea := rdG core t a + rdG core t b * BitVec.ofNat 64 e
  let k := t.kReg p.toNat
  let base (lat m v : Nat) : Staged :=
    { encs := vldEncs t d a b, dests := destV d, effects := wrV d lat (BitVec.ofNat 256 m) (BitVec.ofNat 2048 v) }
  if (List.range (256 / e)).all fun i => !active k e i then base latVld 0 0
  else
    let bytes : Pred := BitVec.ofNat 256 (2 ^ e - 1)
    match vectorCheck e ea bytes with
    | some f => { base (vectorLat bytes ea) 0 0 with fault := some f }
    | none =>
      let r := readStaged s core t ea e (placeAll s (slotCtx core t) .read [(ea, e)])
      let x := lanes e (onActive k e fun _ => (r.2.1, 0)) (256 / e)
      (base (if r.2.2 then latNext else vectorLat bytes ea) x.2.1 x.1).and r.1

/-- `vldb` (R124). -/
def execVldb (st : Bool) (d a b : Code) (w : ITy) (p : BitVec 3) (s : State) : Host.Outcome State Fault Refusal :=
  finishSettled 3 0x3C st (stageVldb d a b w p) s

-- Hoisted vector loads (R125, R126). -----------------------------------------------------------------------------

/-- The one or two physical ranges of the 256 bytes from an address, of the pages that active bytes touch (R125). -/
def vectorRanges (s : State) (ea : W64) (l : List Run3) : List (Nat × Nat × Bool) :=
  let cut := min 256 (4096 - ea.toNat % 4096)
  (l.flatMap fun r =>
    let lo := if r.1 < cut then 0 else cut
    let hi := if r.1 < cut then cut else 256
    hoistRanges s [(r.2.2.1 - (r.1 - lo), hi - lo, r.2.2.2.2)]).eraseDups

/-- `vld.a` stages its load and its entry; without an active lane it removes the entry of its register (R125). -/
def stageVldA (d a b : Code) (x : BitVec 2) (p : BitVec 3) (core : Nat) (s : State) (t : Task) : Staged :=
  let ea := addrRr core t a b x
  let k := t.kReg p.toNat
  let r := vectorLoad d ea k core s t
  let entry : List Effect :=
    if d.toNat ≥ 48 then []
    else if k = 0 then [.dropEntry true d.toNat]
    else
      match vectorPlace s core t .read ea k with
      | .ok q => [.enter { vec := true, width := .w64, reg := d.toNat, va := ea.toNat, len := 256, pas := vectorRanges s ea q.1 }]
      | .error _ => []
  { r with encs := vldEncs t d a b ++ r.encs, effects := r.effects.map keepEntry ++ entry }

/-- `vld.a` (R125). -/
def execVldA (st : Bool) (d a b : Code) (x : BitVec 2) (p : BitVec 3) (s : State) : Host.Outcome State Fault Refusal :=
  finishSettled 3 0x36 st (stageVldA d a b x p) s

/-- `vchk.a` stages its hit, which writes and counts nothing, or its load (R126). -/
def stageVchkA (d a b : Code) (p : BitVec 3) (core : Nat) (s : State) (t : Task) : Staged :=
  let ea := rdG core t a + rdG core t b
  let base : Staged := { encs := vldEncs t d a b }
  if d.toNat < 48 ∧ (t.atab.any fun e => e.vec && e.reg == d.toNat && e.va == ea.toNat) then
    { base with dests := destV d }
  else
    let r := vectorLoad d ea (t.kReg p.toNat) core s t
    base.and { r with effects := r.effects.map keepEntry }

/-- `vchk.a` (R126). -/
def execVchkA (st : Bool) (d a b : Code) (p : BitVec 3) (s : State) : Host.Outcome State Fault Refusal :=
  finishSettled 3 0x3C st (stageVchkA d a b p) s

-- Gather and scatter (R128). -------------------------------------------------------------------------------------

/-- The address of element `i` of a gather or scatter: `scale` multiplies the offset by the element size. -/
def elemAddr (e : Nat) (scale : Bool) (base : W64) (off : VReg) (i : Nat) : W64 :=
  base + BitVec.ofNat 64 (elem e off i * (if scale then e else 1))

/-- Whether the address of an element lies in the near-store window of the task. -/
def inWindow (s : State) (core : Nat) (t : Task) (va : W64) : Bool :=
  inNear va && decide (va.toNat - nearBase < nearSize s t.gid core)

/-- The checks of a gather or scatter over its active elements in order, then the places of the elements. -/
def elemPlaces (s : State) (core : Nat) (t : Task) (e : Nat) (scale : Bool) (base : W64) (off : VReg) (p : Pred) :
    Except TrapInfo (List Run3) :=
  let act := (List.range (256 / e)).filter (active p e)
  let va (i : Nat) : W64 := elemAddr e scale base off i
  let bad (c : Cause) (i : Nat) : TrapInfo := { cause := c, word := BitVec.ofNat 64 i, target := some (va i) }
  match act.find? fun i => !inWindow s core t (va i) with
  | some i => .error (bad .permission i)
  | none =>
    match act.find? fun i => (va i).toNat % e != 0 with
    | some i => .error (bad .misaligned i)
    | none =>
      .ok (act.filterMap fun i =>
        match nearPlace s t.gid core (va i) with
        | .ok pa => some (i * e, va i, (pa, e, 0))
        | .error _ => none)

/-- `vldg` stages its result (R128). -/
def stageVldg (d a b : Code) (w : ITy) (c : Bool) (p : BitVec 3) (core : Nat) (s : State) (t : Task) : Staged :=
  let e := ityBytes w
  let k := t.kReg p.toNat
  let m := (lanes e (onActive k e fun _ => (0, 0)) (256 / e)).2.1
  let base (v : Nat) : Staged :=
    { encs := dstV t.vcnt d 1 ++ srcG a 2 ++ srcV t.vcnt b 3, dests := destV d,
      effects := wrV d latGather (BitVec.ofNat 256 m) (BitVec.ofNat 2048 v) }
  match elemPlaces s core t e c (rdG core t a) (rdV t b (ityVty w)) k with
  | .error f => { base 0 with fault := some f }
  | .ok l => (base (runsValue s t l)).and (readRuns s t l [])

/-- `vldg` (R128). -/
def execVldg (st : Bool) (d a b : Code) (w : ITy) (c : Bool) (p : BitVec 3) (s : State) :
    Host.Outcome State Fault Refusal :=
  finishSettled 3 0x3A st (stageVldg d a b w c p) s

/-- `vsts` stages its stores in element order, so that the highest colliding element stays (R128). -/
def stageVsts (d a b : Code) (w : ITy) (c : Bool) (p : BitVec 3) (core : Nat) (s : State) (t : Task) : Staged :=
  let e := ityBytes w
  let base : Staged := { encs := srcV t.vcnt d 1 ++ srcG a 2 ++ srcV t.vcnt b 3 }
  match elemPlaces s core t e c (rdG core t a) (rdV t b (ityVty w)) (t.kReg p.toNat) with
  | .error f => { base with fault := some f }
  | .ok l => base.and (writeRuns s t l [] (rdV t d (ityVty w)))

/-- `vsts` (R128). -/
def execVsts (st : Bool) (d a b : Code) (w : ITy) (c : Bool) (p : BitVec 3) (s : State) :
    Host.Outcome State Fault Refusal :=
  finishSettled 3 0x3B st (stageVsts d a b w c p) s

-- Streams (R131). ------------------------------------------------------------------------------------------------

/-- Pops of a stream by earlier slots of the bundle. -/
def earlierStreamPops (s : State) (z : Nat) : Nat :=
  ((s.bundle.staged.flatMap (·.effects)).filter fun e => match e with | .popStream n _ _ _ _ => n == z | _ => false).length

/-- A stream after `n` pops. -/
def streamPops : Nat → Stream → Stream
  | 0, z => z
  | n + 1, z => streamPops n (streamPop z)

/-- `zpop` stages its pop, which happens when the bundle commits, and the bytes it takes, as they stand before its bundle
(R13, R131). DESIGN CHOICE: the spec does not say what two `zpop` of one stream in one bundle take, nor whether the second
counts as a second writer of `z` under R12; here it does not, and takes the next 256 bytes, in slot order (log entry 53). -/
def stageZpop (d a : Code) (p : BitVec 3) (core : Nat) (s : State) (t : Task) : Staged :=
  let before := earlierStreamPops s a.toNat
  let z := streamPops before (t.z[a.toNat]?.getD {})
  let v := streamValue s core t z
  { encs := dstV t.vcnt d 1 ++ inFile 16 a 2, dests := destV d, waits := [.stream a.toNat before],
    fault := faultAfter s core t (.stream a.toNat before) (streamPoison s core t z),
    effects := [.popStream a.toNat d.toNat (t.kReg p.toNat) latNext v] }

/-- `zpop` (R131). -/
def execZpop (st : Bool) (d a : Code) (p : BitVec 3) (s : State) : Host.Outcome State Fault Refusal :=
  finishSlot 3 0x3C st (stageZpop d a p) s

end Sys2Proof.Machine
end

