-- ==== Sys2Proof/Machine/SymSlots.lean ====
section
/-! DEFINITION. Symmetric tensors: descriptors, index maps, loads and stores through the map, and contraction (07 R160 to
R178). -/

namespace Sys2Proof.Machine

/-- The descriptor of a `y` register, or *invalid descriptor* with reason 0x10 (R162). -/
def descOf (t : Task) (n : Nat) : Except TrapInfo (BitVec 512) :=
  match (t.y[n]?).join with
  | some d => .ok d
  | none => .error (badDesc 0x10 n none)

/-- A load of a block of 64 bytes (R163, R173): what it comes to and the block. `r` is where it lies. -/
def readBlock (s : State) (t : Task) (ea : W64) (r : Placed) : Staged × BitVec 512 :=
  let x := loadStaged s t ea r
  ({ x with waits := x.waits ++ touchWaits s t false r }, BitVec.ofNat 512 (loadValue s t r))

/-- `ydesc` stages its descriptor (R163). -/
def stageYdesc (d a : Code) (i : BitVec 12) (core : Nat) (s : State) (t : Task) : Staged :=
  let ea := addrRi core t a i
  let r := readBlock s t ea (scalarPlace s core t .read 64 ea)
  let base : Staged := ({ encs := inFile 16 d 1 ++ srcG a 2, dests := [(.y, d.toNat)] } : Staged).and r.1
  if r.1.fault.isSome ∨ r.1.waits ≠ [] then base
  else if symRank r.2 = 0 then { base with effects := base.effects ++ [.setDesc d.toNat none] }
  else
    match symBad r.2 with
    | some (reason, o) => { base with fault := some (badDesc reason o (some ea)) }
    | none => { base with effects := base.effects ++ [.setDesc d.toNat (some r.2)] }

/-- `ydesc` (R163). -/
def execYdesc (st : Bool) (d a : Code) (i : BitVec 12) (s : State) : Host.Outcome State Fault Refusal :=
  finishSettled 3 0x35 st (stageYdesc d a i) s

-- `yidx` and `ychk` (R165 to R167). ------------------------------------------------------------------------------

/-- Whether the skip bit of an index tuple is set (R165). -/
def skips (x : Nat) : Bool := bitsOf x 63 1 == 1

/-- The element that `yidx` writes for a tuple (R166). -/
def yidxElem (d : BitVec 512) (x : Nat) : Nat :=
  if skips x then 2 ^ 63
  else
    match symMap d (tupleOf (symRank d) x) with
    | none => 2 ^ 60
    | some (o, sg) => if sg = 0 then 2 ^ 61 else o + (if sg < 0 then 2 ^ 62 else 0)

/-- `yidx` stages its result (R166). -/
def stageYidx (d a : Code) (y : BitVec 4) (_ : Nat) (_ : State) (t : Task) : Staged :=
  let base (v : Nat) : Staged :=
    { encs := dstV t.vcnt d 1 ++ srcV t.vcnt a 2, dests := destV d, effects := wrV d latRed allLanes (BitVec.ofNat 2048 v) }
  match descOf t y.toNat with
  | .error e => { base 0 with fault := some e }
  | .ok q => base (packElems 8 (fun i => yidxElem q (elem 8 (rdV t a .i64) i)) 32)

/-- `yidx` (R166). -/
def execYidx (st : Bool) (d a : Code) (y : BitVec 4) (s : State) : Host.Outcome State Fault Refusal :=
  finishSlot 4 0x4F st (stageYidx d a y) s

/-- Whether a tuple passes `ychk` (R167). -/
def ychkHolds (d : BitVec 512) (x : Nat) : Bool :=
  let l := tupleOf (symRank d) x
  !skips x &&
    (match symMap d l with
      | some (_, sg) => sg == 1 && symCanonical d l
      | none => false)

/-- `ychk` stages its result (R167). -/
def stageYchk (d a : Code) (y : BitVec 4) (core : Nat) (_ : State) (t : Task) : Staged :=
  let base : Staged := { encs := inFile 8 d 1 ++ srcG a 2, dests := [(.c, d.toNat)] }
  match descOf t y.toNat with
  | .error e => { base with fault := some e }
  | .ok q => { base with effects := wrC d.toNat latNext (ychkHolds q (rdG core t a).toNat) }

/-- `ychk` (R167). -/
def execYchk (st : Bool) (d a : Code) (y : BitVec 4) (s : State) : Host.Outcome State Fault Refusal :=
  finishSlot 4 0x4F st (stageYchk d a y) s

-- Loads and stores through the map (R168 to R171). ---------------------------------------------------------------

/-- An active lane of `vldy` or `vsty`: its number and what the map makes of its tuple. -/
abbrev MapLane := Nat × Option (Nat × Int)

/-- The active lanes of a vector of tuples (R168). -/
def mapLanes (d : BitVec 512) (tuples : VReg) : List MapLane :=
  ((List.range 32).filter fun i => !skips (elem 8 tuples i)).map fun i =>
    (i, symMap d (tupleOf (symRank d) (elem 8 tuples i)))

/-- Whether a lane is forced zero. -/
def forcedZero (l : MapLane) : Bool := match l.2 with | some (_, sg) => sg == 0 | none => false

/-- The address of the element of a lane (R168). -/
def laneAddr (e : Nat) (base : W64) (l : MapLane) : W64 := base + BitVec.ofNat 64 ((l.2.getD (0, 0)).1 * e)

/-- Whether an element of a type code is nonzero: ±0 counts as zero (R169). -/
def elemNonzero (ty x : Nat) : Bool :=
  if ty < 4 then x != 0 else x % 2 ^ (8 * (match ty with | 6 => 4 | 7 => 8 | _ => 2) - 1) != 0

/-- An element times a sign (R170): the sign bit flipped, or an integer negated with wrap-around. -/
def signed (ty e : Nat) (sg : Int) (x : Nat) : Nat :=
  if sg ≥ 0 then x
  else if ty < 4 then (256 ^ e - x % 256 ^ e) % 256 ^ e
  else (x + 2 ^ (8 * e - 1)) % 256 ^ e

/-- The checks of R169 from the second on, over the active lanes; `v` holds the elements of a store without `.fz`. -/
def mapFault (s : State) (core : Nat) (t : Task) (d : BitVec 512) (base : W64) (l : List MapLane) (v : Option VReg) :
    Option TrapInfo :=
  let e := symBytes d
  let real := l.filter fun x => !forcedZero x
  match l.find? fun x => x.2.isNone with
  | some x => some { cause := .engineBounds, word := BitVec.ofNat 64 (0x13 + x.1 * 2 ^ 32) }
  | none =>
    match real.find? fun x => !inWindow s core t (laneAddr e base x) with
    | some x => some { cause := .permission, word := BitVec.ofNat 64 x.1, target := some (laneAddr e base x) }
    | none =>
      if l ≠ [] ∧ base.toNat % e ≠ 0 then some (misaligned e base)
      else
        match v with
        | none => none
        | some w =>
          (l.find? fun x => forcedZero x && elemNonzero (symType d) (elem e w x.1)).map fun x =>
            { cause := .forcedZeroStore, word := BitVec.ofNat 64 x.1 }

/-- The runs of the lanes that reach storage. -/
def mapRuns (s : State) (core : Nat) (t : Task) (d : BitVec 512) (base : W64) (l : List MapLane) : List Run3 :=
  let e := symBytes d
  (l.filter fun x => !forcedZero x).filterMap fun x =>
    match nearPlace s t.gid core (laneAddr e base x) with
    | .ok pa => some (x.1 * e, laneAddr e base x, (pa, e, 0))
    | .error _ => none

/-- Elements times the signs of their lanes; 0 in a forced-zero lane and in a lane that is not active. -/
def signedElems (d : BitVec 512) (l : List MapLane) (v : VReg) : VReg :=
  let e := symBytes d
  let at' (i : Nat) : Nat := match l.find? fun x => x.1 == i with
    | some (_, some (_, sg)) => if sg = 0 then 0 else signed (symType d) e sg (elem e v i)
    | _ => 0
  BitVec.ofNat 2048 (packElems e at' 32)

/-- `vldy` stages its result (R169, R170). -/
def stageVldy (d a b : Code) (y : BitVec 4) (core : Nat) (s : State) (t : Task) : Staged :=
  let encs : Staged := { encs := dstV t.vcnt d 1 ++ srcG a 2 ++ srcV t.vcnt b 3, dests := destV d }
  let failed (f : TrapInfo) : Staged := { encs with fault := some f, effects := wrV d latGather 0 0 }
  match descOf t y.toNat with
  | .error f => failed f
  | .ok q =>
    let base := rdG core t a
    let l := mapLanes q (rdV t b .i64)
    match mapFault s core t q base l none with
    | some f => failed f
    | none =>
      let runs := mapRuns s core t q base l
      let e := symBytes q
      let m := (lanes e (fun i => if l.any fun x => x.1 == i then some (0, 0) else none) 32).2.1
      let v := signedElems q l (BitVec.ofNat 2048 (runsValue s t runs))
      ({ encs with effects := wrV d latGather (BitVec.ofNat 256 m) v } : Staged).and (readRuns s t runs [])

/-- `vldy` (R168 to R170). -/
def execVldy (st : Bool) (d a b : Code) (y : BitVec 4) (s : State) : Host.Outcome State Fault Refusal :=
  finishSettled 3 0x3D st (stageVldy d a b y) s

/-- `vsty` stages its stores in lane order, so that the highest lane of a representative stays (R169, R171); `z` is `.fz`. -/
def stageVsty (d a b : Code) (y : BitVec 4) (z : Bool) (core : Nat) (s : State) (t : Task) : Staged :=
  let encs : Staged := { encs := srcV t.vcnt d 1 ++ srcG a 2 ++ srcV t.vcnt b 3 }
  match descOf t y.toNat with
  | .error f => { encs with fault := some f }
  | .ok q =>
    let base := rdG core t a
    let l := mapLanes q (rdV t b .i64)
    let v := rdV t d (vtyOfCode (symType q))
    match mapFault s core t q base l (if z then none else some v) with
    | some f => { encs with fault := some f }
    | none => encs.and (writeRuns s t (mapRuns s core t q base l) [] (signedElems q l v))
where vtyOfCode : Nat → VTy
  | 0 => .i8 | 1 => .i16 | 2 => .i32 | 3 => .i64 | 4 => .f16 | 5 => .bf16 | 6 => .f32 | _ => .f64

/-- `vsty` (R168, R169, R171). -/
def execVsty (st : Bool) (d a b : Code) (y : BitVec 4) (z : Bool) (s : State) : Host.Outcome State Fault Refusal :=
  finishSettled 3 0x3D st (stageVsty d a b y z) s

-- Contraction (R172 to R177). ------------------------------------------------------------------------------------

/-- Reason 0x30: a bank operand that the task does not hold (R138); `field` of R36. -/
def needBank (t : Task) (b field : Nat) : List EncFail := if t.holds b then [] else undef 0x30 b field

/-- Whether an FP64 tile may stand in the pair from a bank (R138). -/
def pairHeld (t : Task) (b : Nat) : Bool := b % 2 == 0 && t.holds b && t.holds (b + 1)

/-- The descriptors that a command block names, or the first reason of step 3 of R173. -/
def sctrDescs (t : Task) (blk : BitVec 512) (ea : W64) : Except TrapInfo (BitVec 512 × BitVec 512 × BitVec 512) :=
  let named (k : Nat) : Except TrapInfo (BitVec 512) :=
    match (t.y[byteOf blk k]?).join with
    | some d => .ok d
    | none => .error (badDesc 0x10 (byteOf blk k + k * 2 ^ 8) (some ea))
  match named 0 with
  | .error e => .error e
  | .ok ya =>
    match named 1 with
    | .error e => .error e
    | .ok yb =>
      let free : Bool := (List.range (symRank ya)).any (fun k => !contracted blk false k) ||
        (List.range (symRank yb)).any fun k => !contracted blk true k
      match (if free then named 2 else .ok 0) with
      | .error e => .error e
      | .ok yc =>
        if symType ya = 3 ∨ symType ya ≠ symType yb then
          .error (badDesc 0x11 (if symType ya = 3 then 0 else 1) (some ea))
        else .ok (ya, yb, yc)

/-- Steps 3 to 6 of R173: the captured operation, or the first fault. -/
def sctrJob (t : Task) (d : Nat) (blk : BitVec 512) (ea storage : W64) : Except TrapInfo SctrJob :=
  match sctrDescs t blk ea with
  | .error e => .error e
  | .ok (ya, yb, yc) =>
    let e := symBytes ya
    let baseA := storage + BitVec.ofNat 64 (bitsOf blk.toNat (8 * 0x10) 64)
    let baseB := storage + BitVec.ofNat 64 (bitsOf blk.toNat (8 * 0x18) 64)
    if symType ya = 7 ∧ !pairHeld t d then
      .error { cause := .undefinedEncoding, word := encWord { step := 1, reason := 0x31, value := d, field := 1 } }
    else if baseA.toNat % e ≠ 0 then .error (misaligned e baseA)
    else if baseB.toNat % e ≠ 0 then .error (misaligned e baseB)
    else
      match sctrBad ya yb yc blk with
      | some (r, o) => .error (badDesc r o (some ea))
      | none => .ok { ya := ya, yb := yb, yc := yc, block := blk, baseA := baseA, baseB := baseB }

/-- `sctr.vs` in array order, once the earlier array operations that it comes after have finished: fetch, check, and the banks
it writes (R176, R177). -/
def sctrNow (job : SctrJob) (d : Nat) (s : State) (core : Nat) (t : Task) : Staged :=
  let c := fetchCtx core t (arrayOp s t (.sctr job) d)
  match sctrFetch s s c t.answers true job with
  | .error e => { fetch := some e }
  | .ok j =>
    let x := placesOf s c (sctrPieces true job)
    let units := needPlaced s t.answers x.1
    if units ≠ [] then { waits := units.map .answer, fills := x.2 }
    else
      match symViolation j with
      | some y => { fault := some { cause := .symmetryViolation, word := BitVec.ofNat 64 (tupleWord y) } }
      | none =>
        let r := sctrResult j (t.bank d) (t.bank (d + 1))
        let second : List Effect := if symType j.ya = 7 then [.bankIs (d + 1) r.2.1] else []
        { fills := x.2, effects := windowEffects s x.1 ++ [.bankIs d r.1] ++ second ++ [.lateFlags r.2.2.toNat] }

/-- `sctr` stages its operation (R173, R176); `v` is `.vs`. -/
def stageSctr (d a b : Code) (v : Bool) (core : Nat) (s : State) (t : Task) : Staged :=
  let ea := rdG core t a
  let r := readBlock s t ea (orderedPlace s core t .read 64 ea)
  let base : Staged :=
    ({ encs := needBank t d.toNat 1 ++ srcG a 2 ++ srcG b 3, dests := [(.a, d.toNat)] } : Staged).and r.1
  if r.1.fault.isSome ∨ r.1.waits ≠ [] then base
  else
    match sctrJob t d.toNat r.2 ea (rdG core t b) with
    | .error e => { base with fault := some e }
    | .ok job =>
      if v then
        let x := placesOf s (fetchCtx core t (arrayOp s t (.sctr job) d.toNat)) (sctrPieces true job)
        let w := bankWaits t d.toNat (if symType job.ya = 7 then 2 else 1) ++ accessWaits s t false x.1
        if w ≠ [] then { base with waits := w }
        else base.and (sctrNow job d.toNat s core t)
      else
        { base with effects := base.effects ++
            [.arr { arrayOp s t (.sctr job) d.toNat with z := sctrZ r.2 }] }

/-- `sctr` (R172 to R177). -/
def execSctr (st : Bool) (d a b : Code) (v : Bool) (s : State) : Host.Outcome State Fault Refusal :=
  finishSettled 4 0x4E st (stageSctr d a b v) s

end Sys2Proof.Machine
end

