-- ==== Sys2Proof/Machine/Atomics.lean ====
section
/-! DEFINITION. Atomics (15 R279 to R281, 19 R419). -/

namespace Sys2Proof.Machine

/-- An active lane of an atomic: number, address, operand, comparand. -/
abbrev AtomLane := Nat × W64 × Nat × Nat

/-- A fault of a lane (R281, R419): from the second check on the lane stands in word 0 of the record. -/
def laneFault (vec : Bool) (i : Nat) (f : TrapInfo) : TrapInfo := { f with lane := if vec then some i else none }

/-- The places of the lanes of an atomic; *store to decoded alias* comes after every other check of translation (R281). -/
def atomPlaces (s : State) (c : Ctx) (vec : Bool) :
    List AtomLane → Except TrapInfo (List (AtomLane × Nat × Nat × W64) × List TlbEntry)
  | [] => .ok ([], [])
  | l :: rest =>
    let r := atomPlaces s c vec rest
    match place s c .atomic 8 l.2.1 with
    | .error f =>
      let e := laneFault vec l.1 f
      if f.cause == .storeToDecoded then
        (match r with
          | .error g => if g.cause == .storeToDecoded then .error e else .error g
          | .ok _ => .error e)
      else .error e
    | .ok x => r.map fun q => ((l, x.pa, 8, x.leaf) :: q.1, x.fills ++ q.2)

/-- Whether a physical address lies in the host or a peer aperture. -/
def isAperture (s : State) (pa : Nat) : Bool := regionOf s pa == .host || regionOf s pa == .peer

/-- The checks of an atomic over its active lanes, in the order of R281, and its placed lanes. -/
def atomCheck (s : State) (core : Nat) (t : Task) (addf vec : Bool) (scope : Scope) (l : List AtomLane) :
    Except TrapInfo (List (AtomLane × Nat × Nat × W64) × List TlbEntry) :=
  match l with
  | [] => .ok ([], [])
  | first :: _ =>
    if addf ∧ s.cadenced t then
      .error { cause := .deterministicAtomic, word := BitVec.ofNat 64 (s.bundle.words.headD 0), target := some first.2.1 }
    else
      match l.find? fun x => !canonical x.2.1 with
      | some x =>
        .error (laneFault vec x.1 { cause := .pageFault, word := pageFaultWord 0x01 0 .atomic 0 0, target := some x.2.1 })
      | none =>
        match l.find? fun x => x.2.1.toNat % 8 != 0 with
        | some x => .error (laneFault vec x.1 (misaligned 8 x.2.1))
        | none =>
          match atomPlaces s (slotCtx core t) vec l with
          | .error e => .error e
          | .ok q =>
            match q.1.find? fun p => isAperture s p.2.1 && (vec || scope != .system) with
            | some p =>
              .error (laneFault vec p.1.1
                { cause := .permission, word := BitVec.ofNat 64 scope.code, target := some p.1.2.1 })
            | none => .ok q

/-- What an atomic comes to once its lanes are placed: reads of poison and an unreachable peer, which are no checks of R281 and
name no lane (R419), and the read-modify-write at commit; at an aperture it is one access of the far end (R279). -/
def atomStaged (s : State) (t : Task) (op : AtomOp) (d : Code) (vec : Bool)
    (q : List (AtomLane × Nat × Nat × W64) × List TlbEntry) : Staged :=
  match q.1.findSome? fun p => (peerFault s (some p.1.2.1) [p.2]).or (poisonFault s (some p.1.2.1) [p.2]) with
  | some f => { fault := some f, fills := q.2 }
  | none =>
    let held := accessWaits s t true (q.1.map fun p => (p.2.1, 8, p.2.2.2))
    match q.1 with
    | [(l, pa, _)] =>
      if isAperture s pa then { waits := held, fills := q.2, effects := [.outAtomic op pa l.2.2.1 l.2.2.2 d] }
      else { waits := held, fills := q.2, effects := [.atomic op [(pa, l.1, l.2.2.1, l.2.2.2)] d vec] }
    | ps => { waits := held, fills := q.2, effects := [.atomic op (ps.map fun p => (p.2.1, p.1.1, p.1.2.2.1, p.1.2.2.2)) d vec] }

/-- `atom` stages its read-modify-write (R279, R281). -/
def stageAtom (d a b : Code) (c : Scope) (o : AtomOp) (core : Nat) (s : State) (t : Task) : Staged :=
  let base : Staged := { encs := dstG d 1 ++ srcG a 2 ++ srcG b 3, dests := destG d }
  match atomCheck s core t (o == .addf) false c [(0, rdG core t a, (rdG core t b).toNat, (rdG core t d).toNat)] with
  | .error f => { base with fault := some f }
  | .ok q => base.and (atomStaged s t o d false q)

/-- `atom` (R279). -/
def execAtom (st : Bool) (d a b : Code) (c : Scope) (o : AtomOp) (s : State) : Host.Outcome State Fault Refusal :=
  finishSettled 3 0x3E st (stageAtom d a b c o) s

/-- The operation of R279 that a `vatom` operation performs (R280). -/
def vatomOp : VAtomOp → AtomOp
  | .add => .add | .addf => .addf | .min => .min | .max => .max | .conj => .conj | .disj => .disj | .xor => .xor
  | .xchg => .xchg

/-- `vatom` stages its lanes (R280, R281). -/
def stageVatom (d a b : Code) (o : VAtomOp) (p : BitVec 3) (core : Nat) (s : State) (t : Task) : Staged :=
  let base : Staged := { encs := dstV t.vcnt d 1 ++ srcG a 2 ++ srcV t.vcnt b 3, dests := destV d }
  let off := rdV t b .i64
  let v := rdV t d .i64
  let l : List AtomLane := ((List.range 32).filter (active (t.kReg p.toNat) 8)).map fun i =>
    (i, rdG core t a + BitVec.ofNat 64 (elem 8 off i), elem 8 v i, 0)
  match atomCheck s core t (o == .addf) true .device l with
  | .error f => { base with fault := some f }
  | .ok q => base.and (atomStaged s t (vatomOp o) d true q)

/-- `vatom` (R280). -/
def execVatom (st : Bool) (d a b : Code) (o : VAtomOp) (p : BitVec 3) (s : State) : Host.Outcome State Fault Refusal :=
  finishSettled 3 0x3F st (stageVatom d a b o p) s

end Sys2Proof.Machine
end

