-- ==== Sys2Proof/Machine/Tensor.lean ====
section
/-! DEFINITION. The tensor class: accumulator banks, operand rings and streams, the matrix operations, edge scale latches,
select words, write-back (06 R132 to R157, 17 R305, R310). -/

namespace Sys2Proof.Machine

/-- *engine bounds* with a reason and the rest of its word (R305). -/
def engineBounds (reason rest : Nat) : TrapInfo := { cause := .engineBounds, word := BitVec.ofNat 64 (reason + rest * 2 ^ 32) }

-- Accumulator banks (R136 to R140). ------------------------------------------------------------------------------

/-- The lowest start of `n` consecutive bank numbers that the task does not hold (R136). -/
def freeRun (t : Task) (n : Nat) : Option Nat :=
  (List.range 64).find? fun b => decide (b + n ≤ 64) && (List.range n).all fun i => !t.holds (b + i)

/-- The start that an allocation of `n` banks gives, where it succeeds (R136). -/
def allocStart (s : State) (core : Nat) (t : Task) (n : Nat) : Option Nat :=
  if n ≤ 64 ∧ n + banksHeld s core ≤ 64 then freeRun t n else none

/-- `acc.alloc` stages its result (R136). -/
def stageAccAlloc (d a b : Code) (core : Nat) (s : State) (t : Task) : Staged :=
  let n := (rdG core t a).toNat
  let base : Staged :=
    { encs := dstG d 1 ++ srcG a 2 ++ inFile 8 b 3, dests := destG d ++ [(.c, b.toNat)] }
  if n = 0 then { base with effects := wrG d latNext 0 ++ wrC b.toNat latNext true }
  else
    match allocStart s core t n with
    | some k => { base with effects := .alloc k n :: (wrG d latNext (BitVec.ofNat 64 k) ++ wrC b.toNat latNext true) }
    | none => { base with effects := wrG d latNext 64 ++ wrC b.toNat latNext false }

/-- `acc.alloc` (R136). -/
def execAccAlloc (st : Bool) (d a b : Code) (s : State) : Host.Outcome State Fault Refusal :=
  finishSlot 4 0x40 st (stageAccAlloc d a b) s

/-- `acc.alloc.t` stages its result (R136). -/
def stageAccAllocT (d a : Code) (core : Nat) (s : State) (t : Task) : Staged :=
  let n := (rdG core t a).toNat
  let base : Staged := { encs := dstG d 1 ++ srcG a 2, dests := destG d }
  if n = 0 then { base with effects := wrG d latNext 0 }
  else
    match allocStart s core t n with
    | some k => { base with effects := .alloc k n :: wrG d latNext (BitVec.ofNat 64 k) }
    | none =>
      let w := min n (2 ^ 32 - 1) + (64 - banksHeld s core) * 2 ^ 32
      { base with fault := some { cause := .accExhausted, word := BitVec.ofNat 64 w } }

/-- `acc.alloc.t` (R136). -/
def execAccAllocT (st : Bool) (d a : Code) (s : State) : Host.Outcome State Fault Refusal :=
  finishSlot 4 0x40 st (stageAccAllocT d a) s

/-- Whether bank `b` belongs to the carried set of a configured solve (R185). -/
def carried (t : Task) (b : Nat) : Bool :=
  t.slv.code != .idle && decide (solveFirst t.slv ≤ b) && decide (b < solveFirst t.slv + solveBanks t.slv)

/-- `acc.free` stages its release (R137, R195): it waits for each bank in turn. DESIGN CHOICE: R36 names no field beside reason
0x30 of a bank that a register gives; here it is field 2, that of A (log entry 64). -/
def stageAccFree (a b : Code) (core : Nat) (_ : State) (t : Task) : Staged :=
  let first := (rdG core t a).toNat
  let n := (rdG core t b).toNat
  let range := (List.range (min n 65)).map fun i => (first + i) % 2 ^ 64
  let unheld : List EncFail := match range.find? fun k => !t.holds k with
    | some k => undef 0x30 k 2
    | none => []
  let hit := range.any (carried t)
  { encs := srcG a 2 ++ srcG b 3 ++ unheld, fault := faultIf (hit && solveRuns t) (solveMisuse t 0x0C 0),
    waits := (range.map fun k => .banks k 1) ++ (if n = 0 then [] else flowWaits t),
    effects := .free first n :: (if hit then [.solve { t.slv with code := .idle }, .histGive] else []) }

/-- `acc.free` (R137). -/
def execAccFree (st : Bool) (a b : Code) (s : State) : Host.Outcome State Fault Refusal :=
  finishSettled 4 0x40 st (stageAccFree a b) s

/-- `acc.zero` stages its operation (R140). -/
def stageAccZero (d : Code) (_ : Nat) (s : State) (t : Task) : Staged :=
  { encs := needBank t d.toNat 1, dests := [(.a, d.toNat)],
    effects := [.arr (arrayOp s t .zero d.toNat)] }

/-- `acc.zero` (R140). -/
def execAccZero (st : Bool) (d : Code) (s : State) : Host.Outcome State Fault Refusal :=
  finishSlot 4 0x40 st (stageAccZero d) s

/-- `acc.rd` stages its result (R140), after every earlier array operation on its bank (R134). -/
def stageAccRd (d a b : Code) (core : Nat) (_ : State) (t : Task) : Staged :=
  { encs := dstV t.vcnt d 1 ++ needBank t a.toNat 2 ++ srcG b 3, dests := destV d, waits := bankWaits t a.toNat 1,
    effects := wrV d latAcc allLanes (slice (t.bank a.toNat) ((rdG core t b).toNat % 8)) }

/-- `acc.rd` (R140). -/
def execAccRd (st : Bool) (d a b : Code) (s : State) : Host.Outcome State Fault Refusal :=
  finishSettled 4 0x40 st (stageAccRd d a b) s

/-- `acc.wr` stages its operation (R140). -/
def stageAccWr (d a b : Code) (core : Nat) (s : State) (t : Task) : Staged :=
  { encs := needBank t d.toNat 1 ++ srcV t.vcnt a 2 ++ srcG b 3, dests := [(.a, d.toNat)],
    effects := [.arr (arrayOp s t (.write ((rdG core t b).toNat % 8) (rdV t a .i8)) d.toNat)] }

/-- `acc.wr` (R140). -/
def execAccWr (st : Bool) (d a b : Code) (s : State) : Host.Outcome State Fault Refusal :=
  finishSlot 4 0x40 st (stageAccWr d a b) s

-- Operands of the matrix operations (R143, R145). ----------------------------------------------------------------

/-- An operand of `rows` rows of `len` bytes: a handle, or the entry `idx` places behind the head of a ring, of which the
operation needs `idx + 1` full entries. `field` is its field number. -/
def matrixOper (s : State) (core : Nat) (t : Task) (c : Code) (handle : Bool) (idx rows len field : Nat) : Staged × Oper :=
  if handle then
    let h := rdG core t c
    match handleStride h len with
    | some st => ({ encs := srcG c field }, { src := .handle (handleAddr h) st, rows := rows, len := len })
    | none => ({ encs := srcG c field, fault := some (engineBounds 0x12 field) }, {})
  else
    let n := c.toNat
    let r := t.ring n
    let encs := inFile 16 c field
    if r.size = 0 ∨ r.size < rows * len then
      ({ encs := encs, fault := some (engineBounds 0x11 (n + rows * len * 2 ^ 16)) }, {})
    else
      ({ encs := encs, fault := faultAfter s core t (.ringFull n (idx + 1)) (entryPoison s core t r idx (rows * len)),
         waits := [.ringFull n (idx + 1)], effects := [.popRing n] },
       { src := .ring n, rows := rows, len := len, data := some (ringData s core t r idx (rows * len)) })

/-- A matrix operation as it is issued: its bank, its operands A and B, its kind (R132, R134, R143, R147). -/
def stageMatrix (kind : ArrayKind) (d a b : Code) (ha hb : Bool) (lenA lenB : Nat) (z : Bool) (sel core : Nat) (s : State)
    (t : Task) : Staged :=
  let oa := matrixOper s core t a ha 0 16 lenA 2
  let ob := matrixOper s core t b hb (if !ha && !hb && a == b then 1 else 0) 32 lenB 3
  let base : Staged := { encs := needBank t d.toNat 1, dests := [(.a, d.toNat)] }
  let op : ArrayOp := { arrayOp s t kind d.toNat with z := z, a := oa.2, b := ob.2, sel := sel }
  ((base.and oa.1).and ob.1).and { effects := [.arr op] }

/-- `mma` stages its operation (R147); an FP64 tile needs an even bank and its pair (R138). -/
def stageMma (d a b : Code) (f : MmaFmt) (x y z : Bool) (core : Nat) (s : State) (t : Task) : Staged :=
  let r := stageMatrix (.mma f) d a b x y 192 192 z 0 core s t
  if f = .f64 ∧ !pairHeld t d.toNat then { r with encs := r.encs ++ undef 0x31 d.toNat 1 } else r

/-- `mma` (R147). -/
def execMma (st : Bool) (d a b : Code) (f : MmaFmt) (x y z : Bool) (s : State) : Host.Outcome State Fault Refusal :=
  finishSlot 4 0x41 st (stageMma d a b f x y z) s

/-- `mma.sp` stages its operation (R152). -/
def stageMmaSp (d a b : Code) (f : SpFmt) (q : BitVec 3) (k : Bool) (core : Nat) (s : State) (t : Task) : Staged :=
  let sel := selectBytes t q.toNat
  let r := stageMatrix (.sparse f) d a b false k 384 192 false sel core s t
  let bad := (badSelect sel).map fun p => ({ cause := .illegalSelect, word := BitVec.ofNat 64 (p.1 + p.2 * 2 ^ 8) } : TrapInfo)
  { r with fault := r.fault.or bad }

/-- `mma.sp` (R152). -/
def execMmaSp (st : Bool) (d a b : Code) (f : SpFmt) (q : BitVec 3) (k : Bool) (s : State) :
    Host.Outcome State Fault Refusal :=
  finishSlot 4 0x42 st (stageMmaSp d a b f q k) s

/-- `mma.t3` stages its operation (R153). -/
def stageMmaT3 (d a b : Code) (z k : Bool) (core : Nat) (s : State) (t : Task) : Staged :=
  stageMatrix .ternary d a b false k 192 64 z 0 core s t

/-- `mma.t3` (R153). -/
def execMmaT3 (st : Bool) (d a b : Code) (z k : Bool) (s : State) : Host.Outcome State Fault Refusal :=
  finishSlot 4 0x43 st (stageMmaT3 d a b z k) s

/-- `mma.x` stages its operation (R150). -/
def stageMmaX (d a b : Code) (f : XFmt) (x y z : Bool) (core : Nat) (s : State) (t : Task) : Staged :=
  stageMatrix (.scaled f) d a b x y 192 192 z 0 core s t

/-- `mma.x` (R150). -/
def execMmaX (st : Bool) (d a b : Code) (f : XFmt) (x y z : Bool) (s : State) : Host.Outcome State Fault Refusal :=
  finishSlot 4 0x44 st (stageMmaX d a b f x y z) s

/-- `scl` stages its set of edge scale latches (R149). -/
def stageScl (a b : Code) (_ : Nat) (_ : State) (t : Task) : Staged :=
  { encs := srcV t.vcnt a 2 ++ srcV t.vcnt b 3,
    effects := [.scl ((rdV t a .i8).setWidth 768) ((rdV t b .i8).setWidth 1536)] }

/-- `scl` (R149). -/
def execScl (st : Bool) (a b : Code) (s : State) : Host.Outcome State Fault Refusal :=
  finishSlot 4 0x45 st (stageScl a b) s

/-- `sel.ld` stages its select words (R151): those that the translation of its bundle captured, else those read as code
(R371), with requester 0 (R288). -/
def stageSelLd (d : Code) (i : BitVec 18) (core : Nat) (s : State) (t : Task) : Staged :=
  let base : Staged := { encs := inFile 8 d 1, dests := [(.q, d.toNat)] }
  match s.bundle.sel with
  | some v => { base with effects := [.setSel d.toNat (BitVec.ofNat 256 v)] }
  | none =>
    match codeReadIn s { fetchCodeCtx core t with req := 0 } t (slotsFrom s.bundle.addr i) 32 with
    | .error e => { base with fault := some e }
    | .ok r =>
      { base with waits := r.2.2.2.map .answer, fills := r.2.2.1,
                  effects := windowEffects s r.2.1 ++ [.setSel d.toNat (BitVec.ofNat 256 r.1), .captureSel r.1] }

/-- `sel.ld` (R151). -/
def execSelLd (st : Bool) (d : Code) (i : BitVec 18) (s : State) : Host.Outcome State Fault Refusal :=
  finishSettled 4 0x46 st (stageSelLd d i) s

-- Operand rings and streams (R142 to R144, R310). ----------------------------------------------------------------

/-- Whether `n` bytes from an address lie in the near-store window of the task. -/
def spanInWindow (s : State) (core : Nat) (t : Task) (va : W64) (n : Nat) : Bool :=
  inNear va && decide (va.toNat - nearBase + n ≤ nearSize s t.gid core)

/-- `rdesc` stages its descriptor (R142); it is ordered as a store (R327). -/
def stageRdesc (d a b : Code) (core : Nat) (s : State) (t : Task) : Staged :=
  let base := rdG core t a
  let g := rdG core t b
  let size := bitsOf g.toNat 0 16
  let count := bitsOf g.toNat 16 16
  let bad : Option TrapInfo :=
    if g = 0 then none
    else if base.toNat % 256 ≠ 0 ∨ size % 256 ≠ 0 then some (misaligned 256 base)
    else if g.toNat ≥ 2 ^ 32 ∨ count = 0 ∨ size = 0 ∨ size > 16384 ∨ !spanInWindow s core t base (size * count) then
      some (engineBounds 0x10 d.toNat)
    else none
  let r : Ring := if g = 0 then {} else { base := base.toNat, size := size, count := count }
  { encs := inFile 16 d 1 ++ srcG a 2 ++ srcG b 3, dests := [(.n, d.toNat)],
    fault := faultAfter s core t (.ringIdle d.toNat) bad, waits := .ringIdle d.toNat :: accessWaits s t true [],
    effects := [.setRing d.toNat r] }

/-- `rdesc` (R142). -/
def execRdesc (st : Bool) (d a b : Code) (s : State) : Host.Outcome State Fault Refusal :=
  finishSettled 4 0x47 st (stageRdesc d a b) s

/-- `rpop` stages its pop (R144). -/
def stageRpop (d : Code) (_ : Nat) (_ : State) (t : Task) : Staged :=
  { encs := inFile 16 d 1, dests := [(.n, d.toNat)],
    fault := faultIf ((t.ring d.toNat).size == 0) (engineBounds 0x11 d.toNat), waits := [.ringFull d.toNat 1],
    effects := [.popRing d.toNat] }

/-- `rpop` (R144). -/
def execRpop (st : Bool) (d : Code) (s : State) : Host.Outcome State Fault Refusal :=
  finishSlot 4 0x47 st (stageRpop d) s

/-- The word of `rstat` (R144). -/
def ringWord (r : Ring) (filling : Bool) : Nat :=
  r.full + r.head * 2 ^ 16 + r.tail * 2 ^ 32 + (if filling then 2 ^ 48 else 0) + (if r.size = 0 then 0 else 2 ^ 49)

/-- `rstat` stages its result (R144). -/
def stageRstat (d a : Code) (core : Nat) (s : State) (t : Task) : Staged :=
  let r := t.ring a.toNat
  let filling := r.resv != [] || targeted s (taskKey core s.bundle.slot) 3 a.toNat
  { encs := dstG d 1 ++ inFile 16 a 2, dests := destG d, effects := wrG d latNext (BitVec.ofNat 64 (ringWord r filling)) }

/-- `rstat` (R144). -/
def execRstat (st : Bool) (d a : Code) (s : State) : Host.Outcome State Fault Refusal :=
  finishSlot 4 0x47 st (stageRstat d a) s

/-- `zdesc` stages its descriptor (R310); it is ordered as a store (R327). -/
def stageZdesc (d a b : Code) (core : Nat) (s : State) (t : Task) : Staged :=
  let base := rdG core t a
  let g := rdG core t b
  let size := bitsOf g.toNat 0 32
  let bad : Option TrapInfo :=
    if g = 0 then none
    else if base.toNat % 256 ≠ 0 ∨ size % 256 ≠ 0 then some (misaligned 256 base)
    else if g.toNat ≥ 2 ^ 32 ∨ size = 0 ∨ size > 65536 ∨ !spanInWindow s core t base size then
      some (engineBounds 0x14 d.toNat)
    else none
  let z : Stream := if g = 0 then {} else { base := base.toNat, size := size }
  { encs := inFile 16 d 1 ++ srcG a 2 ++ srcG b 3, dests := [(.z, d.toNat)],
    fault := faultAfter s core t (.streamIdle d.toNat) bad, waits := .streamIdle d.toNat :: accessWaits s t true [],
    effects := [.setStream d.toNat z] }

/-- `zdesc` (R310). -/
def execZdesc (st : Bool) (d a b : Code) (s : State) : Host.Outcome State Fault Refusal :=
  finishSettled 4 0x47 st (stageZdesc d a b) s

-- Write-back (R154, R155). ---------------------------------------------------------------------------------------

/-- `wb` stages its operation (R154, R155). -/
def stageWb (d a b : Code) (f : WbFmt) (p : Bool) (r : PruneKind) (core : Nat) (s : State) (t : Task) : Staged :=
  let va := rdG core t a
  let st := rdG core t b
  let base : Staged :=
    { encs := needBank t d.toNat 1 ++ (if f = .f64 ∧ !pairHeld t d.toNat then undef 0x31 d.toNat 1 else []) ++ srcG a 2 ++
        srcG b 3 }
  if va.toNat % 32 ≠ 0 then { base with fault := some (misaligned 32 va) }
  else if st.toNat % 32 ≠ 0 then { base with fault := some (misaligned 32 (va + st)) }
  else
    match placeAll s { slotCtx core t with slotL := false } .write (wbRows va st (32 * wbBytes f)) with
    | .error e => { base with fault := some e }
    | .ok q =>
      match peerFault s (some va) q.1 with
      | some e => { base with fault := some e, fills := q.2 }
      | none =>
        let op := arrayOp s t (.wb f (if p then some r else none) (q.1.map fun x => (x.1, x.2.1))) d.toNat
        let strong := q.1.any fun x => leafStrong x.2.2
        { base with fills := q.2, waits := if strong && writesOut s t.uid then [.outside] else [],
                    effects := [.arr { op with a := { src := .handle va st.toNat, rows := 16, len := 32 * wbBytes f, data := some 0 },
                                               strong := strong }] }

/-- `wb` (R154). -/
def execWb (st : Bool) (d a b : Code) (f : WbFmt) (p : Bool) (r : PruneKind) (s : State) :
    Host.Outcome State Fault Refusal :=
  finishSlot 4 0x48 st (stageWb d a b f p r) s

end Sys2Proof.Machine
end

