-- ==== Sys2Proof/Machine/Sync.lean ====
section
/-! DEFINITION. Flags, barriers, fences, acquire and release accesses, `cwait` and `lnch` (11 R207, R219, R221, 12 R225 to
R243, 15 R277, R278). -/

namespace Sys2Proof.Machine

-- Flags (R226 to R230). ------------------------------------------------------------------------------------------

/-- The count of `fwait`, `fpost` and `cwait`: u(g(A)) + I12 (R46). -/
def countOf (core : Nat) (t : Task) (a : Code) (i : BitVec 12) : Nat := (rdG core t a).toNat + i.toNat

/-- `fwait` stages its wait (R227); OVF is tested before the wait begins, not while the task stands among the waiters. -/
def stageFwait (d a : Code) (i : BitVec 12) (core : Nat) (s : State) (t : Task) : Staged :=
  let n := countOf core t a i
  let f := d.toNat
  let base : Staged := { encs := inFile 32 d 1 ++ srcG a 2, dests := [(.f, f)] }
  if n > 2 ^ 32 - 1 then { base with fault := some (countOverflow f n false) }
  else if n = 0 then { base with effects := [.clearOvf f] }
  else if ((s.core core).flag f).ovf && !(s.core core).waiters.contains (f, s.bundle.slot) then { base with fault := some (countOverflow f 0 true) }
  else { base with waits := [.flag f n], effects := [.take f n] }

/-- `fwait` (R227). -/
def execFwait (st : Bool) (d a : Code) (i : BitVec 12) (s : State) : Host.Outcome State Fault Refusal :=
  finishSlot 5 0x50 st (stageFwait d a i) s

/-- `fpost` stages its post (R228). -/
def stageFpost (d a : Code) (i : BitVec 12) (core : Nat) (_ : State) (t : Task) : Staged :=
  let n := countOf core t a i
  let base : Staged := { encs := inFile 32 d 1 ++ srcG a 2, dests := [(.f, d.toNat)] }
  if n > 2 ^ 32 - 1 then { base with fault := some (countOverflow d.toNat n false) }
  else { base with waits := releaseWaits t, effects := [.post d.toNat n] }

/-- `fpost` (R228). -/
def execFpost (st : Bool) (d a : Code) (i : BitVec 12) (s : State) : Host.Outcome State Fault Refusal :=
  finishSettled 5 0x51 st (stageFpost d a i) s

/-- `fpostr` stages its post (R229). -/
def stageFpostr (d a b : Code) (core : Nat) (s : State) (t : Task) : Staged :=
  let c := (rdG core t a).toNat
  let n := (rdG core t b).toNat
  let base : Staged := { encs := inFile 32 d 1 ++ srcG a 2 ++ srcG b 3, dests := [(.f, d.toNat)] }
  if c > 511 ∨ (s.core c).serves ≠ some t.launch then
    { base with fault := some { cause := .permission, word := BitVec.ofNat 64 c } }
  else if n > 2 ^ 32 - 1 then { base with fault := some (countOverflow d.toNat n false) }
  else { base with waits := releaseWaits t, effects := [if c = core then .post d.toNat n else .postRemote c d.toNat n] }

/-- `fpostr` (R229). -/
def execFpostr (st : Bool) (d a b : Code) (s : State) : Host.Outcome State Fault Refusal :=
  finishSettled 5 0x52 st (stageFpostr d a b) s

-- Named barriers (R231 to R238). ---------------------------------------------------------------------------------

/-- The first check of R232: *permission* for a handle that names no barrier of the group. -/
def handleFault (s : State) (t : Task) (h : W64) : Option TrapInfo :=
  faultIf (decide (h.toNat ≥ (s.groupOf t).barriers.length ∨ h.toNat ≥ 512))
    { cause := .permission, word := BitVec.ofNat 64 (h.toNat % 2 ^ 16) }

/-- Whether the barrier events of a task are judged with those of its gang's step, once every member has finished its bundle
(R233, R244). A task that issues on its own shares its cycle with no member. -/
def meetsMates (s : State) (t : Task) : Bool := s.cadenced t && !catchingUp s t.gid

/-- The object code of barrier `b` (R240). -/
def barObj (b : Nat) : Nat := 0x1000 + b

/-- `bar.init` stages its event (R234). -/
def stageBarInit (a b : Code) (core : Nat) (s : State) (t : Task) : Staged :=
  let h := rdG core t a
  let n := (rdG core t b).toNat
  { encs := srcG a 2 ++ srcG b 3,
    fault := (handleFault s t h).or (faultIf (decide (n = 0 ∨ n > 65535)) (countOverflow (barObj h.toNat) n false)),
    waits := releaseWaits t, effects := [.barInit h.toNat n] }

/-- `bar.init` (R234). -/
def execBarInit (st : Bool) (a b : Code) (s : State) : Host.Outcome State Fault Refusal :=
  finishSettled 5 0x53 st (stageBarInit a b) s

/-- The arrivals that the home core counts with one that comes next (R233, R235). -/
def arrivedWith (s : State) (t : Task) (b n : Nat) : Nat :=
  let c := barJoin s t.gid b [] [n] [] []
  (barCycle c.inits [] [] [] c.base).arrived + c.arrivals.sum

/-- The bytes that the home core expects with an expectation that comes next (R233, R236). -/
def expectedWith (s : State) (t : Task) (b n : Nat) : Nat := (barJoin s t.gid b [] [] [] [n]).outcome.pending

/-- `bar.arrive` stages its event (R235). -/
def stageBarArrive (d a b : Code) (core : Nat) (s : State) (t : Task) : Staged :=
  let h := rdG core t a
  let n := (rdG core t b).toNat
  { encs := dstG d 1 ++ srcG a 2 ++ srcG b 3, dests := destG d,
    fault := (handleFault s t h).or (faultIf (decide (n > 65535) || (!meetsMates s t && decide (arrivedWith s t h.toNat n > 65535))) (countOverflow (barObj h.toNat) n false)),
    waits := releaseWaits t, effects := [.barArrive h.toNat n d.toNat] }

/-- `bar.arrive` (R235). -/
def execBarArrive (st : Bool) (d a b : Code) (s : State) : Host.Outcome State Fault Refusal :=
  finishSettled 5 0x53 st (stageBarArrive d a b) s

/-- `bar.expect` stages its event (R236). -/
def stageBarExpect (d a b : Code) (core : Nat) (s : State) (t : Task) : Staged :=
  let h := rdG core t a
  let n := (rdG core t b).toNat
  { encs := dstG d 1 ++ srcG a 2 ++ srcG b 3, dests := destG d,
    fault := (handleFault s t h).or
      (faultIf (decide (n > 2 ^ 40 - 1) || (!meetsMates s t && decide (expectedWith s t h.toNat n > 2 ^ 40 - 1))) (countOverflow (barObj h.toNat) n false)),
    waits := releaseWaits t, effects := [.barExpect h.toNat n d.toNat] }

/-- `bar.expect` (R236). -/
def execBarExpect (st : Bool) (d a b : Code) (s : State) : Host.Outcome State Fault Refusal :=
  finishSettled 5 0x53 st (stageBarExpect d a b) s

/-- *barrier overdrawn* (R237). -/
def overdrawn (b : Nat) (x : Barrier) : TrapInfo :=
  { cause := .barrierOverdrawn, word := BitVec.ofNat 64 (b + x.excess * 2 ^ 24) }

/-- `bar.wait` stages its wait (R237). -/
def stageBarWait (a b : Code) (core : Nat) (s : State) (t : Task) : Staged :=
  let h := rdG core t a
  let x := (s.groupOf t).barrier h.toNat
  { encs := srcG a 2 ++ srcG b 3, fault := (handleFault s t h).or (faultIf x.ovr (overdrawn h.toNat x)),
    waits := [.barrier h.toNat ((rdG core t b).toNat % 2 ^ 32)] }

/-- `bar.wait` (R237). -/
def execBarWait (st : Bool) (a b : Code) (s : State) : Host.Outcome State Fault Refusal :=
  finishSlot 5 0x53 st (stageBarWait a b) s

/-- `bar.test` stages its result (R238). -/
def stageBarTest (d a b : Code) (core : Nat) (s : State) (t : Task) : Staged :=
  let h := rdG core t a
  let x := (s.groupOf t).barrier h.toNat
  { encs := inFile 8 d 1 ++ srcG a 2 ++ srcG b 3, dests := [(.c, d.toNat)], fault := handleFault s t h,
    effects := wrC d.toNat latNext (phaseDone x.phase ((rdG core t b).toNat % 2 ^ 32)) }

/-- `bar.test` (R238). -/
def execBarTest (st : Bool) (d a b : Code) (s : State) : Host.Outcome State Fault Refusal :=
  finishSlot 5 0x53 st (stageBarTest d a b) s

-- Fences, acquire loads, release stores (R277, R278). ------------------------------------------------------------

/-- What an ordering operation of a scope waits for: at system scope, the accesses of its task to apertures (R279). Every
other access of a task is performed when its bundle commits. -/
def orderWaits (c : Scope) : List Wait := if c = .system then [.outside] else []

/-- `fence` stages its waits (R277). -/
def stageFence (_ : FenceKind) (c : Scope) (_ : Nat) (_ : State) (t : Task) : Staged :=
  { waits := orderWaits c ++ releaseWaits t }

/-- `fence` (R277). -/
def execFence (st : Bool) (k : FenceKind) (c : Scope) (s : State) : Host.Outcome State Fault Refusal :=
  finishSettled 5 0x55 st (stageFence k c) s

/-- `ld.acq` stages its result (R278). -/
def stageLdAcq (d a b : Code) (w : Width) (c : Scope) (core : Nat) (s : State) (t : Task) : Staged :=
  let ea := addrRr core t a b 0
  let n := widthBytes w
  let r := readStaged s core t ea n (orderedPlace s core t .read n ea)
  ({ encs := dstG d 1 ++ srcG a 2 ++ srcG b 3, dests := destG d, waits := orderWaits c,
     effects := wrG d latNext (extended w r.2.1) } : Staged).and r.1

/-- `ld.acq` (R278). -/
def execLdAcq (st : Bool) (d a b : Code) (w : Width) (c : Scope) (s : State) : Host.Outcome State Fault Refusal :=
  finishSettled 5 0x56 st (stageLdAcq d a b w c) s

/-- `st.rel` stages its store (R278). -/
def stageStRel (d a b : Code) (w : ITy) (c : Scope) (core : Nat) (s : State) (t : Task) : Staged :=
  let ea := addrRr core t a b 0
  let n := ityBytes w
  let r := writeStaged s core t ea n (orderedPlace s core t .write n ea) ((rdG core t d).toNat % 256 ^ n)
  ({ encs := srcG d 1 ++ srcG a 2 ++ srcG b 3, waits := orderWaits c ++ releaseWaits t } : Staged).and r

/-- `st.rel` (R278). -/
def execStRel (st : Bool) (d a b : Code) (w : ITy) (c : Scope) (s : State) : Host.Outcome State Fault Refusal :=
  finishSettled 5 0x57 st (stageStRel d a b w c) s

-- `cwait` and `lnch` (R207, R219, R221). -------------------------------------------------------------------------

/-- Whether the bundle of a task is already waiting for a count of the time-step counter. -/
def waitsCadence (t : Task) (n : Nat) : Bool := match t.stall with | some st => st.waits.contains (.cadence n) | none => false

/-- `cwait` stages its wait (R221): the lead of a cadenced gang alone judges it. -/
def stageCwait (a : Code) (i : BitVec 12) (core : Nat) (s : State) (t : Task) : Staged :=
  let base : Staged := { encs := srcG a 2 }
  if !s.cadenced t ∨ t.i0 ≠ 0 then base
  else
    let n := (s.groupOf t).origin.getD 0 + countOf core t a i
    if s.regs.tsc > n ∧ !waitsCadence t n then
      { base with fault := some { cause := .waitTimeout, word := BitVec.ofNat 64 (0xFFFE + (s.regs.tsc - n) * 2 ^ 32) } }
    else { base with waits := [.cadence n] }

/-- `cwait` (R221). -/
def execCwait (st : Bool) (a : Code) (i : BitVec 12) (s : State) : Host.Outcome State Fault Refusal :=
  finishSlot 5 0x58 st (stageCwait a i) s

/-- `lnch` stages its packet (R207); of a gang the lead performs it (R219). -/
def stageLnch (a b : Code) (core : Nat) (s : State) (t : Task) : Staged :=
  let base : Staged := { encs := srcG a 2 ++ srcG b 3 }
  let va := rdG core t a
  let q := (rdG core t b).toNat
  if s.cadenced t ∧ t.i0 ≠ 0 then base
  else if q ≥ queueCount ∨ !queueDev s q then
    { base with fault := some { cause := .permission, word := BitVec.ofNat 64 q, target := some va } }
  else
    let r := orderedPlace s core t .read 128 va
    let x := loadStaged s t va r
    (base.and { x with waits := x.waits ++ touchWaits s t false r }).and
      { waits := .queueRoom q :: releaseWaits t, effects := [.launch q (loadValue s t r)] }

/-- `lnch` (R207). -/
def execLnch (st : Bool) (a b : Code) (s : State) : Host.Outcome State Fault Refusal :=
  finishSettled 5 0x59 st (stageLnch a b) s

end Sys2Proof.Machine
end

