-- ==== Sys2Proof/Machine/SolveSlots.lean ====
section
/-! DEFINITION. Solve regions and the Burnisher (10 R183 to R199, 11 R222, 12 R245). -/

namespace Sys2Proof.Machine

-- Arithmetic at 61 bits (R191). ----------------------------------------------------------------------------------

/-- The sum of two values rounded to odd at 61 bits. -/
def add61 (a b : Fv) : Fv := fvOdd 61 (fvAdd a b).1
/-- The difference of two values rounded to odd at 61 bits. -/
def sub61 (a b : Fv) : Fv := add61 a (fvNeg b)
/-- The product of two values rounded to odd at 61 bits. -/
def mul61 (a b : Fv) : Fv := fvNode 61 (fvMul a b).1

/-- The quotient of two values rounded to odd at 61 bits. -/
def div61 : Fv → Fv → Fv
  | .nan _, _ => .nan false
  | _, .nan _ => .nan false
  | .inf _, .inf _ => .nan false
  | .inf n, .fin d => .inf (n != d.neg)
  | .fin _, .inf _ => .fin dyZero
  | .fin a, .fin b =>
    if b.man = 0 then (if a.man = 0 then .nan false else .inf (a.neg != b.neg))
    else
      let k := 66 + Nat.log2 b.man
      let q := a.man * 2 ^ k / b.man
      fvNode 61 (.fin { neg := a.neg != b.neg, man := sticky q (a.man * 2 ^ k % b.man == 0), exp := a.exp - b.exp - (k : Int) - 1 })

/-- The square root of a value that is not below zero, rounded to odd at 61 bits. -/
def sqrt61 : Fv → Fv
  | .fin d => if d.man = 0 then .fin dyZero else if d.neg then .nan false else fvNode 61 (.fin (dySqrt 61 d))
  | .inf n => if n then .nan false else .inf false
  | .nan _ => .nan false

/-- Whether a value is zero. -/
def isZero : Fv → Bool
  | .fin d => d.man == 0
  | _ => false

/-- Whether a value is finite. -/
def isFinite : Fv → Bool
  | .fin _ => true
  | _ => false

/-- The tree of R70 at 61 bits, with no final rounding. -/
def tree61 (l : List Fv) : Fv := (treeRoot add61 11 (l.map some)).getD (.fin dyZero)

/-- dot61 (R191). -/
def dot61 (a b : List Fv) : Fv := tree61 (List.zipWith mul61 a b)

/-- gang_sum over the leaves of the members, in member order (R192, R222). -/
def gangSum (l : List (List Fv)) : Fv := tree61 (l.map tree61)

-- The carried set and the history store (R185). ------------------------------------------------------------------

/-- CEIL (R186). -/
def solveCeil (v : Solve) : Nat := bitsOf v.ctl.toNat 16 16
/-- β (R186). -/
def solveBeta (v : Solve) : Fv := fvOf .f32 (bitsOf v.mix.toNat 0 32)
/-- λ (R186). -/
def solveLambda (v : Solve) : Fv := fvOf .f32 (bitsOf v.mix.toNat 32 32)

/-- The X slot of iterate `k`. -/
def xSlot (v : Solve) (k : Nat) : Nat := k % (solveDepth v + 1)
/-- The R slot of residual `k`. -/
def rSlot (v : Solve) (k : Nat) : Nat := solveDepth v + 1 + k % (solveDepth v + 1)

/-- The carried set: its elements in bank-then-element order. -/
def carriedElems (t : Task) : List Nat :=
  (List.range (512 * solveBanks t.slv)).map fun e => accElem (t.bank (solveFirst t.slv + e / 512)) (e % 512)

/-- The elements of a column. -/
def columnElems (v : Solve) (hist : Vector Bank 64) (slot : Nat) : List Nat :=
  (List.range (512 * solveBanks v)).map fun e => accElem (hist[solveBanks v * slot + e / 512]?.getD 0) (e % 512)

/-- The values of FP32 elements. -/
def values32 (l : List Nat) : List Fv := l.map (fvOf .f32)

/-- The banks of a list of elements. -/
def banksOfElems (n : Nat) (l : List Nat) : List Bank :=
  (List.range n).map fun b => BitVec.ofNat 16384 (packElems 4 (fun e => l.getD (512 * b + e) 0) 512)

/-- The effects of writing a column. -/
def writeColumn (v : Solve) (slot : Nat) (l : List Bank) : List Effect :=
  l.zipIdx.map fun p => .histWrite (solveBanks v * slot + p.2) p.1

/-- *uncorrectable error* for a slot of the history store of a core that is read and holds poison (R414). -/
def histPoison (s : State) (core : Nat) (v : Solve) (slots : List Nat) : Option TrapInfo :=
  faultIf ((s.core core).histBad.any fun n => slots.contains (n / solveBanks v)) { cause := .uncorrectable, word := 0xFF }

/-- The slots of the history store that the next iterate after `p` earlier ones is worked out from (R191). -/
def mixSlots (v : Solve) (p : Nat) : List Nat :=
  (List.range (p + 1)).map (fun j => xSlot v (v.k - j)) ++ (List.range p).map fun j => rSlot v (v.k - 1 - j)

/-- The effects of writing the carried banks. -/
def writeCarried (v : Solve) (l : List Bank) : List Effect := l.zipIdx.map fun p => .bankIs (solveFirst v + p.2) p.1

-- `slv.end` (R190 to R193). --------------------------------------------------------------------------------------

/-- A member as `slv.end` sees it: its task and its core's history store. -/
abbrev Member := Task × Vector Bank 64

/-- The members whose sums meet: those of a cadenced gang in member order, else the task alone (R192). -/
def solveMembers (s : State) (core : Nat) (t : Task) : List Member :=
  if s.cadenced t then
    let l := s.tasksOf t.gid
    (List.range (s.groupOf t).cores.length).filterMap fun i =>
      (l.find? fun e => e.2.i0 == i).map fun e => (e.2, (s.core (e.1 / 4)).hist)
  else [(t, (s.core core).hist)]

/-- The residual of a member's iterate with the flags of its roundings (R190). -/
def residual (m : Member) : List (Nat × BitVec 8) :=
  let v := m.1.slv
  List.zipWith (fSub .f32 false) (carriedElems m.1) (columnElems v m.2 (xSlot v v.k))

/-- The values of residual `a` of a member: the current one, or a column. -/
def residualAt (m : Member) (a : Nat) : List Fv :=
  let v := m.1.slv
  if a = v.k then values32 ((residual m).map (·.1)) else values32 (columnElems v m.2 (rSlot v a))

/-- The values of iterate `a` of a member. -/
def iterateAt (m : Member) (a : Nat) : List Fv := values32 (columnElems m.1.slv m.2 (xSlot m.1.slv a))

/-- Column `j` of ΔR of a member, of `p` columns. -/
def deltaR (p : Nat) (m : Member) (j : Nat) : List Fv :=
  let a := m.1.slv.k - p + j
  List.zipWith sub61 (residualAt m (a + 1)) (residualAt m a)

/-- Column `j` of ΔX of a member. -/
def deltaX (p : Nat) (m : Member) (j : Nat) : List Fv :=
  let a := m.1.slv.k - p + j
  List.zipWith sub61 (iterateAt m (a + 1)) (iterateAt m a)

/-- The norm of the residual over all members (R190). -/
def solveNorm (ms : List Member) : Nat × BitVec 8 :=
  fvTo .f64 .rn false (gangSum (ms.map fun m => (residual m).map fun r => mul61 (fvOf .f32 r.1) (fvOf .f32 r.1)))

/-- Entry (i, j) of G for i ≤ j, with λ on the diagonal (R191). -/
def gramEntry (p : Nat) (ms : List Member) (lam : Fv) (i j : Nat) : Fv :=
  let lo := min i j
  let hi := max i j
  let g := gangSum (ms.map fun m => List.zipWith mul61 (deltaR p m lo) (deltaR p m hi))
  if i = j then add61 g lam else g

/-- A column of the orthogonal factor: none where it is dropped; its coefficients against earlier columns, and its own. -/
abbrev QCol := Option (List Fv) × List Fv × Fv

/-- A vector made orthogonal to earlier columns: what is left, and the coefficients (R191). -/
def orthogonal : List QCol → List Fv → List Fv × List Fv
  | [], v => (v, [])
  | (none, _, _) :: l, v => let r := orthogonal l v; (r.1, .fin dyZero :: r.2)
  | (some q, _, _) :: l, v =>
    let u := dot61 q v
    let r := orthogonal l (List.zipWith (fun x y => sub61 x (mul61 u y)) v q)
    (r.1, u :: r.2)

/-- Modified Gram-Schmidt in fixed column order (R191). -/
def gramSchmidt (cols : List (List Fv)) : List QCol :=
  cols.foldl (fun (done : List QCol) c =>
    let r := orthogonal done c
    let nn := dot61 r.1 r.1
    let u := sqrt61 nn
    done ++ [if isZero nn then (none, r.2, .fin dyZero) else (some (r.1.map fun x => div61 x u), r.2, u)]) []

/-- Back substitution from the last column: γ of the columns from `j` on, given those after it (R191). -/
def backSubst (qs : List QCol) (th : List Fv) : Nat → List Fv → List Fv
  | 0, gam => gam
  | j + 1, gam =>
    let x : Fv := match qs[j]? with
      | some (some _, _, u) =>
        let s := gam.zipIdx.foldl (fun s g =>
          let uji := match qs[j + 1 + g.2]? with | some q => q.2.1.getD j (.fin dyZero) | none => .fin dyZero
          sub61 s (mul61 uji g.1)) (th.getD j (.fin dyZero))
        div61 s u
      | _ => .fin dyZero
    backSubst qs th j (x :: gam)

/-- γ (R191). -/
def solveGamma (p : Nat) (ms : List Member) (lam : Fv) : List Fv :=
  let qs := gramSchmidt ((List.range p).map fun j => (List.range p).map fun i => gramEntry p ms lam i j)
  let h := (List.range p).map fun i =>
    gangSum (ms.map fun m => List.zipWith mul61 (deltaR p m i) (values32 ((residual m).map (·.1))))
  backSubst qs (orthogonal qs h).2 p []

/-- The next iterate of a member with the flags of its roundings (R191). -/
def nextIterate (p : Nat) (m : Member) (gam : List Fv) : List (Nat × BitVec 8) :=
  let beta := solveBeta m.1.slv
  let cols := (List.range p).map fun j =>
    List.zipWith (fun dx dr => add61 dx (mul61 beta dr)) (deltaX p m j) (deltaR p m j)
  let r := values32 ((residual m).map (·.1))
  (List.zip (iterateAt m m.1.slv.k) r).zipIdx.map fun x =>
    let steps := (List.zip gam cols).map fun g => fvNode 61 (fvNeg (mul61 g.1 (g.2.getD x.2 (.fin dyZero))))
    fvTo .f32 .rn false (tree61 (x.1.1 :: mul61 beta x.1.2 :: steps))

/-- The flags of a list of roundings. -/
def flagsOf (l : List (Nat × BitVec 8)) : BitVec 8 := l.foldl (fun a x => a ||| x.2) 0

/-- *solve numeric* (R193). -/
def solveNumeric (reason k : Nat) : TrapInfo := { cause := .solveNumeric, word := BitVec.ofNat 64 (reason + k * 2 ^ 32) }

/-- What `slv.end` comes to once its waits are met (R190, R191, R193); `nt` is `.nt`. -/
def solveStep (s : State) (core : Nat) (t : Task) (d : Nat) (nt : Bool) : Staged :=
  let v := t.slv
  let ms := solveMembers s core t
  let me : Member := (t, (s.core core).hist)
  let r := residual me
  let nrm := solveNorm ms
  let nv := fvOf .f64 nrm.1
  let tau := fvOf .f64 v.tau.toNat
  let done : Solve := { v with code := .ready, kk := v.kk + 1, norm := BitVec.ofNat 64 nrm.1 }
  let column := writeColumn v (rSlot v v.k) (banksOfElems (solveBanks v) (r.map (·.1)))
  let flags := flagsOf r ||| nrm.2
  match nv with
  | .nan _ => { fault := (histPoison s core v [xSlot v v.k]).or (some (solveNumeric 1 v.k)) }
  | _ =>
    if (histPoison s core v [xSlot v v.k]).isSome then { fault := histPoison s core v [xSlot v v.k] }
    else if fvLt nv tau || fvEq nv tau then
      { effects := column ++ wrC d latNext true ++ [.solve done, .lateFlags flags.toNat] }
    else if v.k + 1 = solveCeil v then
      if nt then { effects := column ++ wrC d latNext false ++ [.solve done, .lateFlags flags.toNat] }
      else { fault := some { cause := .solveCeiling, word := BitVec.ofNat 64 nrm.1 } }
    else
      let p := min v.k (solveDepth v)
      if (histPoison s core v (mixSlots v p)).isSome then { fault := histPoison s core v (mixSlots v p) }
      else
      let gam := solveGamma p ms (solveLambda v)
      if gam.any fun g => !isFinite g then { fault := some (solveNumeric 2 v.k) }
      else
        let x := nextIterate p me gam
        let next : Solve := { done with code := .looping, k := v.k + 1, p := p }
        { effects := column ++ wrC d latNext false ++ writeCarried v (banksOfElems (solveBanks v) (x.map (·.1))) ++
            [.solve next, .lateFlags (flags ||| flagsOf x).toNat, .jump v.start] }

/-- Whether a bundle holds a control slot (R189). -/
def holdsControl (b : Bundle) : Bool := b.code.any fun w => w / 2 ^ 28 % 8 == 1

/-- `slv.end` stages its step (R189, R190, R245). -/
def stageSlvEnd (d : Code) (nt : Bool) (core : Nat) (s : State) (t : Task) : Staged :=
  let base : Staged := { encs := inFile 8 d 1, dests := [(.c, d.toNat)] }
  let waits : List Wait := .carried (solveFirst t.slv) (solveBanks t.slv) :: (if s.cadenced t then [.gangRoots] else [])
  if t.loops ≠ [] then { base with fault := some (solveMisuse t 0x09 0) }
  else if holdsControl s.bundle then { base with fault := some (solveMisuse t 0x0A 0) }
  else if t.slv.code ≠ .opened then { base with fault := some (solveMisuse t 0x08 0) }
  else if (waits.any fun w => !waitMet s core s.bundle.slot t w) then { base with waits := waits }
  else (base.and (solveStep s core t d.toNat nt)).and { waits := waits }

/-- `slv.end` (R190). -/
def execSlvEnd (st : Bool) (d : Code) (n : Bool) (s : State) : Host.Outcome State Fault Refusal :=
  finishSettled 5 0x54 st (stageSlvEnd d n) s

-- The other solve instructions. ----------------------------------------------------------------------------------

/-- The lowest bit of an invalid field of the control word (R187, R196). -/
def ctlBad (w : Nat) : Option Nat :=
  if bitsOf w 8 4 > 8 then some 8
  else if bitsOf w 12 4 ≠ 0 then some 12
  else if bitsOf w 16 16 = 0 then some 16
  else if w / 2 ^ 32 ≠ 0 then some 32
  else none

/-- The lowest bit of an invalid field of the mixing word: β not finite; λ negative, NaN or infinite (R187, R196). -/
def mixBad (w : Nat) : Option Nat :=
  if !isFinite (fvOf .f32 (bitsOf w 0 32)) then some 0
  else
    match fvOf .f32 (bitsOf w 32 32) with
    | .fin d => if d.neg && d.man != 0 then some 32 else none
    | _ => some 32

/-- The first reason for which `slv.cfg` is refused (R187). -/
def cfgMisuse (t : Task) (ctl mix : W64) : Option TrapInfo :=
  let new : Solve := { ctl := ctl }
  if solveRuns t then some (solveMisuse t 0x01 0)
  else
    match ctlBad ctl.toNat with
    | some b => some (solveMisuse t 0x02 b)
    | none =>
      if 2 * (solveDepth new + 1) * solveBanks new > 64 then some (solveMisuse t 0x03 0)
      else if (List.range (solveBanks new)).any fun i => !t.holds (solveFirst new + i) then some (solveMisuse t 0x04 0)
      else (mixBad mix.toNat).map fun b => solveMisuse t 0x05 b

/-- `slv.cfg` stages its configuration (R184, R186, R187). -/
def stageSlvCfg (d a b : Code) (core : Nat) (_ : State) (t : Task) : Staged :=
  let ctl := rdG core t a
  let mix := rdG core t b
  { encs := srcG d 1 ++ srcG a 2 ++ srcG b 3, fault := cfgMisuse t ctl mix,
    waits := if t.slv.code = .idle then [.history] else [],
    effects := [.histTake, .solve { code := .ready, tau := rdG core t d, ctl := ctl, mix := mix }] }

/-- `slv.cfg` (R186). -/
def execSlvCfg (st : Bool) (d a b : Code) (s : State) : Host.Outcome State Fault Refusal :=
  finishSlot 5 0x54 st (stageSlvCfg d a b) s

/-- `slv.beg` stages its copy of the carried set (R188, R189). -/
def stageSlvBeg (_ : Nat) (s : State) (t : Task) : Staged :=
  let v := t.slv
  let open' (u : Solve) : Staged :=
    { waits := bankWaits t (solveFirst v) (solveBanks v),
      effects := writeColumn u (xSlot u u.k) (banksOfElems (solveBanks u) (carriedElems t)) ++ [.solve u] }
  if t.loops ≠ [] then { fault := some (solveMisuse t 0x09 0) }
  else
    match v.code with
    | .idle => { fault := some (solveMisuse t 0x06 0) }
    | .opened => { fault := some (solveMisuse t 0x07 0) }
    | .ready => open' { v with code := .opened, start := s.bundle.addr, k := 0, kk := 0, p := 0 }
    | .looping =>
      if s.bundle.addr = v.start then open' { v with code := .opened } else { fault := some (solveMisuse t 0x07 0) }

/-- `slv.beg` (R188). -/
def execSlvBeg (st : Bool) (s : State) : Host.Outcome State Fault Refusal := finishSettled 5 0x54 st stageSlvBeg s

/-- The items of `slv.norm` (R197). -/
def normItem (v : Solve) (n : Nat) : W64 :=
  match n with
  | 0 => v.norm
  | 1 => v.tau
  | 2 => BitVec.ofNat 64 (slvCode v.code + v.p % 16 * 4 + v.kk % 2 ^ 16 * 2 ^ 16)
  | 3 => v.start
  | _ => 0

/-- `slv.norm` stages its result (R197). -/
def stageSlvNorm (d a : Code) (core : Nat) (_ : State) (t : Task) : Staged :=
  { encs := dstG d 1 ++ srcG a 2, dests := destG d, effects := wrG d latNext (normItem t.slv (rdG core t a).toNat) }

/-- `slv.norm` (R197). -/
def execSlvNorm (st : Bool) (d a : Code) (s : State) : Host.Outcome State Fault Refusal :=
  finishSlot 5 0x54 st (stageSlvNorm d a) s

/-- Whether a task holds the slice of a column that two numbers name (R198). -/
def histInside (v : Solve) (slot sl : Nat) : Bool :=
  v.code != .idle && decide (slot < 2 * (solveDepth v + 1)) && decide (sl < 8 * solveBanks v)

/-- A slice of a column; zero beyond the columns and their slices, and for a task that does not hold the store (R198). -/
def histSlice (v : Solve) (hist : Vector Bank 64) (slot sl : Nat) : VReg :=
  if !histInside v slot sl then 0
  else slice (hist[solveBanks v * slot + sl / 8]?.getD 0) (sl % 8)

/-- `slv.hist` stages its result (R198). -/
def stageSlvHist (d a b : Code) (core : Nat) (s : State) (t : Task) : Staged :=
  { encs := dstV t.vcnt d 1 ++ srcG a 2 ++ srcG b 3, dests := destV d,
    fault := if histInside t.slv (rdG core t a).toNat (rdG core t b).toNat then histPoison s core t.slv [(rdG core t a).toNat] else none,
    effects := wrV d latNext allLanes (histSlice t.slv (s.core core).hist (rdG core t a).toNat (rdG core t b).toNat) }

/-- `slv.hist` (R198). -/
def execSlvHist (st : Bool) (d a b : Code) (s : State) : Host.Outcome State Fault Refusal :=
  finishSlot 5 0x54 st (stageSlvHist d a b) s

/-- `slv.abort` stages the end of the solve (R194). -/
def stageSlvAbort (_ : Nat) (_ : State) (t : Task) : Staged :=
  if t.slv.code = .idle then {} else { effects := [.solve { t.slv with code := .idle }, .histGive] }

/-- `slv.abort` (R194). -/
def execSlvAbort (st : Bool) (s : State) : Host.Outcome State Fault Refusal := finishSlot 5 0x54 st stageSlvAbort s

end Sys2Proof.Machine
end

