-- ==== Sys2Proof/Machine/EngineSlots.lean ====
section
/-! DEFINITION. Engine commands, collectives, publishing, and the status of channels (17 R297 to R325, 23 R401). -/

namespace Sys2Proof.Machine

-- Issuing a command (R304, R311 to R315). ------------------------------------------------------------------------

/-- *engine bounds* for a field at a byte offset, of the descriptor or of the B operand (R304, R305). -/
def fieldBounds (reason off : Nat) (operand : Bool) : TrapInfo := engineBounds reason (off + if operand then 2 ^ 8 else 0)

/-- A load of a 64-byte command descriptor (R304). -/
def readDescriptor (s : State) (core : Nat) (t : Task) (va : W64) : Staged × BitVec 512 :=
  let r := orderedPlace s core t .read 64 va
  let x := loadStaged s t va r
  ({ x with waits := x.waits ++ touchWaits s t false r }, BitVec.ofNat 512 (loadValue s t r))

/-- The size of an element of a collective's type code (R40, R315); none for a code it does not allow. -/
def collTypeSize : Nat → Option Nat
  | 2 => some 4 | 3 => some 8 | 4 => some 2 | 5 => some 2 | 6 => some 4 | 7 => some 8 | _ => none

/-- The first broken condition of a collective's handle: reason and byte offset (R315, R401). -/
def handleBad (s : State) (t : Task) (c : Cmd) : Option (Nat × Nat) :=
  if bitsOf c.bop.toNat 37 11 ≠ 0 then some (1, 4)
  else if collTypeSize (collType c) ≠ some (dstSize c.desc) then some (7, 4)
  else if bitsOf (collMask c) t.i0 1 ≠ 1 ∨ collMask c ≥ 2 ^ groupSize (s.groupOf t) then some (7, 0)
  else if collGroup c ≠ 0 ∧ !collEntryOk s (collGroup c) then some (7, 6)
  else none

/-- The first condition of R304 that a command breaks, in its order. -/
def cmdFault (s : State) (t : Task) (c : Cmd) : Option TrapInfo :=
  let d := c.desc
  let body := bodyBytes c
  let lands := landBytes s c
  match cmdMisaligned d c.op with
  | some (o, al) =>
    some { cause := .misaligned, word := BitVec.ofNat 64 (al + o * 2 ^ 32), target := some c.dva }
  | none =>
    if c.op = 0x4B ∧ c.bop.toNat % 4 ≠ 0 then some (misaligned 4 c.bop)
    else
      let inDesc := cmdBounds s t d c.op (if c.op = 0x4C then lands else bodies d * body) body
      let inHandle := if c.op = 0x4C then handleBad s t c else none
      match inDesc, inHandle with
      | some p, some h => some (if h.1 < p.1 then fieldBounds h.1 h.2 true else fieldBounds p.1 p.2 false)
      | some p, none => some (fieldBounds p.1 p.2 false)
      | none, some h => some (fieldBounds h.1 h.2 true)
      | none, none => (cmdOverlap d lands).map fun n => { cause := .engineOverlap, word := BitVec.ofNat 64 n }

/-- An engine command as a slot issues it on channel `ch` (R297, R304), once every earlier access of its task is performed (R276
note 7): `follow` is the captured follow-on of `cpy.mm`, and
`word` the fault of its command word, which comes before steps 3 to 5 of R304 (R328). -/
def stageCmd (op : Nat) (bank : Nat) (follow : Option Follow) (word : Option TrapInfo) (a b : Code) (ch : Bool) (core : Nat) (s : State) (t : Task) :
    Staged :=
  let va := rdG core t a
  let bop := rdG core t b
  let r := readDescriptor s core t va
  let base : Staged := ({ encs := srcG a 2 ++ srcG b 3 } : Staged).and r.1
  if r.1.fault.isSome ∨ r.1.waits ≠ [] then base
  else
    let c : Cmd := { desc := if op = 0x49 then withArg r.2 bop else r.2, bop := bop, op := op, bank := bank, follow := follow,
                     uid := t.uid, gid := t.gid, i0 := t.i0, core := core, troot := t.troot, tasid := t.tasid, dva := va,
                     priv := t.sup }
    let n := if ch then 1 else 0
    base.and { fault := word.or (cmdFault s t c), waits := .channelRoom n :: .outside :: releaseWaits t, effects := [.cmd n c] }

/-- `cpy` stages its command (R312). -/
def stageCpy (a b : Code) (k : Bool) (core : Nat) (s : State) (t : Task) : Staged := stageCmd 0x49 0 none none a b k core s t

/-- `cpy` (R312). -/
def execCpy (st : Bool) (a b : Code) (k : Bool) (s : State) : Host.Outcome State Fault Refusal :=
  finishSettled 4 0x49 st (stageCpy a b k) s

/-- `cpyb` stages its command (R314). -/
def stageCpyb (a b : Code) (k : Bool) (core : Nat) (s : State) (t : Task) : Staged := stageCmd 0x4B 0 none none a b k core s t

/-- `cpyb` (R314). -/
def execCpyb (st : Bool) (a b : Code) (k : Bool) (s : State) : Host.Outcome State Fault Refusal :=
  finishSettled 4 0x4B st (stageCpyb a b k) s

/-- `coll` stages its command (R315). -/
def stageColl (a b : Code) (k : Bool) (core : Nat) (s : State) (t : Task) : Staged := stageCmd 0x4C 0 none none a b k core s t

/-- `coll` (R315, R401). -/
def execColl (st : Bool) (a b : Code) (k : Bool) (s : State) : Host.Outcome State Fault Refusal :=
  finishSettled 4 0x4C st (stageColl a b k) s

-- The follow-on of `cpy.mm` (R311, R313). ------------------------------------------------------------------------

/-- The first broken condition of a command word: its byte offset (R311, R313). -/
def followBad (w : Nat) (d : Nat) : Option Nat :=
  if w / 2 ^ 32 ≠ 0 then some 4
  else if bitsOf w 24 7 < 0x41 ∨ bitsOf w 24 7 > 0x44 then some 3
  else if bitsOf w 18 6 ≠ d then some 2
  else none

/-- The checks of R35, R138, R145 and R152 that the slot of a command word fails at the `cpy.mm`. -/
def followStaged (core : Nat) (t : Task) (w : Nat) : Staged :=
  match decode (w % 2 ^ 31) with
  | .error e => { encs := undef e.reason.code e.value e.field }
  | .ok _ =>
    match matrixKind w with
    | none => {}
    | some (kind, lenA, ha, hb, _, lenB) =>
      let d := bitsOf w 18 6
      let oper (c : Code) (handle : Bool) (len field : Nat) : Staged :=
        if handle then
          { encs := srcG c field,
            fault := if (handleStride (rdG core t c) len).isNone then some (engineBounds 0x12 field) else none }
        else { encs := inFile 16 c field }
      let pair : List EncFail := match kind with
        | .mma .f64 => if pairHeld t d then [] else undef 0x31 d 1
        | _ => []
      let sel : Option TrapInfo := match kind with
        | .sparse _ => (badSelect (selectBytes t (bitsOf w 1 3))).map fun p =>
            { cause := .illegalSelect, word := BitVec.ofNat 64 (p.1 + p.2 * 2 ^ 8) }
        | _ => none
      ((oper (BitVec.ofNat 6 (bitsOf w 12 6)) ha lenA 2).and (oper (BitVec.ofNat 6 (bitsOf w 6 6)) hb lenB 3)).and
        { encs := pair, fault := sel }

/-- The fault of a command word (R328): its form, then what the slot itself would raise. -/
def wordFault (core : Nat) (t : Task) (w d : Nat) : Option TrapInfo :=
  match followBad w d with
  | some o => some (fieldBounds 7 o true)
  | none =>
    let x := followStaged core t w
    match (x.encs.map (·.step)).min? with
    | some k => (leastReason (x.encs.filter fun e => e.step == k)).map fun e =>
        { cause := encCause k, word := if k = 1 ∨ k = 5 then encWord e else 0 }
    | none => x.fault

/-- `cpy.mm` stages its command (R311, R313, R328). -/
def stageCpyMm (d a b : Code) (k : Bool) (core : Nat) (s : State) (t : Task) : Staged :=
  let w := (rdG core t b).toNat
  let captured : Follow :=
    { word := w % 2 ^ 32, ga := rdG core t (BitVec.ofNat 6 (bitsOf w 12 6)), gb := rdG core t (BitVec.ofNat 6 (bitsOf w 6 6)),
      sel := selectBytes t (bitsOf w 1 3) }
  ({ encs := needBank t d.toNat 1, dests := [(.a, d.toNat)] } : Staged).and
    (stageCmd 0x4A d.toNat (some captured) (wordFault core t w d.toNat) a b k core s t)

/-- `cpy.mm` (R313). -/
def execCpyMm (st : Bool) (d a b : Code) (k : Bool) (s : State) : Host.Outcome State Fault Refusal :=
  finishSettled 4 0x4A st (stageCpyMm d a b k) s

-- Drain, publish, cancel, status (R318, R320 to R322). -----------------------------------------------------------

/-- The bound below which a `drain` waits for command numbers: that of its first execution (R320). -/
def drainBound (s : State) (t : Task) (ch : Nat) : Nat :=
  match t.stall with
  | some st => (st.waits.findSome? fun w => match w with | .drain c b => if c = ch then some b else none | _ => none).getD s.nextId
  | none => s.nextId

/-- The status word of a channel of a task. -/
def Task.chWord (t : Task) (ch : Nat) : Nat := (t.chst[ch]?.getD 0).toNat

/-- `drain` stages its waits, after every earlier release (R275), and the recorded error it finds (R320). -/
def stageDrain (k : Bool) (core : Nat) (s : State) (t : Task) : Staged :=
  let ch := if k then 1 else 0
  let w : Wait := .drain ch (drainBound s t ch)
  let x := t.chWord ch
  { fault := faultAfter s core t w (faultIf (bitsOf x 32 8 != 0) (engineBounds 0x15 (bitsOf x 32 8 + bitsOf x 48 16 * 2 ^ 16))),
    waits := [w, .outside] }

/-- `drain` (R320). -/
def execDrain (st : Bool) (k : Bool) (s : State) : Host.Outcome State Fault Refusal := finishSlot 4 0x4D st (stageDrain k) s

/-- `pub` stages the swap of its entry (R318). -/
def stagePub (a : Code) (core : Nat) (s : State) (t : Task) : Staged :=
  let h := rdG core t a
  let e := s.regs.pubs[h.toNat]?
  let ok : Bool := match e with
    | some p => bitsOf p.ctl.toNat 0 1 == 1 && bitsOf p.ctl.toNat 32 16 == t.tasid.toNat % 2 ^ 16
    | none => false
  { encs := srcG a 2, fault := faultIf (!ok) { cause := .permission, word := h }, waits := .pub :: releaseWaits t,
    effects := [.pub h.toNat] }

/-- `pub` (R318). -/
def execPub (st : Bool) (a : Code) (s : State) : Host.Outcome State Fault Refusal := finishSettled 4 0x4D st (stagePub a) s

/-- `ecan` stages its removal (R321). -/
def stageEcan (a : Code) (k : Bool) (core : Nat) (_ : State) (t : Task) : Staged :=
  let g := rdG core t a
  { encs := srcG a 2, fault := faultIf (decide (g.toNat ≥ 2 ^ 17)) { cause := .permission, word := g },
    effects := [.cancel (if k then 1 else 0) (g.toNat % 2 ^ 16) (g.getLsbD 16)] }

/-- `ecan` (R321). -/
def execEcan (st : Bool) (a : Code) (k : Bool) (s : State) : Host.Outcome State Fault Refusal :=
  finishSlot 4 0x4D st (stageEcan a k) s

/-- `estat` stages its word (R322). -/
def stageEstat (d : Code) (k : Bool) (core : Nat) (s : State) (t : Task) : Staged :=
  let ch := if k then 1 else 0
  let c := (s.core core).chan ch
  let queued := (c.queue.filter fun x => x.uid == t.uid).length
  let active := (c.active.filter fun x => x.cmd.uid == t.uid).length
  { encs := dstG d 1, dests := destG d,
    effects := .statClear ch :: wrG d latNext (BitVec.ofNat 64 (t.chWord ch + queued * 2 ^ 8 + active)) }

/-- `estat` (R322). -/
def execEstat (st : Bool) (d : Code) (k : Bool) (s : State) : Host.Outcome State Fault Refusal :=
  finishSlot 4 0x4D st (stageEstat d k) s

end Sys2Proof.Machine
end

