-- ==== Sys2Proof/Machine/Issue.lean ====
section
/-! DEFINITION. Which bundle a core issues next, and what a clock cycle does (11 R213, R214, R219, R220, R223, 12 R239, 19
R333, R342, 23 R395 to R399, R413). -/

namespace Sys2Proof.Machine

-- Which task a core issues (R213, R214). -------------------------------------------------------------------------

/-- The running task of a core leaves it at a switch point (R213): its hoisted loads are gone (R92, item 4). -/
def State.switchOut (s : State) (core slot : Nat) : State :=
  (s.updTask (taskKey core slot) Task.unhoistAll).updCore core Core.switch

/-- The core picks a task where it has none, and leaves one that waits at a switch point while another is ready (R213,
R214). -/
def State.pickTask (s : State) (core : Nat) : State :=
  let c := s.core core
  match c.running with
  | none =>
    match nextReady s core c.last with
    | some sl => s.runSlot core sl
    | none => s
  | some sl =>
    match s.task (taskKey core sl), nextReady s core sl with
    | some t, some other =>
      (match t.stall with
        | some st =>
          if (st.waits.any fun w => switchWait w && !waitMet s core sl t w) ∧ other ≠ sl then
            (s.switchOut core sl).runSlot core other
          else s
        | none => s)
    | _, _ => s

-- Opening a bundle. ---------------------------------------------------------------------------------------------

/-- The bundle of a task made live: the one that waits, where its waits are met, else the next (R241). -/
def State.openBundle (s : State) (core slot : Nat) (t : Task) : State :=
  match t.stall with
  | some st => if (firstUnmet s core slot t st.waits).isSome then s else s.reopen core slot t st
  | none => s.fetchInto core slot t

/-- The gang of a task issues its next step (R219, R244): the first member of the step that has not finished its bundle
goes on; while a member holds at its `slv.end`, each other issues on its own (R245). -/
def State.openGang (s : State) (core slot : Nat) (t : Task) : State :=
  if !gangRuns s t.gid then s
  else if holdsRoots t && !((s.tasksOf t.gid).any fun e => heldGang e.2 && holdsRoots e.2) then s
  else if catchingUp s t.gid then s.openBundle core slot t
  else
    let turn := gangTurn s t.gid
    let blocked := turn.any fun e => match e.2.stall with
      | some st => !heldGang e.2 && (firstUnmet s (e.1 / 4) (e.1 % 4) e.2 st.waits).isSome
      | none => false
    if blocked then s
    else
      match turn.find? fun e => !heldGang e.2 with
      | some e => s.openBundle (e.1 / 4) (e.1 % 4) e.2
      | none => s

/-- A core's turn to issue: afterwards a bundle is live where a slot is to be executed. No core issues inside a
whole-device bubble or while the part is too hot (R397, R413); a task that a pre-emption waits for issues no more once it stands
at a save point (R342). -/
def State.issuePrep (s : State) (core : Nat) : State :=
  if s.bundle.live then s
  else if issueStops s ∨ core ≥ 512 then s
  else
    let s1 := s.pickTask core
    match (s1.core core).running with
    | none => s1
    | some sl =>
      match s1.task (taskKey core sl) with
      | none => s1
      | some t =>
        if t.run ≠ .ready then s1
        else if s1.cadenced t then s1.openGang core sl t
        else if t.preempt ∧ (s1.core core).spill.isNone ∧ atSavePoint t then s1
        else s1.openBundle core sl t

-- A clock cycle (R239, R295, R397, R399). -------------------------------------------------------------------------

/-- The wait timer of a task counts a cycle where a wait that names it is not met (R239). -/
def timeTick (s : State) (core slot : Nat) (t : Task) : Task :=
  match t.stall with
  | some st => if timedWaits s core slot t st = [] then t else { t with stall := some { st with waited := st.waited + 1 } }
  | none => t

/-- The cycles the running task of a core has issued for since it last stood at a switch point (R214). -/
def issueTick (s : State) (core : Nat) (c : Core) : Core :=
  match c.running with
  | none => c
  | some sl =>
    let waits := match (s.task (taskKey core sl)).bind (·.stall) with | some st => st.waits.any switchWait | none => false
    if waits then c else { c with issued := c.issued + 1 }

/-- The waits whose time is up come next (R239). -/
def State.timeouts (s : State) : State :=
  { s with agenda := s.agenda ++ (s.tasks.filter fun e => (timeUp s (e.1 / 4) (e.1 % 4) e.2).isSome).map fun e =>
      .event (.waitTimeout (e.1 / 4) (e.1 % 4)) }

/-- A device link. -/
def linkOf (s : State) (l : Nat) : Link := s.regs.links[l]?.getD {}

/-- A device link changed. -/
def State.updLink (s : State) (l : Nat) (f : Link → Link) : State :=
  s.withRegs { s.regs with links := s.regs.links.setIfInBounds l (f (linkOf s l)) }

/-- The flits that the far side of a link has taken leave its buffer (R395). -/
def State.linksTaken (s : State) : State :=
  if s.regs.links.all fun k => k.buffer == [] then s
  else (List.range 16).foldl (fun x l => x.updLink l fun k => { k with buffer := k.buffer.drop (Config.flitsTaken x.chip.cycles l) }) s

/-- The checked stitch table comes into force at the next revolution boundary at which no stitch is under way (R392). -/
def State.switchDue (s : State) : State :=
  if s.nets.stitchNew.isSome && s.regs.tsc % 256 == 0 && !(s.nets.posts.any fun p => p.net == .mesh && !p.held) then
    { s with agenda := s.agenda ++ [.event .stitchTableSwitch] }
  else s

/-- The end of a life interval is come to at once (R417). -/
def State.flushDue (s : State) : State :=
  if s.chip.cycles ≥ s.chip.lastFlush + 2 ^ 30 then { s with agenda := s.agenda ++ [.event .lifeCounterFlush] } else s

/-- A clock cycle passes. Inside a whole-device bubble the time-step counter and the wait timers hold (R239, R397); a bubble of
the cadence group begins when the counter reaches its start (R399); the counter holds for one cycle where its alignment asks for
it (R398). Line requests that reach their home slices are counted (R295), and writes of the host that were held are performed
where they can be (R253). A wait whose count reaches its limit ends before anything else (R239). -/
def State.clock (s : State) : State :=
  let s' := s.withChip { s.chip with cycles := s.chip.cycles + 1 }
  let s0 := s'.flushDue.hostRetry.linesCounted
  if s0.chip.bubble > 0 then
    let s1 := s0.withChip { s0.chip with bubble := s0.chip.bubble - 1 }
    if s1.chip.bubble = 0 then s1.stepReached else s1
  else
    let n := if s0.chip.holdStep then s0.regs.tsc else (s0.regs.tsc + 1) % 2 ^ 64
    let s1 := ((s0.withRegs { s0.regs with tsc := n }).withChip { s0.chip with holdStep := false }).linksTaken.stitchesArrive.switchDue
    ((s1.withTasks (s1.tasks.map fun e => (e.1, timeTick s1 (e.1 / 4) (e.1 % 4) e.2))).withCores
      (s1.cores.map fun e => (e.1, issueTick s1 e.1 e.2))).timeouts.stepReached

/-- Quantum expiry (R214): the running task has issued for 65536 cycles while another is ready; it takes effect at the commit of
an atom (R367). -/
def State.expire (s : State) (core : Nat) : State :=
  let c := s.core core
  match c.running with
  | none => s
  | some sl =>
    match nextReady s core sl with
    | some other =>
      if c.issued ≥ 65536 ∧ other ≠ sl ∧ !s.bundle.live ∧ !((s.task (taskKey core sl)).any inAtom) then (s.switchOut core sl).runSlot core other else s
    | none => s

end Sys2Proof.Machine
end

