-- ==== Sys2Proof/Machine/EventsTask.lean ====
section
/-! DEFINITION. Events of tasks and cores: waits that end, array operations, remote posts, gangs, atoms, switching, records,
REPLAY, pre-emption (chapters 06, 10 to 12, 19, 20). An event whose condition does not hold changes nothing. -/

namespace Sys2Proof.Machine

-- Waits that end (R213, R241, R244). -----------------------------------------------------------------------------

/-- The task of a slot goes on where it waits for what `p` names and every wait of its bundle is met: alone its bundle runs
again; in a gang its core issues next, and the gang's step goes on (R219). -/
def State.releaseWait (s : State) (core slot : Nat) (p : Wait → Bool) : State :=
  match s.task (taskKey core slot) with
  | none => s
  | some t =>
    match t.stall with
    | none => s
    | some st =>
      if !(st.waits.any p) then s
      else if !s.cadenced t then s.release core slot
      else if s.bundle.live || (firstUnmet s core slot t st.waits).isSome then s
      else { s with agenda := .issue core :: s.agenda }

/-- FIFO_STALL_RELEASE (R251). -/
def execFifoStallRelease (core slot : Nat) (s : State) : Host.Outcome State Fault Refusal :=
  .next (s.releaseWait core slot fun w => match w with | .fifoPush _ _ _ => true | .fifoPop _ _ _ => true | _ => false)

/-- ZPOP_RELEASE (R131). -/
def execZpopRelease (core slot : Nat) (s : State) : Host.Outcome State Fault Refusal :=
  .next (s.releaseWait core slot fun w => match w with | .stream _ _ => true | _ => false)

/-- ACC_FREE_RELEASE (R137). -/
def execAccFreeRelease (core slot : Nat) (s : State) : Host.Outcome State Fault Refusal :=
  .next (s.releaseWait core slot fun w => match w with | .banks _ _ => true | _ => false)

/-- DRAIN_COMPLETE (R320). -/
def execDrainComplete (core slot : Nat) (s : State) : Host.Outcome State Fault Refusal :=
  .next (s.releaseWait core slot fun w => match w with | .drain _ _ => true | _ => false)

/-- PUB_COMPLETE (R318). -/
def execPubComplete (core slot : Nat) (s : State) : Host.Outcome State Fault Refusal :=
  .next (s.releaseWait core slot fun w => match w with | .pub => true | _ => false)

/-- FWAIT_SATISFIED (R227). -/
def execFwaitSatisfied (core slot : Nat) (s : State) : Host.Outcome State Fault Refusal :=
  .next (s.releaseWait core slot fun w => match w with | .flag _ _ => true | _ => false)

/-- BAR_WAIT_SATISFIED (R237). -/
def execBarWaitSatisfied (core slot : Nat) (s : State) : Host.Outcome State Fault Refusal :=
  .next (s.releaseWait core slot fun w => match w with | .barrier _ _ => true | _ => false)

/-- SLV_CFG_STORE_FREE (R184). -/
def execSlvCfgStoreFree (core slot : Nat) (s : State) : Host.Outcome State Fault Refusal :=
  .next (s.releaseWait core slot fun w => match w with | .history => true | _ => false)

/-- CWAIT_RELEASE (R221). -/
def execCwaitRelease (core slot : Nat) (s : State) : Host.Outcome State Fault Refusal :=
  .next (s.releaseWait core slot fun w => match w with | .cadence _ => true | _ => false)

/-- LNCH_QUEUE_ROOM (R207). -/
def execLnchQueueRoom (core slot : Nat) (s : State) : Host.Outcome State Fault Refusal :=
  .next (s.releaseWait core slot fun w => match w with | .queueRoom _ => true | _ => false)

/-- ENGINE_QUEUE_ROOM (R297). -/
def execEngineQueueRoom (core slot : Nat) (s : State) : Host.Outcome State Fault Refusal :=
  .next (s.releaseWait core slot fun w => match w with | .channelRoom _ => true | _ => false)

/-- WAIT_TIMEOUT (R239, R240). -/
def execWaitTimeout (core slot : Nat) (s : State) : Host.Outcome State Fault Refusal := .next (s.waitTimeout core slot)

-- The array, remote posts (R75, R134, R229, R389). ---------------------------------------------------------------

/-- What waits for array operations of a task: the bundle that it has stalled, every `tlb.sync`, and an invalidation of the host
that is not done (R146, R292, R409). -/
def arrayAsked (s : State) (core slot : Nat) : List Wait :=
  let landed (w : Wait) : Bool := match w with | .landed _ _ _ => true | _ => false
  let of (t : Task) : List Wait := match t.stall with | some st => st.waits | none => []
  ((s.task (taskKey core slot)).map of).getD [] ++ (s.tasks.flatMap fun e => (of e.2).filter landed) ++
    (if s.regs.hinvctl.getLsbD 62 then [] else [.arrayOwn])

/-- ARRAY_OPERATION_FINISH (R75, R134): the oldest operation of a task that can go on. -/
def execArrayOperationFinish (core slot : Nat) (s : State) : Host.Outcome State Fault Refusal :=
  .next (s.arrayStep (arrayAsked s core slot) core slot)

/-- REMOTE_POST_ARRIVAL (R229). -/
def execRemotePostArrival (src dst : Nat) (s : State) : Host.Outcome State Fault Refusal := .next (s.postArrives src dst)

-- Gangs (R219, R222, R245, R400). --------------------------------------------------------------------------------

/-- Every member of a gang holds at its `slv.end`, none waits for its carried banks any more and the roots have arrived: the
first member's bundle runs, the others follow, and they commit at one instant (R222, R245). -/
def State.rootsArrive (s : State) (gid : Nat) : State :=
  let l := s.tasksOf gid
  if s.bundle.live || issueStops s || !gangRuns s gid || l.any (fun e => heldGang e.2) || !(l.all fun e => holdsRoots e.2) then s
  else
    let waits := l.any fun e => match e.2.stall with
      | some st => (firstUnmet s (e.1 / 4) (e.1 % 4) e.2 st.waits).isSome
      | none => false
    match l with
    | [] => s
    | e :: _ =>
      match e.2.stall with
      | some st => if waits then s else s.rerun (e.1 / 4) (e.1 % 4) e.2 st
      | none => s

/-- GANG_ROOTS_COMPLETE (R245). -/
def execGangRootsComplete (gid : Nat) (s : State) : Host.Outcome State Fault Refusal := .next (s.rootsArrive gid)

/-- CADENCED_START (R400). -/
def execCadencedStart (gid : Nat) (s : State) : Host.Outcome State Fault Refusal := .next (s.startGang gid)

-- Atoms (R364 to R366). ------------------------------------------------------------------------------------------

/-- The member of a gang on a core whose bundle is held for the others. -/
def heldOn (s : State) (core : Nat) : Option (Nat × Task) :=
  (List.range 4).findSome? fun sl =>
    (s.task (taskKey core sl)).bind fun t => if heldGang t then some (taskKey core sl, t) else none

/-- The staged effects of an atom become visible at one instant: those of a bundle whose slots have all been executed, or
those of every member of a gang's step (R219, R364, R365). -/
def State.atomCommits (s : State) (core : Nat) : State :=
  if s.bundle.live then (if s.cur = core ∧ s.bundle.words = [] then s.endBundle else s)
  else
    match heldOn s core with
    | none => s
    | some e =>
      if (gangTurn s e.2.gid).all fun x => heldGang x.2 then s.finishGang e.2.gid else s

/-- ATOM_COMMIT (R365). -/
def execAtomCommit (core : Nat) (s : State) : Host.Outcome State Fault Refusal := .next (s.atomCommits core)

/-- The staged effects of an atom are dropped, and its bundle runs again from its first slot, for a gang's step that of every
member (R365). -/
def State.atomDiscarded (s : State) (core : Nat) : State :=
  if s.bundle.live then
    (if s.cur = core then s.withBundle { s.bundle with words := s.bundle.code, staged := [] } else s)
  else
    match heldOn s core with
    | none => s
    | some e => if (s.tasksOf e.2.gid).any fun x => waitsAtomic x.2 then s else s.dropGang e.2.gid

/-- ATOM_CONFLICT_DISCARD (R365). -/
def execAtomConflictDiscard (core : Nat) (s : State) : Host.Outcome State Fault Refusal := .next (s.atomDiscarded core)

/-- TIER1_PROMOTION (R363). -/
def execTier1Promotion (die : Nat) (head : BitVec 64) (s : State) : Host.Outcome State Fault Refusal :=
  .next (s.promote die head.toNat)

/-- QUANTUM_EXPIRY (R214). -/
def execQuantumExpiry (core : Nat) (s : State) : Host.Outcome State Fault Refusal := .next (s.expire core)

-- Records and REPLAY (R339 to R341). -----------------------------------------------------------------------------

/-- A record written to a queue in device memory: the entry of four words at an index (R338, R408). -/
def State.queueEntry (s : State) (base : W64) (ctl : W64) (wr : Nat) (r : Rec) : State :=
  s.store none (base.toNat + 32 * (wr % queueSize ctl)) 32
    (r.w0.toNat + r.w1.toNat * 2 ^ 64 + r.w2.toNat * 2 ^ 128 + r.w3.toNat * 2 ^ 192)

/-- A parked task whose record has been posted. -/
def Task.posted (t : Task) : Task := match t.run with | .parked r _ => { t with run := .parked r true } | _ => t

/-- The first record that waits is posted where the fault queue has room: the entry, WR, and MSI-X vector 0 (R339, R408). A
translation fault is counted (R416). -/
def State.postRecord (s : State) : State :=
  match s.notes.fqWait with
  | [] => s
  | w :: rest =>
    if queueShut s.regs.fqctl s.regs.fqwr s.regs.fqrd then s
    else
      let s1 := s.queueEntry s.regs.fqbase s.regs.fqctl s.regs.fqwr w.record
      let s2 := s1.withRegs { s1.regs with fqwr := (s.regs.fqwr + 1) % 2 ^ 32 }
      let s3 := s2.withNotes { s2.notes with fqWait := rest, msix0 := s2.notes.msix0 + 1 }
      let s4 := if w.req = 0 ∨ w.req = 3 then s3.updTask (taskKey w.unit w.slot) Task.posted else s3
      if bitsOf w.record.w0.toNat 0 8 = Cause.code .translation then s4.lifeUp 0x4012 else s4

/-- FAULT_QUEUE_POST (R339). -/
def execFaultQueuePost (s : State) : Host.Outcome State Fault Refusal := .next s.postRecord

/-- The value of REPLAY that names a party and an action (R340). -/
def replayWord (unit slot req act : Nat) : W64 := BitVec.ofNat 64 (unit * 2 ^ 32 + slot * 2 ^ 20 + req * 2 ^ 16 + act)

/-- REPLAY_RESUME (R340): action 0 on a stopped party. -/
def execReplayResume (unit slot req : Nat) (s : State) : Host.Outcome State Fault Refusal :=
  .next (if replayBad s (replayWord unit slot req 0) then s else s.replayResume unit slot req)

/-- REPLAY_DELIVER (R340): action 1 on a parked task. -/
def execReplayDeliver (unit slot req : Nat) (s : State) : Host.Outcome State Fault Refusal :=
  .next (if replayBad s (replayWord unit slot req 1) then s else s.replayDeliver unit slot)

/-- REPLAY_TERMINATE (R341): action 2 on a stopped party. -/
def execReplayTerminate (unit slot req : Nat) (s : State) : Host.Outcome State Fault Refusal :=
  .next (if replayBad s (replayWord unit slot req 2) then s else s.replayTerminate unit slot req)

-- Pre-emption (R342 to R344). ------------------------------------------------------------------------------------

/-- PREEMPT_REQUEST (R342). -/
def execPreemptRequest (core slot : Nat) (all : Bool) (s : State) : Host.Outcome State Fault Refusal :=
  .next (s.preemptRequest core slot all)

/-- PREEMPT_SAVE (R343, R348). A bundle that is being issued ends first. -/
def execPreemptSave (core slot : Nat) (s : State) : Host.Outcome State Fault Refusal :=
  .next (if s.bundle.live then s else s.savePreempted core slot)

/-- CONTEXT_RELOAD (R344). -/
def execContextReload (core : Nat) (s : State) : Host.Outcome State Fault Refusal := .next (s.reload core)

end Sys2Proof.Machine
end

