-- ==== Sys2Proof/Machine/EventsWork.lean ====
section
/-! DEFINITION. Events of queues, dispatchers, groups, launches, engines and the power controller (chapters 11, 17, 24). An
event whose condition does not hold changes nothing. -/

namespace Sys2Proof.Machine

-- Queues and dispatch (R203 to R216, R406). ----------------------------------------------------------------------

/-- QUEUE_WRIDX_WRITE (R406): a store to WRIDX of a queue, which wakes its dispatcher. -/
def execQueueWridxWrite (q : Nat) (v : BitVec 64) (s : State) : Host.Outcome State Fault Refusal :=
  .next ((s.setQueue q 0 v.toNat).wakeQueue q)

/-- PACKET_TAKE (R203, R209). -/
def execPacketTake (cluster q : Nat) (s : State) : Host.Outcome State Fault Refusal := .next (s.takePacket cluster q)

/-- GROUP_ADMIT (R210). -/
def execGroupAdmit (cluster : Nat) (s : State) : Host.Outcome State Fault Refusal := .next (s.admitNext cluster)

/-- GROUP_START (R205). -/
def execGroupStart (cluster : Nat) (cores slots : List Nat) (s : State) : Host.Outcome State Fault Refusal :=
  .next (s.startGroup cluster cores slots)

/-- GROUP_STEAL (R212). -/
def execGroupSteal (cluster victim : Nat) (s : State) : Host.Outcome State Fault Refusal := .next (s.steal cluster victim)

/-- GROUP_RELEASE (R205). -/
def execGroupRelease (gid : Nat) (s : State) : Host.Outcome State Fault Refusal := .next (s.releaseGroup gid)

/-- LAUNCH_COMPLETE (R206). -/
def execLaunchComplete (launch : Nat) (s : State) : Host.Outcome State Fault Refusal := .next (s.completeLaunch launch)

/-- GRAPH_MEMBER_READY (R216). -/
def execGraphMemberReady (launch : Nat) (s : State) : Host.Outcome State Fault Refusal := .next (s.memberReady launch)

-- Engines (R298 to R315). ----------------------------------------------------------------------------------------

/-- ENGINE_COMMAND_START (R298). -/
def execEngineCommandStart (core ch : Nat) (s : State) : Host.Outcome State Fault Refusal := .next (s.startCommand core ch)

/-- ENGINE_BODY_LANDED (R307). -/
def execEngineBodyLanded (core ch : Nat) (s : State) : Host.Outcome State Fault Refusal := .next (s.landBody core ch)

/-- ENGINE_WAIT_RELEASE (R308, R309). -/
def execEngineWaitRelease (core ch : Nat) (s : State) : Host.Outcome State Fault Refusal := .next (s.releaseEngine core ch)

/-- COLLECTIVE_PROCEED (R315, R401). -/
def execCollectiveProceed (gid group : Nat) (mask : BitVec 32) (s : State) : Host.Outcome State Fault Refusal :=
  .next (s.collProceed gid group mask.toNat)

-- Power (R211, R413). --------------------------------------------------------------------------------------------

/-- The budget level of a measured power against a limit (R413): 7 at or below 70 % of it, one less for each further 5 %. -/
def budgetLevel (meas limit : Nat) : Nat :=
  if limit = 0 then (if meas = 0 then 7 else 0)
  else 7 - (100 * meas - 70 * limit + 5 * limit - 1) / (5 * limit)

/-- A die's budget published with the power measured (R413): at most once in 1024 cycles for all dies; 0 while the part is
hot. -/
def State.budget (s : State) (die : Nat) (meas : BitVec 16) : State :=
  if s.chip.cycles ≠ s.chip.lastBudget ∧ s.chip.cycles < s.chip.lastBudget + 1024 then s
  else
    let old := s.regs.pwr[die]?.getD 0
    let limit := bitsOf old.toNat 0 16
    let level := if s.chip.hot then 0 else budgetLevel meas.toNat limit
    let new := BitVec.ofNat 64 (limit + meas.toNat * 2 ^ 16 + level * 2 ^ 32)
    (s.withRegs { s.regs with pwr := s.regs.pwr.setIfInBounds die new }).withChip { s.chip with lastBudget := s.chip.cycles }

/-- BUDGET_PUBLISH (R413). -/
def execBudgetPublish (die : Nat) (meas : BitVec 16) (s : State) : Host.Outcome State Fault Refusal :=
  .next (s.budget die meas)

end Sys2Proof.Machine
end

