-- ==== Sys2Proof/Machine/EventsNet.lean ====
section
/-! DEFINITION. Events of the networks: the stitch table, escapes, device links, answers of the host and of peers, the
cadence of many devices (chapter 23, 15 R279). An event whose condition does not hold changes nothing. -/

namespace Sys2Proof.Machine

-- The stitch image (R386 to R390). -------------------------------------------------------------------------------

/-- Bytes of a stitch image (R388): 128 routers and 777 send maps. -/
def stitchBytes : Nat := 0x400000 + 0x2000 * 777

/-- The stitch image in device memory, by offset from STBASE. -/
def stitchImage (s : State) : List Host.Cell :=
  let b := s.regs.stbase.toNat
  (s.mem.filter fun c => decide (b ≤ c.1) && decide (c.1 < b + stitchBytes)).map fun c => (c.1 - b, c.2)

/-- The endpoint at a local port of a router (R385, R386, R388). -/
def endpointAt (r port : Nat) : Option Nat :=
  let k := r % 64
  if r < 64 then some (8 * k + (port - 5))
  else if port ≤ 8 then some (512 + 4 * k + (port - 5))
  else if port = 9 ∧ k % 8 = 0 then some (768 + k / 8)
  else if port = 9 ∧ k % 16 = 4 then some 776
  else none

/-- Where a stitch that leaves lane `l` of output `o` of router `r` at step `e` comes from (R387): the endpoint, its step and
the hops; none where the lane is idle on the way or the source is no endpoint lane. -/
def traceBack (m : List Host.Cell) (l : Nat) : Nat → Nat → Nat → Nat → Option (Nat × Nat × Nat)
  | 0, _, _, _ => none
  | n + 1, r, e, o =>
    match stitchSrc m r e o l with
    | 0 => none
    | c + 1 =>
      if c ≥ 5 then
        (endpointAt r c).bind fun q => if (sendDst m q e l).isSome then some (q, e, 0) else none
      else
        (traceBack m l n (routerBeyond r c) ((e + 255) % 256) (portOpposite c)).map fun t => (t.1, t.2.1, t.2.2 + 1)

/-- Whether a stitch that enters router `r` by input `i` at step `e` ends at endpoint `d` and nowhere else (R387). -/
def endsAt (m : List Host.Cell) (l d : Nat) : Nat → Nat → Nat → Nat → Bool
  | 0, _, _, _ => false
  | n + 1, r, e, i =>
    let outs := (List.range 13).filter fun o => stitchSrc m r e o l == i + 1
    outs != [] && outs.all fun o =>
      if o ≥ 5 then endpointAt r o == some d else endsAt m l d n (routerBeyond r o) ((e + 1) % 256) (portOpposite o)

/-- Every triple of a router, an entry and a lane of a local output that is not idle. -/
def localOutputs (m : List Host.Cell) : List (Nat × Nat × Nat × Nat) :=
  (List.range 128).flatMap fun r => (List.range 256).flatMap fun e => (List.range 8).flatMap fun o =>
    (List.range 16).filterMap fun l => if stitchSrc m r e (o + 5) l = 0 then none else some (r, e, o + 5, l)

/-- Every valid slot of every send map: endpoint, step, lane, destination. -/
def sendSlots (m : List Host.Cell) : List (Nat × Nat × Nat × Nat) :=
  (List.range 777).flatMap fun q => (List.range 256).flatMap fun e => (List.range 16).filterMap fun l =>
    (sendDst m q e l).map fun d => (q, e, l, d)

/-- Condition 1 of R390: the first router whose local output lane does not trace back to an injecting lane. -/
def stitchBad1 (m : List Host.Cell) : Option Nat :=
  ((localOutputs m).find? fun x => (traceBack m x.2.2.2 4096 x.1 x.2.1 x.2.2.1).isNone).map (·.1)

/-- Condition 2 of R390: the first endpoint with an injecting lane that does not end where its send map says. -/
def stitchBad2 (m : List Host.Cell) : Option Nat :=
  ((sendSlots m).find? fun x =>
    !((attachments x.1).any fun a => endsAt m x.2.2.1 x.2.2.2 4096 a.1 x.2.1 a.2)).map fun x => x.1 % 256

/-- The slots of a table with the lengths of their paths: source, destination, hops. -/
def slotPaths (m : List Host.Cell) : List (Nat × Nat × Nat) :=
  (localOutputs m).filterMap fun x =>
    match traceBack m x.2.2.2 4096 x.1 x.2.1 x.2.2.1, endpointAt x.1 x.2.2.1 with
    | some t, some d => some (t.1, d, t.2.2)
    | _, _ => none

/-- Condition 3 of R390: the first source endpoint with slots of one pair of unequal length. -/
def stitchBad3 (m : List Host.Cell) : Option Nat :=
  let l := slotPaths m
  (l.find? fun x => l.any fun y => y.1 == x.1 && y.2.1 == x.2.1 && y.2.2 != x.2.2).map fun x => x.1 % 256

/-- Condition 4 of R390: the first router or endpoint with a reserved field that is not zero. -/
def stitchBad4 (m : List Host.Cell) : Option Nat :=
  (m.find? fun c =>
    if c.1 < 0x400000 then
      let o := c.1 % 128
      decide (o ≥ 104) || decide (c.2.toNat % 16 ≥ 14) || decide (c.2.toNat / 16 ≥ 14)
    else c.1 % 2 == 1 && c.2.toNat / 4 % 32 != 0).map fun c =>
      if c.1 < 0x400000 then c.1 / 0x8000 else (c.1 - 0x400000) / 0x2000 % 256

/-- The first condition of R390 that an image breaks, and the router or endpoint (R391). -/
def stitchFails (m : List Host.Cell) : Option (Nat × Nat) :=
  match stitchBad1 m with
  | some r => some (1, r)
  | none =>
    match stitchBad2 m with
    | some q => some (2, q)
    | none =>
      match stitchBad3 m with
      | some q => some (3, q)
      | none => (stitchBad4 m).map fun r => (4, r)

/-- STSTAT from its fields (R391). -/
def ststatOf (busy deflt : Bool) (err router : Nat) : W64 :=
  BitVec.ofNat 64 ((if busy then 1 else 0) + (if deflt then 2 else 0) + err * 2 ^ 8 + router * 2 ^ 16)

/-- A table that has passed its checks waits for a revolution boundary (R392): no further stitch leaves. -/
def State.awaitSwitch (s : State) (x : Option (List Host.Cell)) : State :=
  let hold (p : Post) : Post := match p.steps with
    | some u => if p.net = .mesh ∧ s.regs.tsc < u.1 then { p with steps := none, held := true } else p
    | none => p
  s.withNets { s.nets with stitchReq := none, stitchNew := some x, posts := s.nets.posts.map hold }

/-- A load asked for by STCTL.LOAD is checked (R392): on failure the old table stays. -/
def State.stitchLoad (s : State) : State :=
  if s.nets.stitchReq ≠ some true then s
  else
    let m := stitchImage s
    match stitchFails m with
    | some f =>
      (s.withNets { s.nets with stitchReq := none }).withRegs
        { s.regs with ststat := ststatOf false s.nets.stitch.isNone f.1 f.2 }
    | none => s.awaitSwitch (some m)

/-- STITCH_TABLE_LOAD (R392). -/
def execStitchTableLoad (s : State) : Host.Outcome State Fault Refusal := .next s.stitchLoad

/-- STITCH_TABLE_DEFAULT (R390, R392): the built-in table is valid. -/
def execStitchTableDefault (s : State) : Host.Outcome State Fault Refusal :=
  .next (if s.nets.stitchReq = some false then s.awaitSwitch none else s)

/-- A post that was held back leaves in the new table, in the first slot above the step at which it was ready (R389, R392). -/
def State.unholdPost (s : State) (i : Nat) : State :=
  match s.nets.posts[i]? with
  | some p => if p.held then s.withNets { s.nets with posts := s.nets.posts.set i (planPost s (max p.sent (s.regs.tsc - 1)) { p with held := false }) } else s
  | none => s

/-- The checked table comes into force at a revolution boundary at which no stitch is under way; the posts held back keep their
order (R392). -/
def State.stitchSwitch (s : State) : State :=
  match s.nets.stitchNew with
  | none => s
  | some x =>
    if s.regs.tsc % 256 ≠ 0 ∨ (s.nets.posts.any fun p => p.net == .mesh && !p.held) then s
    else
      let s1 := (s.withNets { s.nets with stitch := x, stitchNew := none }).withRegs { s.regs with ststat := ststatOf false x.isNone 0 0 }
      (List.range s1.nets.posts.length).foldl (fun (y : State) i => y.unholdPost i) s1

/-- STITCH_TABLE_SWITCH (R392). -/
def execStitchTableSwitch (s : State) : Host.Outcome State Fault Refusal := .next s.stitchSwitch

/-- An escape of the dynamic network counted (R391, R394, R416). -/
def State.countEscape (s : State) : State := (s.withRegs { s.regs with esccnt := s.regs.esccnt + 1 }).lifeUp 0x4013

/-- A packet that has been blocked for 4096 cycles moves to the escape channel, and the escape is counted (R394, R416): the
oldest post of a pair that has been on the dynamic network for so long, whose place among the posts of its pair stays (R393);
where there is none, a packet of other traffic, which the model does not hold. -/
def State.escape (s : State) (src dst : Nat) : State :=
  let mine (p : Post) : Bool := p.src == src && p.dst == dst && p.net == .dynamic && decide (p.sent + 4096 ≤ s.regs.tsc)
  if s.chip.cycles < 4096 then s
  else
    match s.nets.posts.findIdx? mine with
    | none => s.countEscape
    | some i =>
      match s.nets.posts[i]? with
      | none => s
      | some p => (s.withNets { s.nets with posts := s.nets.posts.set i { p with net := .escape } }).countEscape

/-- PACKET_ESCAPE (R394). -/
def execPacketEscape (src dst : Nat) (s : State) : Host.Outcome State Fault Refusal := .next (s.escape src dst)

-- Device links (R395). -------------------------------------------------------------------------------------------

/-- Flits of a flow that can be delivered from a sequence number on: those delivered in order, what is left, the next
number (R395). -/
def inSequence : Nat → Nat → List Flit → List Flit × List Flit × Nat
  | 0, n, l => ([], l, n)
  | k + 1, n, l =>
    match l.find? fun f => f.seq.toNat == n with
    | none => ([], l, n)
    | some f =>
      let r := inSequence k ((n + 1) % 2 ^ 16) (l.erase f)
      (f :: r.1, r.2.1, r.2.2)

/-- A flit for this device enters its flow; those in sequence are delivered (R395). -/
def State.deliverFlit (s : State) (f : Flit) : State :=
  let mine (x : Flow) : Bool := x.src == f.src.toNat && x.flow == f.flow
  let old := (s.nets.flows.find? mine).getD { src := f.src.toNat, flow := f.flow, next := 0 }
  let early := old.early ++ [f]
  let r := inSequence early.length old.next early
  s.withNets { s.nets with
    flows := s.nets.flows.filter (fun x => !mine x) ++ [{ old with next := r.2.2, early := r.2.1 }], inbox := s.nets.inbox ++ r.1 }

/-- The links that lead towards a device, but for one that retrains (R391, R395). -/
def routeLinks (s : State) (dst : BitVec 8) (not : Option Nat) : List Nat :=
  (List.range 16).filter fun l => ((mapGet dst.toNat s.regs.route).getD 0).getLsbD l && some l != not

/-- A flit goes on over a link of its destination's ROUTE, one that carries flits where there is one; it stays in the buffer of
that link for a replay (R395). Where no link leads to its destination it goes nowhere (R391). -/
def State.forward (s : State) (not : Option Nat) (f : Flit) : State :=
  let l := routeLinks s f.dst not
  match (l.find? fun i => (linkOf s i).up && !(linkOf s i).train).or l.head? with
  | some i => s.updLink i fun x => { x with buffer := x.buffer ++ [f] }
  | none => s

/-- A flit of the link counted as replayed (R391, R395). -/
def Link.replayed (k : Link) : Link := { k with retry := min (k.retry + 1) (2 ^ 32 - 1) }

/-- A flit arrives on a link that carries flits (R395): one with a bad CRC is replayed by the sender, and with it every later flit
of the link, which is not taken until then; one for another device goes on over the links of its route. -/
def State.flitArrives (s : State) (l : Nat) (f : Flit) : State :=
  let k := linkOf s l
  let name := (f.src, f.flow, f.seq)
  if !k.up || k.train then s
  else if k.await.any fun w => w != name then s.updLink l Link.replayed
  else if !f.crcOk then s.updLink l fun x => { x.replayed with fails := x.fails + 1, await := some name }
  else
    let s1 := s.updLink l fun x => { x with fails := 0, await := none }
    if f.dst.toNat = bitsOf s.regs.devid.toNat 0 8 then s1.deliverFlit f else s1.forward none f

/-- FLIT_RECEIVE (R395). -/
def execFlitReceive (link : Nat) (flit : Flit) (s : State) : Host.Outcome State Fault Refusal := .next (s.flitArrives link flit)

/-- A link that fails 16 replays in a row retrains (R395, R416); its flits go over the other links of their LMASK. -/
def State.retrain (s : State) (l : Nat) : State :=
  let k := linkOf s l
  if k.fails < 16 ∨ k.train then s
  else
    let stays (f : Flit) : Bool := routeLinks s f.dst (some l) == []
    let s1 := (s.updLink l fun x =>
      { x with up := false, train := true, retrain := min (x.retrain + 1) (2 ^ 16 - 1), fails := 0, await := none,
               buffer := x.buffer.filter stays }).lifeUp (0x4002 + l)
    (k.buffer.filter fun f => !stays f).foldl (fun x f => x.forward (some l) f) s1

/-- LINK_RETRAIN (R395). -/
def execLinkRetrain (link : Nat) (s : State) : Host.Outcome State Fault Refusal := .next (s.retrain link)

/-- A link that is not up ends its training and carries flits (R395, R410): its far device is a value that the spec leaves to
the board. -/
def State.trained (s : State) (l : Nat) : State :=
  if (linkOf s l).up then s
  else s.updLink l fun x => { x with up := true, train := false, peer := (Config.farDevice l).toNat }

/-- LINK_TRAINING_END (R395). -/
def execLinkTrainingEnd (link : Nat) (s : State) : Host.Outcome State Fault Refusal := .next (s.trained link)

-- Answers (R267, R279, R396). ------------------------------------------------------------------------------------

/-- An answer handed to the party that asked: the operand fetcher or the slots of a task, the reload of an image, a write of the
host, or an engine command. -/
def State.handAnswer (s : State) (o : Outside) (data : Nat) : State :=
  match keyOfUid s o.src.uid with
  | some k =>
    s.updTask k fun t =>
      if o.fetch then { t with fetched := mapSet o.pa data t.fetched } else { t with answers := mapSet o.pa data t.answers }
  | none =>
    if s.gone.any fun g => g.uid == o.src.uid then
      { s with gone := s.gone.map fun g => if g.uid = o.src.uid then { g with answers := mapSet o.pa data g.answers } else g }
    else if s.notes.hostWrites.any fun e => e.ident == o.src.uid then
      let take (e : HostWrite) : HostWrite := if e.ident = o.src.uid then { e with answers := mapSet o.pa data e.answers } else e
      s.withNotes { s.notes with hostWrites := s.notes.hostWrites.map take }
    else
    let give (a : Active) : Active := if a.cmd.cid = o.src.uid then { a with answers := mapSet o.pa data a.answers } else a
    s.withCores (s.cores.map fun e => (e.1, { e.2 with ch := e.2.ch.map fun h => { h with active := h.active.map give } }))

/-- Whether two accesses to apertures are of one party: a task, or an engine channel (R264). -/
def sameParty (o p : Outside) : Bool :=
  if o.src.chan.isSome then o.src.chan == p.src.chan else p.src.chan.isNone && o.src.uid == p.src.uid

/-- Whether an access to an aperture comes after another of its party: they share a byte, one of them writes, and the other left
first (R265, R275, R276). -/
def waitsBehind (s : State) (o : Outside) : Bool :=
  let writes (x : Outside) : Bool := x.store.isSome || x.atomic.isSome
  s.nets.outside.any fun p => decide (p.ident < o.ident) && sameParty o p && meet o.pa o.size p.pa p.size && (writes o || writes p)

/-- Whether the time of a peer access is over (R396). -/
def overdue (s : State) (o : Outside) : Bool := regionOf s o.pa == .peer && decide (s.chip.cycles ≥ o.since + 2 ^ 24)

/-- An access to an aperture is performed, after those of its party that it comes after: the acknowledgement of a store or the old
value of an atomic, which remove hoisted loads of its bytes (R92), or the data of a read. An answer that no access waits for, or
that comes too late, is discarded (R396). -/
def State.outsideAnswer (s : State) (region : Region) (ident : Nat) (data : BitVec 64) : State :=
  match s.nets.outside.find? fun o => o.ident == ident && regionOf s o.pa == region with
  | none => s
  | some o =>
    if waitsBehind s o || overdue s o then s
    else
      let s1 := s.withNets { s.nets with outside := s.nets.outside.erase o }
      if o.store.isSome then s1.withTasks (unhoist o.writer o.pa o.size s1.tasks)
      else if o.atomic.isSome then
        (if s.bundle.live then s
        else
          let s2 := s1.unhoistOwn o.src.uid o.pa o.size
          (s2.withTasks (unhoist o.writer o.pa o.size s2.tasks)).atomicBack o.src.uid o.pa data.toNat)
      else s1.handAnswer o data.toNat

/-- PEER_ANSWER (R396). -/
def execPeerAnswer (ident : Nat) (data : BitVec 64) (s : State) : Host.Outcome State Fault Refusal :=
  .next (s.outsideAnswer .peer ident data)

/-- HOST_APERTURE_ANSWER (R279, R402). -/
def execHostApertureAnswer (ident : Nat) (data : BitVec 64) (s : State) : Host.Outcome State Fault Refusal :=
  .next (s.outsideAnswer .host ident data)

/-- *uncorrectable error* for a peer that does not answer (R396). -/
def noAnswer (o : Outside) : TrapInfo :=
  { cause := .uncorrectable, word := BitVec.ofNat 64 ((o.pa - 0x4000000000000) / 2 ^ 42 % 256 + 2 * 256) }

/-- The error of a peer access on the path of its requester: a task, its operand fetcher, an engine command, a dispatcher's
completion write, a write of the host, whose word HERR receives (R330, R396, R403). -/
def State.outsideFails (s : State) (o : Outside) : State :=
  match keyOfUid s o.src.uid with
  | some k =>
    (match s.task k with
      | none => s
      | some t =>
        if o.fetch then s.stopFetch (k / 4) (k % 4) ((t.arrayQ.head?.map (·.addr)).getD t.pc) (noAnswer o)
        else
          let addr := match t.stall with | some st => st.bundle.addr | none => t.pc
          let mask := match t.stall with | some st => st.mask | none => 0
          (s.trap (k / 4) (k % 4) t (noAnswer o) mask 0 false addr addr).stopWith t)
  | none =>
    match s.gone.find? fun g => g.uid == o.src.uid with
    | some g => s.reloadFails g (noAnswer o)
    | none =>
    match s.cores.findSome? fun e => (List.range 2).findSome? fun h =>
        ((e.2.chan h).active.findIdx? fun a => a.cmd.cid == o.src.uid).map fun i => (e.1, h, i) with
    | some (c, h, i) =>
      (match s.activeAt c h i with
        | some a =>
          let lost := match o.store with | some v => [(o.pa, o.size, v)] | none => []
          s.stopEngine c h i { a with failed := a.failed ++ lost } (noAnswer o)
        | none => s)
    | none =>
      match mapGet o.src.uid s.launches with
      | some l => s.stopLaunch l (noAnswer o)
      | none =>
        match s.notes.hostWrites.find? fun e => e.ident == o.src.uid with
        | some e =>
          (s.withNotes { s.notes with hostWrites := s.notes.hostWrites.erase e }).withRegs { s.regs with herr := (noAnswer o).word }
        | none => s

/-- Whether the party of an access can take its error: a task that is parked, or a command or a launch that is stopped, takes it
once it goes on. -/
def takesError (s : State) (o : Outside) : Bool :=
  match (keyOfUid s o.src.uid).bind s.task with
  | some t => if o.fetch then t.arrayStop.isNone else t.run == .ready
  | none =>
    (s.cores.all fun e => e.2.ch.all fun c => c.active.all fun a => a.cmd.cid != o.src.uid || a.state != .stopped) &&
      (match mapGet o.src.uid s.launches with | some l => l.stopped.isNone | none => true)

/-- A peer access that no answer has reached within 2^24 cycles completes as an error (R396). -/
def State.outsideTimeout (s : State) (ident : Nat) : State :=
  if s.bundle.live then s
  else
    match s.nets.outside.find? fun o => o.ident == ident && regionOf s o.pa == .peer with
    | none => s
    | some o =>
      if !overdue s o || !takesError s o then s
      else (s.withNets { s.nets with outside := s.nets.outside.erase o }).outsideFails o

/-- PEER_ACCESS_TIMEOUT (R396). -/
def execPeerAccessTimeout (ident : Nat) (s : State) : Host.Outcome State Fault Refusal := .next (s.outsideTimeout ident)

-- Cadence (R397 to R399). ----------------------------------------------------------------------------------------

/-- The measured offset from the leader, rounded toward zero (R398). -/
def cadenceOffset (t1 t2 tL turn : Nat) : Int := (2 * ((tL : Int) - t2) + ((t2 : Int) - t1 - turn)).tdiv 2

/-- CGSTAT from its fields (R391). -/
def cgstatOf (ofs : Int) (lost aligned : Bool) : W64 :=
  BitVec.ofNat 64 ((ofs % 256).toNat * 2 ^ 8 + (if lost then 2 else 0) + (if aligned then 1 else 0))

/-- The time-step counter moved by an offset. -/
def tscMoved (tsc : Nat) (d : Int) : Nat := (((tsc : Int) + d) % 2 ^ 64).toNat

/-- A follower's first measurement: it sets its counter once, before any cadenced launch (R398 steps 1 to 3); LOST is sticky
(R391). -/
def State.alignFirst (s : State) (ofs : Int) : State :=
  if cadencedRuns s then s
  else
    let n := tscMoved s.regs.tsc ofs
    ((s.withRegs { s.regs with tsc := n, cgstat := cgstatOf ofs (s.regs.cgstat.getLsbD 1) true }).withChip
      { s.chip with lastMeasure := n, measured := true }).stepReached

/-- A later measurement (R398 step 4): ALIGNED and OFS; a step added for an offset of 1, held for −1, at most once in 1024; LOST
and a life event beyond 1. -/
def State.alignAgain (s : State) (ofs : Int) : State :=
  let lost := s.regs.cgstat.getLsbD 1
  if s.regs.tsc < s.chip.lastMeasure + 2 ^ 16 then s
  else if ofs.natAbs ≤ 1 then
    let fix := decide (ofs ≠ 0) && decide (s.regs.tsc ≥ s.chip.lastCorrect + 1024)
    let n := if fix && decide (ofs = 1) then (s.regs.tsc + 1) % 2 ^ 64 else s.regs.tsc
    let s1 := (s.withRegs { s.regs with tsc := n, cgstat := cgstatOf ofs lost true }).withChip
      { s.chip with lastMeasure := s.regs.tsc, lastCorrect := if fix then s.regs.tsc else s.chip.lastCorrect,
                    holdStep := fix && decide (ofs = -1) }
    if n = s.regs.tsc then s1 else s1.stepReached
  else
    let s1 := ((s.withRegs { s.regs with cgstat := cgstatOf ofs true false }).withChip
      { s.chip with lastMeasure := s.regs.tsc }).lifeUp 0x4017
    s1.notice 5 0x4017 (BitVec.ofNat 64 (lifeGet s1 0x4017)) 0

/-- A measurement of a follower (R398): the first since it joined its group, or a later one. -/
def State.measureCadence (s : State) (t1 t2 tL turn : Nat) : State :=
  let follows := s.regs.cgctl.getLsbD 8 && bitsOf s.regs.cgctl.toNat 0 8 != bitsOf s.regs.devid.toNat 0 8
  let ofs := cadenceOffset t1 t2 tL turn
  if !follows then s
  else if s.chip.measured then s.alignAgain ofs
  else s.alignFirst ofs

/-- CADENCE_REMEASURE (R398). -/
def execCadenceRemeasure (t1 t2 tL turn : Nat) (s : State) : Host.Outcome State Fault Refusal :=
  .next (s.measureCadence t1 t2 tL turn)

/-- The leader's notice of a bubble (R399): one that comes too late sets LOST. -/
def State.bubbleNoticed (s : State) (start : BitVec 64) (len : Nat) : State :=
  if !s.regs.cgctl.getLsbD 8 ∨ len = 0 ∨ len > 64 then s
  else if s.regs.tsc ≥ start.toNat then s.withRegs { s.regs with cgstat := s.regs.cgstat ||| 2 }
  else s.withChip { s.chip with bubbles := s.chip.bubbles ++ [(start.toNat, len)] }

/-- BUBBLE_NOTICE (R399). -/
def execBubbleNotice (start : BitVec 64) (len : Nat) (s : State) : Host.Outcome State Fault Refusal :=
  .next (s.bubbleNoticed start len)

/-- Whether the power last measured of some die exceeds its LIMIT (R413). -/
def overLimit (s : State) : Bool :=
  s.regs.pwr.toList.any fun x => decide (bitsOf x.toNat 0 16 < bitsOf x.toNat 16 16)

/-- WHOLE_DEVICE_BUBBLE (R397, R413): a die exceeds its LIMIT, on a device on which no cadenced launch runs and that belongs to no
cadence group; the bubbles of a group begin when the counter reaches their start (R399). -/
def execWholeDeviceBubble (len : Nat) (s : State) : Host.Outcome State Fault Refusal :=
  .next (if !overLimit s ∨ cadencedRuns s ∨ s.regs.cgctl.getLsbD 8 ∨ s.chip.bubble ≠ 0 then s
    else s.withChip { s.chip with bubble := len })

end Sys2Proof.Machine
end

