-- ==== Sys2Proof/Machine/SystemSlots.lean ====
section
/-! DEFINITION. The system class: traps, the return from the handler, context images, control registers, invalidation,
access counters, the Skiver's instructions (16 R291 to R296, 19 R350 to R354, 20 R372 to R378). -/

namespace Sys2Proof.Machine

-- Traps and the handler (R350, R351). ----------------------------------------------------------------------------

/-- `trap` (R350): *software trap* after its bundle commits. -/
def execTrap (st : Bool) (k : BitVec 18) (s : State) : Host.Outcome State Fault Refusal :=
  finishSlot 6 0x60 st (fun _ _ _ => { effects := [.raise .softwareTrap (k.setWidth 64)] }) s

/-- Reason 0x40: a slot that needs handler mode, at step 5 of R35 (R351, R353). -/
def needHandler (t : Task) (op : Nat) : List EncFail :=
  if t.inh then [] else [{ step := 5, reason := 0x40, value := op, field := 0 }]

/-- Reason 0x41: a control slot beside `rfe` (R351). -/
def noControl (b : Bundle) : List EncFail := if holdsControl b then undef 0x41 0x61 0 else []

/-- `rfe` (R351). -/
def execRfe (st : Bool) (s : State) : Host.Outcome State Fault Refusal :=
  finishSlot 6 0x61 st (fun _ s t =>
    { encs := needSup t ++ needHandler t 0x61 ++ noControl s.bundle ++ inLoop t 0x61, effects := [.rfe] }) s

-- Context images (R352, R353). -----------------------------------------------------------------------------------

/-- The checks of the address of an image (R352). -/
def imageAddrFault (acc : Acc) (va : W64) : Option TrapInfo :=
  if !canonical va then some { cause := .pageFault, word := pageFaultWord 0x01 0 acc 0 0, target := some va }
  else faultIf (va.toNat % 4096 != 0) (misaligned 4096 va)

/-- `ctx.save` stages its image (R352). -/
def stageCtxSave (a : Code) (core : Nat) (_ : State) (t : Task) : Staged :=
  let va := if a.toNat = 56 then t.saveptr else rdG core t a
  { encs := needSup t ++ srcG a 2, fault := imageAddrFault .write va, waits := [.savePoint], effects := [.ctxSave va] }

/-- `ctx.save` (R352). -/
def execCtxSave (st : Bool) (a : Code) (s : State) : Host.Outcome State Fault Refusal :=
  finishSettled 6 0x62 st (stageCtxSave a) s

/-- *permission* with a reason of R353. -/
def imageRefused (reason : Nat) : TrapInfo := { cause := .permission, word := BitVec.ofNat 64 reason }

/-- `ctx.load` stages the image it reads (R353). -/
def stageCtxLoad (a : Code) (core : Nat) (s : State) (t : Task) : Staged :=
  let va := rdG core t a
  let base : Staged := { encs := needSup t ++ needHandler t 0x63 ++ srcG a 2, waits := bankWaits t 0 64 }
  match imageAddrFault .read va with
  | some f => { base with fault := some f }
  | none =>
    match loadParts s (imageCtx core t) t.answers va with
    | .error f => { base with fault := some f }
    | .ok r =>
      if r.needs ≠ [] then { base with waits := base.waits ++ r.needs.map .answer, fills := r.fills }
      else
        { base with fault := (loadBad s core s.bundle.slot (imageOf r.parts core t)).map imageRefused, fills := r.fills,
                    effects := windowEffects s r.reads ++ [.ctxLoad r.parts] }

/-- `ctx.load` (R353). -/
def execCtxLoad (st : Bool) (a : Code) (s : State) : Host.Outcome State Fault Refusal :=
  finishSettled 6 0x63 st (stageCtxLoad a) s

/-- `ctx.load.new` stages the image it reads (R353). A slot operand with a bit above [1:0] names no free slot. -/
def stageCtxLoadNew (a b : Code) (core : Nat) (s : State) (t : Task) : Staged :=
  let va := rdG core t a
  let sl := (rdG core t b).toNat
  let base : Staged := { encs := needSup t ++ srcG a 2 ++ srcG b 3 }
  match imageAddrFault .read va with
  | some f => { base with fault := some f }
  | none =>
    match loadParts s (imageCtx core t) t.answers va with
    | .error f => { base with fault := some f }
    | .ok r =>
      if r.needs ≠ [] then { base with waits := r.needs.map .answer, fills := r.fills }
      else
        let img := imageOf r.parts core (taskOfTag s (partField r.parts 0x20 8) (partField r.parts 0x18 8))
        let bad := if sl > 3 then some 1 else loadNewBad s core sl img
        { base with fault := bad.map imageRefused, fills := r.fills,
                    effects := windowEffects s r.reads ++ [.ctxLoadNew r.parts sl] }

/-- `ctx.load.new` (R353). -/
def execCtxLoadNew (st : Bool) (a b : Code) (s : State) : Host.Outcome State Fault Refusal :=
  finishSettled 6 0x63 st (stageCtxLoadNew a b) s

-- Control registers (R354). --------------------------------------------------------------------------------------

/-- The checks of a control register number (R46, R354). -/
def crEncs (t : Task) (n : Nat) (write : Bool) : List EncFail :=
  (if crAssigned n then [] else undef 2 (n % 256) 5) ++ (if crOpen n write then [] else needSup t)

/-- `cr.rd` stages its result (R354). -/
def stageCrRd (d : Code) (n : BitVec 12) (core : Nat) (s : State) (t : Task) : Staged :=
  { encs := crEncs t n.toNat false ++ dstG d 1, dests := destG d, effects := wrG d latNext (crValue s core t n.toNat) }

/-- `cr.rd` (R354). -/
def execCrRd (st : Bool) (d : Code) (n : BitVec 12) (s : State) : Host.Outcome State Fault Refusal :=
  finishSlot 6 0x64 st (stageCrRd d n) s

/-- `cr.wr` stages its write (R354). -/
def stageCrWr (d : Code) (n : BitVec 12) (core : Nat) (s : State) (t : Task) : Staged :=
  let base : Staged := { encs := crEncs t n.toNat true ++ srcG d 1 }
  if crAssigned n.toNat && (t.sup || crOpen n.toNat true) then base.and (stageCrWrite s core t n.toNat (rdG core t d)) else base

/-- `cr.wr` (R354). -/
def execCrWr (st : Bool) (d : Code) (n : BitVec 12) (s : State) : Host.Outcome State Fault Refusal :=
  finishSettled 6 0x65 st (stageCrWr d n) s

-- Invalidation of translations (R291, R292). ---------------------------------------------------------------------

/-- `tlb.inv` of a kind stages its removal, after every earlier store of the task (R291). -/
def stageTlbInv (kind : Nat) (a b : Code) (core : Nat) (_ : State) (t : Task) : Staged :=
  let ab := if kind = 0 ∨ kind = 2 then srcG a 2 ++ srcG b 3 else []
  { encs := needSup t ++ ab, waits := releaseWaits t,
    effects := [.tlbInv kind (t.tasid.toNat % 2 ^ 16) ((rdG core t a).toNat % 2 ^ 57) (rdG core t b).toNat] }

/-- `tlb.inv` (R291). -/
def execTlbInv (st : Bool) (a b : Code) (s : State) : Host.Outcome State Fault Refusal :=
  finishSettled 6 0x66 st (stageTlbInv 0 a b) s

/-- `tlb.inv.asid` (R291). -/
def execTlbInvAsid (st : Bool) (s : State) : Host.Outcome State Fault Refusal :=
  finishSettled 6 0x66 st (stageTlbInv 1 56 56) s

/-- `tlb.inv.any` (R291). -/
def execTlbInvAny (st : Bool) (a b : Code) (s : State) : Host.Outcome State Fault Refusal :=
  finishSettled 6 0x66 st (stageTlbInv 2 a b) s

/-- `tlb.inv.all` (R291). -/
def execTlbInvAll (st : Bool) (s : State) : Host.Outcome State Fault Refusal :=
  finishSettled 6 0x66 st (stageTlbInv 3 56 56) s

/-- What a `tlb.sync` waits for: the bodies, the write-backs and the stores to apertures under way when it was first executed
(R292). -/
def syncWait (s : State) (t : Task) : Wait :=
  let now : Wait := .landed (bodiesMoving s) (rowsQueued s) s.nextId
  match t.stall with
  | some st => (st.waits.find? fun w => match w with | .landed _ _ _ => true | _ => false).getD now
  | none => now

/-- `tlb.sync` stages its wait (R292): an invalidation takes effect at its commit, so the accesses under way remain. -/
def stageTlbSync (_ : Nat) (s : State) (t : Task) : Staged :=
  { encs := needSup t, waits := syncWait s t :: releaseWaits t }

/-- `tlb.sync` (R292). -/
def execTlbSync (st : Bool) (s : State) : Host.Outcome State Fault Refusal := finishSettled 6 0x67 st stageTlbSync s

-- Access counters (R296). ----------------------------------------------------------------------------------------

/-- `ctr.rd` and `ctr.rd.clr` stage their result (R296). -/
def stageCtrRd (d a : Code) (c : Bool) (core : Nat) (s : State) (t : Task) : Staged :=
  let base : Staged := { encs := needSup t ++ dstG d 1 ++ srcG a 2, dests := destG d }
  match place s (imageCtx core t) .read 8 (rdG core t a) with
  | .error f => { base with fault := some f }
  | .ok r =>
    { base with fills := r.fills,
                effects := if c then [.counterTake d.toNat r.pa] else wrG d latNext (counterWord s r.pa) }

/-- `ctr.rd`, `ctr.rd.clr` (R296). The second reads the entry in the step that clears it, when its bundle commits. -/
def execCtrRd (st : Bool) (d a : Code) (c : Bool) (s : State) : Host.Outcome State Fault Refusal :=
  finishSlot 6 0x68 st (stageCtrRd d a c) s

-- The Skiver's instructions (R372 to R374). ----------------------------------------------------------------------

/-- `xlt.inval` stages its removal, after every earlier store of the task and every atom that is still running (R372). -/
def stageXltInval (a b : Code) (core : Nat) (_ : State) (t : Task) : Staged :=
  { encs := needSup t ++ srcG a 2 ++ srcG b 3, waits := releaseWaits t ++ [.atomsDone],
    effects := [.xltInval t.troot ((rdG core t a).toNat % 2 ^ 57) (rdG core t b).toNat] }

/-- `xlt.inval` (R372). -/
def execXltInval (st : Bool) (a b : Code) (s : State) : Host.Outcome State Fault Refusal :=
  finishSettled 6 0x69 st (stageXltInval a b) s

/-- `xlt.pin` and `xlt.unpin` stage their marks (R373). -/
def stageXltPin (pin : Bool) (a b : Code) (core : Nat) (s : State) (t : Task) : Staged :=
  let va := (rdG core t a).toNat % 2 ^ 57
  let len := (rdG core t b).toNat
  { encs := needSup t ++ srcG a 2 ++ srcG b 3,
    fault := faultIf (pin && pinBad s (dieOf core) (t.objid.getD 0) va len) (translationFault 3),
    effects := [.xltPin pin va len] }

/-- `xlt.pin` (R373). -/
def execXltPin (st : Bool) (a b : Code) (s : State) : Host.Outcome State Fault Refusal :=
  finishSlot 6 0x6A st (stageXltPin true a b) s

/-- `xlt.unpin` (R373). -/
def execXltUnpin (st : Bool) (a b : Code) (s : State) : Host.Outcome State Fault Refusal :=
  finishSlot 6 0x6A st (stageXltPin false a b) s

/-- `xlt.hint` (R374): allowed at task privilege. -/
def execXltHint (st : Bool) (a b : Code) (m : Tier) (s : State) : Host.Outcome State Fault Refusal :=
  finishSlot 6 0x6B st (fun core _ t =>
    { encs := srcG a 2 ++ srcG b 3, effects := [.xltHint m ((rdG core t a).toNat % 2 ^ 57) (rdG core t b).toNat] }) s

end Sys2Proof.Machine
end

