-- ==== Sys2Proof/Machine/Microcode.lean ====
section
/-! DEFINITION. Microcode: what a body may hold, how it runs as the effect of one slot, and `mc.ld` (02 R47, 20 R356 to R360,
R375 to R377). -/

namespace Sys2Proof.Machine

-- The slots a body may hold (R375). ------------------------------------------------------------------------------

/-- What a slot of classes 000, 010 and 011 stages; none for a slot of another class. -/
def stageOf : Instr → Option (Nat → State → Task → Staged)
  | .add _ d a b => some (stageAdd d a b)
  | .sub _ d a b => some (stageSub d a b)
  | .mul _ d a b => some (stageMul d a b)
  | .mulh _ d a b => some (stageMulh d a b)
  | .mulhn _ d a b => some (stageMulhn d a b)
  | .div _ d a b => some (stageDiv d a b)
  | .divn _ d a b => some (stageDivn d a b)
  | .rem _ d a b => some (stageRem d a b)
  | .remn _ d a b => some (stageRemn d a b)
  | .and _ d a b => some (stageAnd d a b)
  | .or _ d a b => some (stageOr d a b)
  | .xor _ d a b => some (stageXor d a b)
  | .andn _ d a b => some (stageAndn d a b)
  | .shl _ d a b => some (stageShl d a b)
  | .shr _ d a b => some (stageShr d a b)
  | .sha _ d a b => some (stageSha d a b)
  | .rot _ d a b => some (stageRot d a b)
  | .min _ d a b => some (stageMin d a b)
  | .max _ d a b => some (stageMax d a b)
  | .minn _ d a b => some (stageMinn d a b)
  | .maxn _ d a b => some (stageMaxn d a b)
  | .mad _ d a b => some (stageMad d a b)
  | .clz _ d a => some (stageClz d a)
  | .ctz _ d a => some (stageCtz d a)
  | .popc _ d a => some (stagePopc d a)
  | .mov _ d a => some (stageMov d a)
  | .leaRrScale12 _ d a b x => some (stageLeaRrScale12 d a b x)
  | .leaRrScale48 _ d a b x => some (stageLeaRrScale48 d a b x)
  | .cmp _ d a b m c => some (stageCmp d a b m c)
  | .sel _ d a b n c => some (stageSel d a b n c)
  | .ext _ d a p l => some (stageExt d a p l)
  | .extn _ d a p l => some (stageExtn d a p l)
  | .ins _ d a p l => some (stageIns d a p l)
  | .wid _ d k => some (stageWid d k)
  | .leaRi _ d a i => some (stageLeaRi d a i)
  | .addi _ d a i => some (stageAddi d a i)
  | .andi _ d a i => some (stageAndi d a i)
  | .ori _ d a i => some (stageOri d a i)
  | .xori _ d a i => some (stageXori d a i)
  | .cmpi _ k c a i => some (stageCmpi k c a i)
  | .shli _ d a n => some (stageShli d a n)
  | .shri _ d a n => some (stageShri d a n)
  | .shai _ d a n => some (stageShai d a n)
  | .li _ d i => some (stageLi d i)
  | .lih _ d i => some (stageLih d i)
  | .vadd _ d a b t p => some (stageVadd d a b t p)
  | .vsub _ d a b t p => some (stageVsub d a b t p)
  | .vmul _ d a b t p => some (stageVmul d a b t p)
  | .vaddFtz _ d a b t p => some (stageVaddFtz d a b t p)
  | .vsubFtz _ d a b t p => some (stageVsubFtz d a b t p)
  | .vmulFtz _ d a b t p => some (stageVmulFtz d a b t p)
  | .vaddSat _ d a b t p => some (stageVaddSat d a b t p)
  | .vsubSat _ d a b t p => some (stageVsubSat d a b t p)
  | .vmulSat _ d a b t p => some (stageVmulSat d a b t p)
  | .vfma _ d a b t p => some (stageVfma d a b t p)
  | .vfms _ d a b t p => some (stageVfms d a b t p)
  | .vfnma _ d a b t p => some (stageVfnma d a b t p)
  | .vsha _ d a b t p => some (stageVsha d a b t p)
  | .vmin _ d a b t p => some (stageVmin d a b t p)
  | .vmax _ d a b t p => some (stageVmax d a b t p)
  | .vmaxn _ d a b t p => some (stageVmaxn d a b t p)
  | .vminn _ d a b t p => some (stageVminn d a b t p)
  | .vshr _ d a b t p => some (stageVshr d a b t p)
  | .vshl _ d a b t p => some (stageVshl d a b t p)
  | .vcmp _ c k a b t p => some (stageVcmp c k a b t p)
  | .vcvt _ d a e r t p => some (stageVcvt d a e r t p)
  | .vabs _ d a t p => some (stageVabs d a t p)
  | .vneg _ d a t p => some (stageVneg d a t p)
  | .vnot _ d a t p => some (stageVnot d a t p)
  | .vmov _ d a t p => some (stageVmov d a t p)
  | .vrcp _ d a t p => some (stageVrcp d a t p)
  | .vrsqrt _ d a t p => some (stageVrsqrt d a t p)
  | .vsqrt _ d a t p => some (stageVsqrt d a t p)
  | .vexp2 _ d a t p => some (stageVexp2 d a t p)
  | .vlog2 _ d a t p => some (stageVlog2 d a t p)
  | .vbcast _ d a t p => some (stageVbcast d a t p)
  | .vli _ d a t p => some (stageVli d a t p)
  | .vcompress _ d a t p => some (stageVcompress d a t p)
  | .vexpand _ d a t p => some (stageVexpand d a t p)
  | .vredAdd _ d a t p => some (stageVredAdd d a t p)
  | .vredMin _ d a t p => some (stageVredMin d a t p)
  | .vredMax _ d a t p => some (stageVredMax d a t p)
  | .vredMinn _ d a t p => some (stageVredMinn d a t p)
  | .vredMaxn _ d a t p => some (stageVredMaxn d a t p)
  | .vredAnd _ d a t p => some (stageVredAnd d a t p)
  | .vredOr _ d a t p => some (stageVredOr d a t p)
  | .vredXor _ d a t p => some (stageVredXor d a t p)
  | .vscanAdd _ d a t p => some (stageVscanAdd d a t p)
  | .vscanMin _ d a t p => some (stageVscanMin d a t p)
  | .vscanMax _ d a t p => some (stageVscanMax d a t p)
  | .vcvtFormat _ d a t p f n => some (stageVcvtFormat d a t p f n)
  | .kand _ d a b => some (stageKand d a b)
  | .kor _ d a b => some (stageKor d a b)
  | .kxor _ d a b => some (stageKxor d a b)
  | .knot _ d a => some (stageKnot d a)
  | .kpop _ d a => some (stageKpop d a)
  | .vtoc _ d a b => some (stageVtoc d a b)
  | .vany _ d a b => some (stageVany d a b)
  | .vall _ d a b => some (stageVall d a b)
  | .vext _ d a b w => some (stageVext d a b w)
  | .vins _ d a b w => some (stageVins d a b w)
  | .vperm _ d a b w => some (stageVperm d a b w)
  | .vclampInt _ d a b t => some (stageVclampInt d a b t)
  | .vclampFp _ d a b t => some (stageVclampFp d a b t)
  | .vand _ d a b => some (stageVand d a b)
  | .vor _ d a b => some (stageVor d a b)
  | .vxor _ d a b => some (stageVxor d a b)
  | .vsel _ d a b w k => some (stageVsel d a b w k)
  | .ldRr _ d a b w x => some (stageLdRr d a b w x)
  | .ldRi _ d a i => some (stageLdRi d a i)
  | .stRr _ d a b w x => some (stageStRr d a b w x)
  | .stRi _ d a i => some (stageStRi d a i)
  | .ldA _ d a b w x => some (stageLdA d a b w x)
  | .chkA _ d a b w x => some (stageChkA d a b w x)
  | .vldRr _ d a b x p => some (stageVldRr d a b x p)
  | .vldRi _ d a i => some (stageVldRi d a i)
  | .vstRr _ d a b x p => some (stageVstRr d a b x p)
  | .vstRi _ d a i => some (stageVstRi d a i)
  | .vldb _ d a b w p => some (stageVldb d a b w p)
  | .vldA _ d a b x p => some (stageVldA d a b x p)
  | .vchkA _ d a b p => some (stageVchkA d a b p)
  | .vldg _ d a b w c p => some (stageVldg d a b w c p)
  | .vsts _ d a b w c p => some (stageVsts d a b w c p)
  | .zpop _ d a p => some (stageZpop d a p)
  | .ydesc _ d a i => some (stageYdesc d a i)
  | .vldy _ d a b y => some (stageVldy d a b y)
  | .vsty _ d a b y z => some (stageVsty d a b y z)
  | .atom _ d a b c o => some (stageAtom d a b c o)
  | .vatom _ d a b o p => some (stageVatom d a b o p)
  | _ => none

/-- A slot with the code in a field replaced. -/
def codeSet (w pos n : Nat) : Nat := w - codeAt w pos * 2 ^ (24 - 6 * pos) + n * 2 ^ (24 - 6 * pos)

/-- The file an entry declares for the code 58, 59 or 60 (R375, R376). -/
def declared (u : UEntry) (n : Nat) : Nat := if n = 58 then u.fd else if n = 59 then u.fa else u.fb

/-- Whether a field of a body's slot breaks R375. -/
def fieldBad (u : UEntry) (w : Nat) (x : Nat × Nat × Bool × Bool) : Bool :=
  let n := codeAt w x.1
  let named : Bool := decide (x.2.1 ≠ 0) && declared u n == x.2.1
  (x.2.2.2 && !((decide (48 ≤ n) && decide (n ≤ 56)) || (n == 58 && named))) ||
  (x.2.2.1 && !(decide (n ≤ 57) || n == 61 || (n == 62 && x.1 != 1) || (decide (58 ≤ n) && decide (n ≤ 60) && named)))

/-- Whether a slot may not stand in a body (R375): another class, no instruction, or a code it may not name. -/
def slotBad (u : UEntry) (w : Nat) : Bool :=
  match decode (w % 2 ^ 31) with
  | .error _ => true
  | .ok i => (stageOf i).isNone || (slotFields w).any (fieldBad u w)

/-- The first long word of a list of slots, at most 8, and the slots after it; none where no stop bit ends it (R356). -/
def takeLong : Nat → List Nat → Option (List Nat × List Nat)
  | 0, _ => none
  | _, [] => none
  | n + 1, w :: l => if w / 2 ^ 31 % 2 = 1 then some ([w], l) else (takeLong n l).map fun r => (w :: r.1, r.2)

/-- `n` long words from the front of a list of slots. -/
def takeLongs : Nat → List Nat → Option (List (List Nat))
  | 0, _ => some []
  | n + 1, l => (takeLong 8 l).bind fun r => (takeLongs n r.2).map fun x => r.1 :: x

/-- The unit that a slot of a class takes after the unit of the slot before it (R356): I0 1, I1 2, V0 3, V1 4, L 5. -/
def unitAfter (before cls : Nat) : Option Nat :=
  match cls with
  | 0 => if before < 1 then some 1 else if before = 1 then some 2 else none
  | 2 => if before < 3 then some 3 else if before = 3 then some 4 else none
  | 3 => if before < 5 then some 5 else none
  | _ => none

/-- The slots of a long word with their units; none where they break the order of R356. -/
def unitsOf : Nat → List Nat → Option (List (Nat × Nat))
  | _, [] => some []
  | before, w :: l => (unitAfter before (w / 2 ^ 28 % 8)).bind fun u => (unitsOf u l).map fun r => (u, w) :: r

/-- The long words of an entry's body with the units of their slots. -/
def bodyOf (slots : List Nat) (u : UEntry) : Option (List (List (Nat × Nat))) :=
  (takeLongs u.len (slots.drop u.start)).bind fun l => l.mapM (unitsOf 0)

-- Running a body (R357 to R360, R375). ---------------------------------------------------------------------------

/-- A slot of a body with the codes of the invoking slot in place of 58 to 60, and codes 58 and 59 in place of the hold
latches of A and B. -/
def bodySlot (inv : Nat) (w : Nat) : Nat :=
  (slotFields w).foldl (fun a x =>
    let n := codeAt w x.1
    if 58 ≤ n ∧ n ≤ 60 then codeSet a x.1 (codeAt inv (n - 57))
    else if n = 62 then codeSet a x.1 (56 + x.1)
    else a) w

/-- What the codes above 47 read in a slot on a unit (R358, R359, R375): latches, the hold latches of its fields, F. -/
def microValues (c : Core) (unit inv : Nat) : List (Nat × VReg) :=
  ((List.range 8).map fun i => (48 + i, c.latches[i]?.getD 0)) ++
    [(58, c.holds[2 * unit]?.getD 0), (59, c.holds[2 * unit + 1]?.getD 0), (61, BitVec.ofNat 2048 (fF inv))]

/-- The hold latches that the reads of a slot on a unit load (R359). -/
def holdsOf (t : Task) (unit : Nat) (w : Nat) : List Effect :=
  (slotFields w).flatMap fun x =>
    let n := codeAt w x.1
    if x.1 = 1 ∨ !x.2.2.1 ∨ n ≥ 48 then []
    else if x.2.1 = 1 then [.hold (2 * unit + x.1 - 2) ((t.gReg n).setWidth 2048)]
    else if x.2.1 = 2 then [.hold (2 * unit + x.1 - 2) (t.vReg n)]
    else []

/-- The checks of R35 that a slot of a body can still fail: a vector register the task does not have, a number beyond its
file. -/
def bodyEnc (e : EncFail) : Bool := e.step == 1 && (e.reason == 0x11 || e.reason == 5)

/-- Reason 4: a latch named as D by a slot that writes a predicate or a condition, or that has no register result (R358). -/
def latchBad (w : Nat) : List EncFail :=
  let n := codeAt w 1
  let wrong (x : Nat × Nat × Bool × Bool) : Bool := x.1 == 1 && x.2.1 != 0 && (!x.2.2.2 || decide (3 ≤ x.2.1))
  if 48 ≤ n ∧ n < 56 ∧ (slotFields w).any wrong then undef 4 n 1 else []

/-- What one slot of a long word comes to. -/
def microSlot (inv core unit w : Nat) (s : State) (t : Task) : Staged :=
  let x := bodySlot inv w
  match decode (x % 2 ^ 31) with
  | .error e => { encs := undef e.reason.code e.value e.field }
  | .ok i =>
    match stageOf i with
    | none => {}
    | some f =>
      let r := f core s { t with micro := microValues (s.core core) unit inv }
      { r with encs := latchBad x ++ r.encs.filter bodyEnc, dests := [], fault := (poisonRead t x).or r.fault,
               effects := r.effects ++ holdsOf t unit x }

/-- A register write of a body counts as visible to the next bundle. -/
def microEffect : Effect → Effect
  | .wr f r m v _ => .wr f r m v latNext
  | .wrKeep f r m v _ => .wrKeep f r m v latNext
  | .wrPart r m v _ part => .wrPart r m v latNext part
  | .fifoPop b r _ => .fifoPop b r latNext
  | .popStream z r p _ v => .popStream z r p latNext v
  | e => e

/-- A pop of a stream within a body: its value is written, while the stream moves on at the commit (R131). -/
def popValue : Effect → Effect
  | .popStream _ r p lat v => if r < 48 then .wr .v r p v lat else .latch (r - 48) p v
  | e => e

/-- The state that the next long word reads (R357): the effects of this one performed, every write landed. -/
def microNext (core slot : Nat) (s : State) (r : Staged) (es : List Effect) : State :=
  let s1 := ((es.map popValue).foldl (applyEffect core slot) s).updTask (taskKey core slot) Task.landAll
  s1.withBundle { s1.bundle with staged := s1.bundle.staged ++ [r] }

/-- The long words of a body run one after the other (R357, R375) on a state of their own; `met` says whether a wait is met
for the bundle. A long word that faults or waits is the last. -/
def microRun (inv core slot : Nat) (met : Wait → Bool) : List (List (Nat × Nat)) → State → Staged
  | [], _ => {}
  | l :: rest, s =>
    match s.task (taskKey core slot) with
    | none => {}
    | some t =>
      let r := l.foldl (fun (x : Staged) p => x.and (microSlot inv core p.1 p.2 s t)) {}
      if r.encs != [] || r.fault.isSome || !(r.waits.all met) then { r with effects := [] }
      else
        let es := (r.effects.flatMap (resolveAtomic s)).map microEffect
        ({ r with effects := es } : Staged).and (microRun inv core slot met rest (microNext core slot s r es))

/-- Effects of earlier slots of the bundle that pops and pushes of a body come after (R14, R251). -/
def takesQueue : Effect → Bool
  | .fifoPush _ _ => true
  | .fifoPop _ _ _ => true
  | _ => false

/-- Whether a body performs an atomic (R279). -/
def bodyAtomic (body : List (List (Nat × Nat))) : Bool := body.any fun l => l.any fun p => fOp p.2 == 0x3E || fOp p.2 == 0x3F

/-- Memory after the stores of the members of a gang's step that have finished theirs, which commit first: an atomic of a body
is one step with its store (R219, R279). -/
def afterMates (s : State) (t : Task) : State :=
  if !s.cadenced t then s
  else (s.tasksOf t.gid).foldl (fun (x : State) e =>
    if !heldGang e.2 then x
    else ((heldEffects e.2).flatMap (resolveAtomic x)).foldl (fun (y : State) f =>
      match f with | .store pa n v => { y with mem := memPut pa v n y.mem } | _ => y) x) s

/-- The state that the first long word of a body reads: no write of the task in flight is visible (R13), latches as the
bundle finds them (R360). -/
def microStart (core slot : Nat) (s : State) (body : List (List (Nat × Nat))) (t : Task) : State :=
  ((s.bundle.staged.flatMap (·.effects)).filter takesQueue).foldl (applyEffect core slot)
    ((if bodyAtomic body then afterMates s t else s).updTask (taskKey core slot) fun t => { t with pending := [] })

/-- The installed entry of an entry point and variant (R47). -/
def uentry (s : State) (e f : Nat) : Option UEntry := s.sky.uents.find? fun u => u.ep == e && u.f == f

/-- The checks of a field of a class 111 slot in its declared file (R34, R47). -/
def microField (t : Task) (file : Nat) (dest : Bool) (c : Code) (pos : Nat) : List EncFail :=
  match file with
  | 1 => if dest then dstG c pos else srcG c pos
  | 2 => if dest then dstV t.vcnt c pos else srcV t.vcnt c pos
  | 3 => inFile 16 c pos
  | 4 => inFile 8 c pos
  | _ => if c.toNat = 56 then [] else undef 3 c.toNat pos

/-- Whether a body writes the register named by D of its slot. -/
def bodyWritesD (body : List (List (Nat × Nat))) : Bool :=
  body.any fun l => l.any fun p => (slotFields p.2).any fun x => x.2.2.2 && codeAt p.2 x.1 == 58

/-- Whether a body only reads the register named by D of its slot (R32). -/
def bodyReadsD (body : List (List (Nat × Nat))) : Bool :=
  !bodyWritesD body && body.any fun l => l.any fun p => (slotFields p.2).any fun x => x.2.2.1 && codeAt p.2 x.1 == 58

/-- The destination of a class 111 slot (R12): D, where the body writes it. -/
def microDest (u : UEntry) (body : List (List (Nat × Nat))) (d : Code) : List (RegFile × Nat) :=
  if !bodyWritesD body then []
  else
    match u.fd with
    | 1 => destG d
    | 2 => destV d
    | 3 => destK d.toNat
    | 4 => [(.c, d.toNat)]
    | _ => []

/-- A class 111 slot stages the whole effect of its body (R47, R375). -/
def stageMicro (e : BitVec 4) (d a b : Code) (f : BitVec 6) (core : Nat) (s : State) (t : Task) : Staged :=
  match uentry s e.toNat f.toNat with
  | none => { encs := [{ step := 2 }] }
  | some u =>
    let body := (bodyOf s.sky.uslots u).getD []
    let slot := s.bundle.slot
    let inv := d.toNat * 2 ^ 18 + a.toNat * 2 ^ 12 + b.toNat * 2 ^ 6 + f.toNat
    let base : Staged :=
      { encs := microField t u.fd (!bodyReadsD body) d 1 ++ microField t u.fa false a 2 ++ microField t u.fb false b 3 ++
          (if u.priv then needSup t else []),
        dests := microDest u body d }
    base.and (microRun inv core slot (waitMet s core slot t) body (microStart core slot s body t))

/-- The class under which a class 111 slot counts (R12, R47): that of its entry. -/
def microClass (s : State) (e f : Nat) : Nat := ((uentry s e f).map (·.cls)).getD 0

/-- A class 111 slot (R47, R375). -/
def execMicrocodeSlot (st : Bool) (e : BitVec 4) (d a b : Code) (f : BitVec 6) (s : State) :
    Host.Outcome State Fault Refusal :=
  finishSettled (microClass s e.toNat f.toNat) (0x70 + e.toNat) st (stageMicro e d a b f) s

-- `mc.ld` (R376, R377). ------------------------------------------------------------------------------------------

/-- *permission* with a reason of R377 and an entry index. -/
def packageRefused (reason i : Nat) : TrapInfo := { cause := .permission, word := BitVec.ofNat 64 (reason + i * 2 ^ 32) }

/-- Whether the header of a package breaks R376. -/
def packageHeaderBad (h : Nat) : Bool :=
  let f (o n : Nat) : Nat := bitsOf h (8 * o) (8 * n)
  f 0 4 != 0x3150434D || f 4 2 == 0 || f 6 2 == 0 || decide (f 6 2 > 1024) || f 8 4 % 16 != 0 || f 0xC 4 % 32 != 0 ||
    f 0x10 4 % 4 != 0 || decide (f 0x10 4 > 16384) || f 0x18 4 != 3309 || f 0x1C 36 != 0 || decide (f 0x14 4 < 64) ||
    decide (f 0x14 4 < f 8 4 + 16 * f 6 2) || decide (f 0x14 4 < f 0xC 4 + f 0x10 4)

/-- Whether an entry of a package breaks the layout of R376. -/
def packageEntryBad (l : List Byte) (i : Nat) : Bool :=
  let o := pkgField l 8 4 + 16 * i
  let u := pkgEntry l i
  decide (u.ep > 15) || decide (u.f > 63) || decide (u.cls > 6) || decide (pkgField l (o + 3) 1 > 1) || decide (u.fd > 4) ||
    decide (u.fa > 4) || decide (u.fb > 4) || pkgField l (o + 10) 6 != 0

/-- Whether the body of an entry lies outside BODYSZ or breaks R356 or R375, its number of long words among it. -/
def packageBodyBad (slots : List Nat) (u : UEntry) : Bool :=
  u.len == 0 || decide (u.len > 64) ||
  match bodyOf slots u with
  | none => true
  | some l => l.any fun x => x.any fun p => slotBad u p.2

/-- The first check of step 3 of R377 that a package fails, after its header. -/
def packageFault (l : List Byte) : Option TrapInfo :=
  let n := pkgField l 0x14 4
  let ents := (List.range (pkgField l 6 2)).map (pkgEntry l)
  if (List.range (pkgField l 6 2)).any (packageEntryBad l) then some (packageRefused 1 0)
  else if !Config.verifies 2 (natBytes (Config.shake256 (l.take n)).toNat 64) ((l.drop n).take 3309) then
    some (packageRefused 2 0)
  else
    match ents.findIdx? (packageBodyBad (pkgSlots l)) with
    | some i => some (packageRefused 3 i)
    | none =>
      (ents.zipIdx.find? fun p => (ents.take p.2).any fun u => u.ep == p.1.ep && u.f == p.1.f).map fun p =>
        packageRefused 4 p.2

/-- Bytes of a package as supervisor loads place them (R377). -/
def placePackage (s : State) (core : Nat) (t : Task) (va : W64) (n : Nat) :
    Except TrapInfo (List (Nat × Nat × W64) × List TlbEntry) := placeAll s (imageCtx core t) .read (piecesOf va n)

/-- What reading them comes to besides their value. -/
def packageRead (s : State) (t : Task) (va : W64) (n : Nat) (r : Except TrapInfo (List (Nat × Nat × W64) × List TlbEntry)) : Staged :=
  let x := loadStaged s t va r
  { x with waits := x.waits ++ touchWaits s t false r }

/-- `mc.ld` stages the package it installs (R377), after every atom that is still running. The bytes of the package are those up
to the end of the signature as its header gives it. -/
def stageMcLd (a : Code) (core : Nat) (s : State) (t : Task) : Staged :=
  let va := rdG core t a
  let base : Staged := { encs := needSup t ++ srcG a 2 }
  let hp := placePackage s core t va 64
  let h := packageRead s t va 64 hp
  if canonical va && va.toNat % 64 != 0 then { base with fault := some (misaligned 64 va) }
  else if h.fault.isSome || h.waits != [] then base.and h
  else
    let v := loadValue s t hp
    let n := max 64 (bitsOf v (8 * 0x14) 32 + bitsOf v (8 * 0x18) 32)
    let rp := placePackage s core t va n
    let r := packageRead s t va n rp
    if r.fault.isSome || r.waits != [] then base.and r
    else if packageHeaderBad v then base.and { r with fault := some (packageRefused 1 0) }
    else
      let l := natBytes (loadValue s t rp) n
      base.and { r with fault := packageFault l, waits := [.atomsDone], effects := r.effects ++ [.ucode l] }

/-- `mc.ld` (R377). -/
def execMcLd (st : Bool) (a : Code) (s : State) : Host.Outcome State Fault Refusal := finishSettled 6 0x6C st (stageMcLd a) s

end Sys2Proof.Machine
end

