-- ==== Sys2Proof/Machine/EventsHost.lean ====
section
/-! DEFINITION. Events of the host and of the part: writes of control registers, accesses of the host, notices, attestation,
resets, temperature, errors, fences and life counters (14 R253, R254, R260, 17 R316, 24 R402 to R418). An event whose condition
does not hold changes nothing. -/

namespace Sys2Proof.Machine

-- Writes of control registers (R354, R403). ----------------------------------------------------------------------

/-- CONTROL_REGISTER_WRITE (R354). -/
def execControlRegisterWrite (who : Party) (n : BitVec 12) (v : BitVec 64) (s : State) : Host.Outcome State Fault Refusal :=
  .next (s.writeCr who n.toNat v)

/-- CSMODE_WRITE (R253). -/
def execCsmodeWrite (who : Party) (v : BitVec 64) (s : State) : Host.Outcome State Fault Refusal := .next (s.writeCr who 0x10 v)

/-- EVCNT_WRITE (R254). -/
def execEvcntWrite (who : Party) (v : BitVec 64) (s : State) : Host.Outcome State Fault Refusal := .next (s.writeCr who 0x12 v)

/-- FORMAT_WINDOW_ENABLE (R260): WCTL written with EN = 1. -/
def execFormatWindowEnable (who : Party) (w : Nat) (v : BitVec 64) (s : State) : Host.Outcome State Fault Refusal :=
  .next (if v.getLsbD 8 then s.writeCr who (0x104 + 8 * w) v else s)

/-- FORMAT_WINDOW_DISABLE (R260): WCTL written with EN = 0. -/
def execFormatWindowDisable (who : Party) (w : Nat) (v : BitVec 64) (s : State) : Host.Outcome State Fault Refusal :=
  .next (if v.getLsbD 8 then s else s.writeCr who (0x104 + 8 * w) v)

/-- PUBLISH_ENTRY_ENABLE (R316): PCTL written with EN = 1. -/
def execPublishEntryEnable (who : Party) (e : Nat) (v : BitVec 64) (s : State) : Host.Outcome State Fault Refusal :=
  .next (if v.getLsbD 0 then s.writeCr who (0x202 + 4 * e) v else s)

/-- FQRD_WRITE (R338). -/
def execFqrdWrite (who : Party) (v : BitVec 64) (s : State) : Host.Outcome State Fault Refusal := .next (s.writeCr who 0x34 v)

/-- XLTCTL_WRITE (R370). -/
def execXltctlWrite (who : Party) (v : BitVec 64) (s : State) : Host.Outcome State Fault Refusal := .next (s.writeCr who 0x40 v)

/-- CGCTL_WRITE (R398). -/
def execCgctlWrite (who : Party) (v : BitVec 64) (s : State) : Host.Outcome State Fault Refusal := .next (s.writeCr who 0x306 v)

-- Accesses of the host (R402 to R406). ---------------------------------------------------------------------------

/-- What the host is answered. -/
def State.toHost (s : State) (v : Option W64) : State := s.withNotes { s.notes with hostOut := v }

/-- An access of the host through BAR0: aligned 8-byte accesses only; any other reads zero and writes nothing (R403). -/
def State.bar0 (s : State) (write : Bool) (off size : Nat) (v : W64) : State :=
  if size ≠ 8 ∨ off % 8 ≠ 0 then (if write then s else s.toHost (some 0))
  else if write then s.hostWrite (off / 8) v
  else s.hostRead (off / 8)

/-- HOST_BAR0_ACCESS (R403, R404). -/
def execHostBar0Access (write : Bool) (off size : Nat) (v : BitVec 64) (s : State) : Host.Outcome State Fault Refusal :=
  .next (s.bar0 write off size v)

/-- The queue whose WRIDX a store of `n` bytes by the host meets (R405, R406). -/
def wridxAt (s : State) (pa n : Nat) : Option Nat :=
  (List.range n).findSome? fun i =>
    let o := pa + i - s.regs.qtbase.toNat
    if s.regs.qtbase.toNat ≤ pa + i ∧ o % 64 < 8 ∧ o / 64 < queueCount then some (o / 64) else none

/-- An access of the host to device memory (R402): a store goes to the line and wakes a queue whose WRIDX it writes (R406); a
read of poison is answered with poison (R414). -/
def State.hostMemory (s : State) (write : Bool) (pa size : Nat) (v : W64) : State :=
  if size = 0 ∨ size > 8 ∨ pa + size > usableSize s ∨ !s.chip.memOn then s
  else if write then
    let s1 := (s.store none pa size v.toNat).touchLines pa size
    match wridxAt s pa size with
    | some q => s1.wakeQueue q
    | none => s1
  else (s.touchLines pa size).toHost (if (poisonAt s pa size).isSome then none else some (BitVec.ofNat 64 (memNat s.mem pa size)))

/-- HOST_MEMORY_ACCESS (R402). -/
def execHostMemoryAccess (write : Bool) (pa size : Nat) (v : BitVec 64) (s : State) : Host.Outcome State Fault Refusal :=
  .next (s.hostMemory write pa size v)

/-- The first notice that waits is posted where the notice queue has room: the entry, WR, and MSI-X vector 1 (R408). -/
def State.postNotice (s : State) : State :=
  match s.notes.nqWait with
  | [] => s
  | r :: rest =>
    if queueShut s.regs.nqctl s.regs.nqwr s.regs.nqrd then s
    else
      let s1 := s.queueEntry s.regs.nqbase s.regs.nqctl s.regs.nqwr r
      let s2 := s1.withRegs { s1.regs with nqwr := (s.regs.nqwr + 1) % 2 ^ 32 }
      s2.withNotes { s2.notes with nqWait := rest, msix1 := s2.notes.msix1 + 1 }

/-- NOTICE_QUEUE_POST (R408). -/
def execNoticeQueuePost (s : State) : Host.Outcome State Fault Refusal := .next s.postNotice

/-- HOST_INVALIDATE (R409): the host writes HINVCTL with GO = 1. -/
def execHostInvalidate (v : BitVec 64) (s : State) : Host.Outcome State Fault Refusal :=
  .next (s.hostWrite 0x507 (v ||| 0x8000000000000000))

/-- DONE is set once the accesses with the translations removed have been performed: bodies, write-backs, stores and
atomics at apertures (R292, R409). -/
def State.hostInvalDone (s : State) : State :=
  if s.regs.hinvctl.getLsbD 62 ∨ bodiesMoving s ≠ [] ∨ rowsQueued s ≠ [] ∨
      (s.nets.outside.any fun o => o.store.isSome || o.atomic.isSome) then s
  else s.withRegs { s.regs with hinvctl := s.regs.hinvctl ||| 0x4000000000000000 }

/-- HOST_INVALIDATE_DONE (R409). -/
def execHostInvalidateDone (s : State) : Host.Outcome State Fault Refusal := .next s.hostInvalDone

-- Attestation (R412). --------------------------------------------------------------------------------------------

/-- ATTESTATION_REQUEST (R412): the host writes ATTCTL with GO = 1. -/
def execAttestationRequest (s : State) : Host.Outcome State Fault Refusal := .next (s.hostWrite 0x524 1)

/-- Bytes 0x000 to 0x237 of a report (R412). -/
def reportBody (s : State) : List Byte :=
  natBytes 0x31545441 4 ++ natBytes 1 4 ++ natBytes (s.chip.reports + 1) 8 ++
  s.regs.nonce.toList.flatMap (fun x => natBytes x.toNat 8) ++ s.chip.measure.toList.flatMap (fun x => natBytes x.toNat 64) ++
  natBytes s.sky.uver 4 ++ natBytes (s.regs.devid.toNat % 256) 4

/-- The signature of a report, 3309 bytes (R412). -/
def reportSign (body : List Byte) : List Byte :=
  let l := Config.signs (natBytes (Config.shake256 body).toNat 64)
  (List.range 3309).map fun i => l.getD i 0

/-- The report that was asked for is written and DONE set (R412); a buffer outside device memory sets ERR. -/
def State.attest (s : State) : State :=
  if s.regs.attctl.getLsbD 1 then s
  else if s.regs.attbuf.toNat + 0x1000 > usableSize s then s.withRegs { s.regs with attctl := 6 }
  else
    let b := reportBody s
    let s1 := s.storeBytes none s.regs.attbuf.toNat (b ++ reportSign b)
    (s1.withRegs { s1.regs with attctl := 2 }).withChip { s1.chip with reports := s1.chip.reports + 1 }

/-- ATTESTATION_DONE (R412). -/
def execAttestationDone (s : State) : Host.Outcome State Fault Refusal := .next s.attest

-- Resets (R410, R411). -------------------------------------------------------------------------------------------

/-- The step of R410 at which a boot fails; 0 where none does. An image whose signature the vendor key does not verify fails
step 1, a package that does not pass R377 step 4. -/
def bootFails (b : BootInput) : Nat :=
  if b.failStep = 1 ∨ !Config.verifies 0 (natBytes (Config.shake256 b.image).toNat 64) b.sig then 1
  else if b.failStep = 2 ∨ b.failStep = 3 then b.failStep
  else if b.package ≠ [] ∧ (packageHeaderBad (bytesNat (b.package.take 64)) || (packageFault b.package).isSome) then 4
  else if b.failStep = 4 ∨ b.failStep = 5 then b.failStep
  else 0

/-- The measurements of a boot that fails at a step, or at none (R410, R412): M0 extended with the digest of the image, M1 that
of the configuration as the firmware has started, M2 that of the package. -/
def bootMeasures (b : BootInput) (step : Nat) : Vector (BitVec 512) 8 :=
  let m := Vector.replicate 8 (0 : BitVec 512)
  if step = 1 then m
  else
    let m0 := m.set 0 (Config.measured 0 (Config.shake256 b.image))
    if step = 2 then m0
    else
      let m1 := m0.set 1 b.config
      if (step = 0 ∨ step = 5) ∧ b.package ≠ [] then m1.set 2 (Config.shake256 b.package) else m1

/-- A cold reset (R410, R411): every field as after reset, but the life counters, the fences of pseudo-channels, which take
effect at a cold reset (R415), and the model's own counters; the outcome of the boot in BOOTSTAT. -/
def State.coldReset (s : State) (b : BootInput) : State :=
  let f := bootFails b
  let u := (s.chip.fences ++ s.chip.fencing).filter fun x => x.code == 5
  let chip : Chip :=
    { life := s.chip.life, lifeNv := s.chip.lifeNv, fences := u, memOn := f == 0, measure := bootMeasures b f }
  let s1 : State :=
    { State.reset with
      draws := s.draws, nextId := s.nextId, chip := chip,
      regs := { State.reset.regs with bootstat := if f = 0 then 0xFF else BitVec.ofNat 64 f } }
  if b.package ≠ [] ∧ (f = 0 ∨ f = 5) then s1.installUcode b.package else s1

/-- COLD_RESET (R410). -/
def execColdReset (boot : BootInput) (s : State) : Host.Outcome State Fault Refusal := .next (s.coldReset boot)

/-- A launch that is not complete ends as its tasks are terminated (R341, R411): its groups that have not started never do. -/
def State.abortLaunch (s : State) (id : Nat) : State :=
  match mapGet id s.launches with
  | none => s
  | some l =>
    if l.phase = .done then s
    else
      let s1 := s.lateLaunch l
      s1.updLaunch id fun x =>
        { x with fail := some (failWord 0x20), phase := .candidate,
                 groups := x.admitted }

/-- EN of a queue cleared (R411). -/
def State.closeQueue (s : State) (q : Nat) : State :=
  if queueOn s q then s.setQueue q 0x18 (queueCtl s q - 2 ^ 23) else s

/-- Tasks that a pre-emption has saved end with their launches (R341). -/
def State.endGone (s : State) : State :=
  let s1 := s.gone.foldl (fun (x : State) g => x.updGroup g.gid fun y => { y with alive := y.alive - 1 }) s
  { s1 with gone := [] }

/-- A function-level reset (R411): every task terminated, every queue closed, every control register but DEVID and CGCTL at its
reset value. -/
def State.levelReset (s : State) : State :=
  let s0 : State := { s with agenda := [], bundle := {} }
  let s1 := s0.tasks.foldl (fun (x : State) e => x.terminate (e.1 / 4) (e.1 % 4)) s0.endGone
  let s2 := s1.launches.foldl (fun (x : State) e => x.abortLaunch e.1) s1
  let s3 := (List.range queueCount).foldl (fun (x : State) q => x.closeQueue q) s2
  let sky := { s3.xltAll.sky with uver := 0, uents := [], uslots := [], pins := [] }
  let s4 := (s3.xltAll.withSky sky).withRegs { State.reset.regs with
    devid := s.regs.devid, cgctl := s.regs.cgctl, cgstat := cgStart s.regs s.regs.cgctl, bootstat := 0 }
  let s5 := s4.withNets { s4.nets with stitch := none, stitchReq := none, stitchNew := none }
  let s6 := s5.withNotes { s5.notes with
    fqWait := s5.notes.fqWait.filter (fun w => w.req == 2 || w.req == 4), hostWrites := [] }
  let s7 := s6.withChip { s6.chip with
    bubble := 0, bubbles := [], lastMeasure := 0, lastCorrect := 0, holdStep := false, measured := false }
  s7.withCores (s7.cores.map fun e => (e.1, { e.2 with spill := none }))

/-- FUNCTION_LEVEL_RESET (R411). -/
def execFunctionLevelReset (s : State) : Host.Outcome State Fault Refusal := .next s.levelReset

-- Temperature (R413). --------------------------------------------------------------------------------------------

/-- A life event (R417): the counter counts one more and a notice of kind 5 gives its value. -/
def State.lifeEvent (s : State) (i : Nat) : State :=
  let s1 := s.lifeUp i
  s1.notice 5 (BitVec.ofNat 64 i) (BitVec.ofNat 64 (lifeGet s1 i)) 0

/-- A junction temperature of 105 °C or more (R413): every BUDGET is 0, and an excursion is recorded as it begins. -/
def State.excursion (s : State) (temp : Nat) : State :=
  if temp < 105 ∨ s.chip.hot then s
  else
    let zero (x : W64) : W64 := x &&& bitsMask 0 31
    ((s.withRegs { s.regs with pwr := s.regs.pwr.map zero }).withChip { s.chip with hot := true }).lifeEvent 0x4001

/-- THERMAL_EXCURSION (R413). -/
def execThermalExcursion (temp : Nat) (s : State) : Host.Outcome State Fault Refusal := .next (s.excursion temp)

/-- A junction temperature of 115 °C or more (R413): an excursion, and no core issues. -/
def State.overheats (s : State) (temp : Nat) : State :=
  if temp < 115 then s else (s.excursion temp).withChip { (s.excursion temp).chip with halted := true }

/-- THERMAL_STOP (R413). -/
def execThermalStop (temp : Nat) (s : State) : Host.Outcome State Fault Refusal := .next (s.overheats temp)

/-- THERMAL_RESUME (R413): below 105 °C the budget is no longer forced to 0; issue goes on below 100 °C. -/
def execThermalResume (temp : Nat) (s : State) : Host.Outcome State Fault Refusal :=
  .next (if temp ≥ 105 then s else s.withChip { s.chip with hot := false, halted := s.chip.halted && decide (temp ≥ 100) })

-- Errors and fences (R414, R415). --------------------------------------------------------------------------------

/-- Whether a cadenced launch that runs has a group, not yet finished, on a cluster (R218). -/
def cadencedUses (s : State) (k : Nat) (f : Packet → Bool) : Bool :=
  s.launches.any fun e =>
    let l := e.2
    l.pkt.mode == 1 && l.pkt.kind == 1 && l.phase == .candidate && f l.pkt &&
      (List.range l.groups).any fun g => (l.cluster + g) % 64 == k &&
        !(s.groups.any fun x => x.2.launch == l.id && x.2.index == g && x.2.phase == .finished)

/-- Whether a fence that waits can take effect (R361, R415). -/
def fenceReady (s : State) (u : UnitFence) : Bool :=
  let quiet := (List.range 4).all fun sl => (s.task (taskKey u.num sl)).isNone
  let c := s.cluster (u.num / 32)
  let b := c.banks[u.num % 32]?.getD {}
  let left := (c.banks.toList.filter fun x => !x.fenced).length
  !(s.chip.fenceHold.any fun h => h.1 == u && (s.launch h.2).phase != .done) &&
  match u.code with
  | 1 => quiet
  | 2 => quiet
  | 3 => quiet && !cadencedUses s (u.num / 8) fun p => decide (u.num % 8 < p.gsize)
  | 4 => b.owner.isNone && !cadencedUses s (u.num / 32) fun p => decide (left ≤ p.csn)
  | _ => false

/-- A fence takes effect (R415). -/
def State.fenceIs (s : State) (u : UnitFence) : State :=
  match u.code with
  | 1 => s.updCore u.num fun c => { c with noI1 := true }
  | 2 => s.updCore u.num fun c => { c with noV1 := true }
  | 3 => s.updCore u.num fun c => { c with fenced := true }
  | 4 => s.updCluster (u.num / 32) fun c =>
    { c with banks := c.banks.setIfInBounds (u.num % 32) { (c.banks[u.num % 32]?.getD {}) with fenced := true } }
  | _ => s

/-- A fence that waits takes effect where its unit is quiescent and not needed (R415). -/
def State.fenceEffect (s : State) (code num : Nat) : State :=
  let u : UnitFence := { code := code, num := num }
  if !s.chip.fencing.contains u ∨ !fenceReady s u then s
  else (s.withChip { s.chip with
    fencing := s.chip.fencing.erase u, fences := s.chip.fences ++ [u], fenceHold := s.chip.fenceHold.filter fun h => h.1 != u }).fenceIs u

/-- UNIT_FENCE_EFFECT (R415). -/
def execUnitFenceEffect (code num : Nat) (s : State) : Host.Outcome State Fault Refusal := .next (s.fenceEffect code num)

/-- The working channel that holds a physical address of device memory (R258). -/
def channelOf (s : State) (pa : Nat) : Nat :=
  let l := (List.range 1280).filter fun n => !(s.chip.fences.contains { code := 5, num := n })
  l.getD (pa / 256 % max l.length 1) 0

/-- The unit of R415 that an error strikes, where it strikes one. -/
def unitOf (s : State) : ErrTarget → Option UnitFence
  | .mem pa =>
    match regionOf s pa with
    | .device => some { code := 5, num := channelOf s pa }
    | .near => some { code := 3, num := (pa - 0x080000000000) / 0x40000 }
    | .cluster => some { code := 4, num := (pa - 0x080100000000) / 0x20000 }
    | _ => none
  | .reg c _ _ _ => some { code := 3, num := c }
  | .hist c _ => some { code := 3, num := c }
  | .xlat _ => none
  | .ucode c => some { code := 3, num := c }
  | .unit code num =>
    if (code = 1 ∨ code = 2 ∨ code = 3) ∧ num < 512 ∨ code = 4 ∧ num < 2048 ∨ code = 5 ∧ num < 1280 then
      some { code := code, num := num }
    else none

/-- The uncorrectable and corrected errors counted of a unit. -/
def errsOf (s : State) (u : UnitFence) : Nat × Nat :=
  match s.chip.errs.find? fun e => e.1 == u.code && e.2.1 == u.num with
  | some e => e.2.2
  | none => (0, 0)

/-- A unit to be fenced (R415): a replacement request, and a life event. -/
def State.fence (s : State) (u : UnitFence) (count : Nat) : State :=
  if s.chip.fences.contains u ∨ s.chip.fencing.contains u then s
  else
    ((s.withChip { s.chip with fencing := s.chip.fencing ++ [u] }).notice 3 (BitVec.ofNat 64 u.code) (BitVec.ofNat 64 u.num)
      (BitVec.ofNat 64 count)).lifeEvent 0x4014

/-- An error counted of a unit; the second uncorrectable one, or 1024 corrected ones of a life interval, fence it (R415). -/
def State.countError (s : State) (u : UnitFence) (fatal : Bool) : State :=
  let o := errsOf s u
  let n : Nat × Nat := if fatal then (o.1 + 1, o.2) else (o.1, o.2 + 1)
  let rest := s.chip.errs.filter fun e => !(e.1 == u.code && e.2.1 == u.num)
  let s1 := s.withChip { s.chip with errs := rest ++ [(u.code, u.num, n.1, n.2)] }
  if fatal ∧ n.1 ≥ 2 then s1.fence u n.1
  else if !fatal ∧ n.2 ≥ 1024 then s1.fence u n.2
  else s1

/-- What an uncorrectable error leaves where it strikes: poison, or a dropped entry that is fetched again (R414). -/
def State.poisoned (s : State) : ErrTarget → State
  | .mem pa =>
    let g := pa / 64 * 64
    if regionOf s pa ≠ .device ∧ regionOf s pa ≠ .near ∧ regionOf s pa ≠ .cluster ∨ s.chip.poison.contains g then s
    else s.withChip { s.chip with poison := s.chip.poison ++ [g] }
  | .reg c sl f n =>
    s.updTask (taskKey c sl) fun t => if t.poison.contains (f, n) then t else { t with poison := t.poison ++ [(f, n)] }
  | .hist c n => s.updCore c fun x => if n ≥ 64 ∨ x.histBad.contains n then x else { x with histBad := x.histBad ++ [n] }
  | .xlat c => s.withSky { s.sky with xlat := s.sky.xlat.filter fun e => e.die != dieOf c }
  | .ucode _ => s
  | .unit _ _ => s

/-- A bit error (R414): a corrected one is counted; an uncorrectable one poisons and is counted. -/
def State.bitError (s : State) (x : ErrTarget) (fatal : Bool) : State :=
  let s1 := if fatal then (s.poisoned x).lifeUp 0x4000 else s.lifeUp (Config.correctedIndex x % 0x4000)
  match unitOf s x with
  | some u => s1.countError u fatal
  | none => s1

/-- SOFT_ERROR (R414). -/
def execSoftError (target : ErrTarget) (fatal : Bool) (s : State) : Host.Outcome State Fault Refusal :=
  .next (s.bitError target fatal)

-- Life of the part (R414, R416, R417). ---------------------------------------------------------------------------

/-- HBM_SCRUB (R414): once every 2^45 cycles; what a scrub corrects is invisible. -/
def execHbmScrub (s : State) : Host.Outcome State Fault Refusal :=
  .next (if s.chip.cycles < s.chip.lastScrub + 2 ^ 45 then s else s.withChip { s.chip with lastScrub := s.chip.cycles })

/-- The life counters written to nonvolatile store (R417). -/
def State.saveLife (s : State) : State := s.withChip { s.chip with lifeNv := s.chip.life }

/-- The end of a life interval of 2^30 cycles (R417): the corrected errors of units count from zero again (R415). -/
def State.lifeInterval (s : State) : State :=
  if s.chip.cycles < s.chip.lastFlush + 2 ^ 30 then s
  else s.saveLife.withChip
    { s.saveLife.chip with lastFlush := s.chip.cycles, errs := s.chip.errs.map fun e => (e.1, e.2.1, e.2.2.1, 0) }

/-- LIFE_COUNTER_FLUSH (R417). -/
def execLifeCounterFlush (s : State) : Host.Outcome State Fault Refusal := .next s.lifeInterval

/-- ORDERLY_SHUTDOWN (R417). -/
def execOrderlyShutdown (s : State) : Host.Outcome State Fault Refusal := .next s.saveLife

/-- POWER_LOSS (R417): the counts since the last write to nonvolatile store are lost. -/
def execPowerLoss (s : State) : Host.Outcome State Fault Refusal :=
  .next { s.withChip { s.chip with life := s.chip.lifeNv } with power := false }

end Sys2Proof.Machine
end

