-- ==== Sys2Proof/Machine/Dispatch.lean ====
section
/-! DEFINITION. Which meaning each instruction has. -/

namespace Sys2Proof.Machine

/-- What an instruction does: one meaning per row of the opcode table. -/
def exec (i : Instr) (s : State) : Host.Outcome State Fault Refusal :=
  match i with
  | .add st d a b => Sys2Proof.Machine.execAdd st d a b s
  | .sub st d a b => Sys2Proof.Machine.execSub st d a b s
  | .mul st d a b => Sys2Proof.Machine.execMul st d a b s
  | .mulh st d a b => Sys2Proof.Machine.execMulh st d a b s
  | .mulhn st d a b => Sys2Proof.Machine.execMulhn st d a b s
  | .mad st d a b => Sys2Proof.Machine.execMad st d a b s
  | .div st d a b => Sys2Proof.Machine.execDiv st d a b s
  | .divn st d a b => Sys2Proof.Machine.execDivn st d a b s
  | .rem st d a b => Sys2Proof.Machine.execRem st d a b s
  | .remn st d a b => Sys2Proof.Machine.execRemn st d a b s
  | .and st d a b => Sys2Proof.Machine.execAnd st d a b s
  | .or st d a b => Sys2Proof.Machine.execOr st d a b s
  | .xor st d a b => Sys2Proof.Machine.execXor st d a b s
  | .andn st d a b => Sys2Proof.Machine.execAndn st d a b s
  | .shl st d a b => Sys2Proof.Machine.execShl st d a b s
  | .shr st d a b => Sys2Proof.Machine.execShr st d a b s
  | .sha st d a b => Sys2Proof.Machine.execSha st d a b s
  | .rot st d a b => Sys2Proof.Machine.execRot st d a b s
  | .clz st d a => Sys2Proof.Machine.execClz st d a s
  | .ctz st d a => Sys2Proof.Machine.execCtz st d a s
  | .popc st d a => Sys2Proof.Machine.execPopc st d a s
  | .min st d a b => Sys2Proof.Machine.execMin st d a b s
  | .max st d a b => Sys2Proof.Machine.execMax st d a b s
  | .minn st d a b => Sys2Proof.Machine.execMinn st d a b s
  | .maxn st d a b => Sys2Proof.Machine.execMaxn st d a b s
  | .mov st d a => Sys2Proof.Machine.execMov st d a s
  | .leaRrScale12 st d a b x => Sys2Proof.Machine.execLeaRrScale12 st d a b x s
  | .leaRrScale48 st d a b x => Sys2Proof.Machine.execLeaRrScale48 st d a b x s
  | .cmp st d a b m c => Sys2Proof.Machine.execCmp st d a b m c s
  | .sel st d a b n c => Sys2Proof.Machine.execSel st d a b n c s
  | .ext st d a p l => Sys2Proof.Machine.execExt st d a p l s
  | .extn st d a p l => Sys2Proof.Machine.execExtn st d a p l s
  | .ins st d a p l => Sys2Proof.Machine.execIns st d a p l s
  | .wid st d k => Sys2Proof.Machine.execWid st d k s
  | .leaRi st d a imm => Sys2Proof.Machine.execLeaRi st d a imm s
  | .addi st d a imm => Sys2Proof.Machine.execAddi st d a imm s
  | .andi st d a imm => Sys2Proof.Machine.execAndi st d a imm s
  | .ori st d a imm => Sys2Proof.Machine.execOri st d a imm s
  | .xori st d a imm => Sys2Proof.Machine.execXori st d a imm s
  | .cmpi st k c a imm => Sys2Proof.Machine.execCmpi st k c a imm s
  | .shli st d a n => Sys2Proof.Machine.execShli st d a n s
  | .shri st d a n => Sys2Proof.Machine.execShri st d a n s
  | .shai st d a n => Sys2Proof.Machine.execShai st d a n s
  | .li st d imm => Sys2Proof.Machine.execLi st d imm s
  | .lih st d imm => Sys2Proof.Machine.execLih st d imm s
  | .brpLabel st t imm => Sys2Proof.Machine.execBrpLabel st t imm s
  | .brpReg st t g => Sys2Proof.Machine.execBrpReg st t g s
  | .go st t c m => Sys2Proof.Machine.execGo st t c m s
  | .call st t g => Sys2Proof.Machine.execCall st t g s
  | .ret st g => Sys2Proof.Machine.execRet st g s
  | .lp st g n => Sys2Proof.Machine.execLp st g n s
  | .exit st => Sys2Proof.Machine.execExit st s
  | .nop st => Sys2Proof.Machine.execNop st s
  | .brk st k => Sys2Proof.Machine.execBrk st k s
  | .vadd st d a b t p => Sys2Proof.Machine.execVadd st d a b t p s
  | .vsub st d a b t p => Sys2Proof.Machine.execVsub st d a b t p s
  | .vmul st d a b t p => Sys2Proof.Machine.execVmul st d a b t p s
  | .vaddFtz st d a b t p => Sys2Proof.Machine.execVaddFtz st d a b t p s
  | .vaddSat st d a b t p => Sys2Proof.Machine.execVaddSat st d a b t p s
  | .vsubFtz st d a b t p => Sys2Proof.Machine.execVsubFtz st d a b t p s
  | .vsubSat st d a b t p => Sys2Proof.Machine.execVsubSat st d a b t p s
  | .vmulFtz st d a b t p => Sys2Proof.Machine.execVmulFtz st d a b t p s
  | .vmulSat st d a b t p => Sys2Proof.Machine.execVmulSat st d a b t p s
  | .vfma st d a b t p => Sys2Proof.Machine.execVfma st d a b t p s
  | .vfms st d a b t p => Sys2Proof.Machine.execVfms st d a b t p s
  | .vfnma st d a b t p => Sys2Proof.Machine.execVfnma st d a b t p s
  | .vsha st d a b t p => Sys2Proof.Machine.execVsha st d a b t p s
  | .vmin st d a b t p => Sys2Proof.Machine.execVmin st d a b t p s
  | .vmax st d a b t p => Sys2Proof.Machine.execVmax st d a b t p s
  | .vmaxn st d a b t p => Sys2Proof.Machine.execVmaxn st d a b t p s
  | .vminn st d a b t p => Sys2Proof.Machine.execVminn st d a b t p s
  | .vshr st d a b t p => Sys2Proof.Machine.execVshr st d a b t p s
  | .vshl st d a b t p => Sys2Proof.Machine.execVshl st d a b t p s
  | .vcmp st c k a b t p => Sys2Proof.Machine.execVcmp st c k a b t p s
  | .vcvt st d a e r t p => Sys2Proof.Machine.execVcvt st d a e r t p s
  | .vabs st d a t p => Sys2Proof.Machine.execVabs st d a t p s
  | .vneg st d a t p => Sys2Proof.Machine.execVneg st d a t p s
  | .vnot st d a t p => Sys2Proof.Machine.execVnot st d a t p s
  | .vmov st d a t p => Sys2Proof.Machine.execVmov st d a t p s
  | .vrcp st d a t p => Sys2Proof.Machine.execVrcp st d a t p s
  | .vrsqrt st d a t p => Sys2Proof.Machine.execVrsqrt st d a t p s
  | .vsqrt st d a t p => Sys2Proof.Machine.execVsqrt st d a t p s
  | .vexp2 st d a t p => Sys2Proof.Machine.execVexp2 st d a t p s
  | .vlog2 st d a t p => Sys2Proof.Machine.execVlog2 st d a t p s
  | .vbcast st d a t p => Sys2Proof.Machine.execVbcast st d a t p s
  | .vli st d a t p => Sys2Proof.Machine.execVli st d a t p s
  | .vcompress st d a t p => Sys2Proof.Machine.execVcompress st d a t p s
  | .vexpand st d a t p => Sys2Proof.Machine.execVexpand st d a t p s
  | .vredAdd st d a t p => Sys2Proof.Machine.execVredAdd st d a t p s
  | .vredMin st d a t p => Sys2Proof.Machine.execVredMin st d a t p s
  | .vredMax st d a t p => Sys2Proof.Machine.execVredMax st d a t p s
  | .vredMinn st d a t p => Sys2Proof.Machine.execVredMinn st d a t p s
  | .vredMaxn st d a t p => Sys2Proof.Machine.execVredMaxn st d a t p s
  | .vredAnd st d a t p => Sys2Proof.Machine.execVredAnd st d a t p s
  | .vredOr st d a t p => Sys2Proof.Machine.execVredOr st d a t p s
  | .vredXor st d a t p => Sys2Proof.Machine.execVredXor st d a t p s
  | .vscanAdd st d a t p => Sys2Proof.Machine.execVscanAdd st d a t p s
  | .vscanMin st d a t p => Sys2Proof.Machine.execVscanMin st d a t p s
  | .vscanMax st d a t p => Sys2Proof.Machine.execVscanMax st d a t p s
  | .vcvtFormat st d a t p f n => Sys2Proof.Machine.execVcvtFormat st d a t p f n s
  | .kand st d a b => Sys2Proof.Machine.execKand st d a b s
  | .kor st d a b => Sys2Proof.Machine.execKor st d a b s
  | .kxor st d a b => Sys2Proof.Machine.execKxor st d a b s
  | .knot st d a => Sys2Proof.Machine.execKnot st d a s
  | .kpop st d a => Sys2Proof.Machine.execKpop st d a s
  | .vtoc st d a b => Sys2Proof.Machine.execVtoc st d a b s
  | .vany st d a b => Sys2Proof.Machine.execVany st d a b s
  | .vall st d a b => Sys2Proof.Machine.execVall st d a b s
  | .vext st d a b w => Sys2Proof.Machine.execVext st d a b w s
  | .vins st d a b w => Sys2Proof.Machine.execVins st d a b w s
  | .vperm st d a b w => Sys2Proof.Machine.execVperm st d a b w s
  | .vclampInt st d a b t => Sys2Proof.Machine.execVclampInt st d a b t s
  | .vclampFp st d a b t => Sys2Proof.Machine.execVclampFp st d a b t s
  | .vand st d a b => Sys2Proof.Machine.execVand st d a b s
  | .vor st d a b => Sys2Proof.Machine.execVor st d a b s
  | .vxor st d a b => Sys2Proof.Machine.execVxor st d a b s
  | .vsel st d a b w k => Sys2Proof.Machine.execVsel st d a b w k s
  | .ldRr st d a b w x => Sys2Proof.Machine.execLdRr st d a b w x s
  | .ldA st d a b w x => Sys2Proof.Machine.execLdA st d a b w x s
  | .ldRi st d a imm => Sys2Proof.Machine.execLdRi st d a imm s
  | .stRr st d a b w x => Sys2Proof.Machine.execStRr st d a b w x s
  | .stRi st d a imm => Sys2Proof.Machine.execStRi st d a imm s
  | .chkA st d a b w x => Sys2Proof.Machine.execChkA st d a b w x s
  | .ydesc st d a imm => Sys2Proof.Machine.execYdesc st d a imm s
  | .vldRr st d a b x p => Sys2Proof.Machine.execVldRr st d a b x p s
  | .vldA st d a b x p => Sys2Proof.Machine.execVldA st d a b x p s
  | .vldRi st d a imm => Sys2Proof.Machine.execVldRi st d a imm s
  | .vstRr st d a b x p => Sys2Proof.Machine.execVstRr st d a b x p s
  | .vstRi st d a imm => Sys2Proof.Machine.execVstRi st d a imm s
  | .fifoStallRelease core slot => Sys2Proof.Machine.execFifoStallRelease core slot s
  | .vldg st d a b w c p => Sys2Proof.Machine.execVldg st d a b w c p s
  | .vsts st d a b w c p => Sys2Proof.Machine.execVsts st d a b w c p s
  | .vldb st d a b w p => Sys2Proof.Machine.execVldb st d a b w p s
  | .zpop st d a p => Sys2Proof.Machine.execZpop st d a p s
  | .zpopRelease core slot => Sys2Proof.Machine.execZpopRelease core slot s
  | .vchkA st d a b p => Sys2Proof.Machine.execVchkA st d a b p s
  | .vldy st d a b y => Sys2Proof.Machine.execVldy st d a b y s
  | .vsty st d a b y z => Sys2Proof.Machine.execVsty st d a b y z s
  | .atom st d a b c o => Sys2Proof.Machine.execAtom st d a b c o s
  | .vatom st d a b o p => Sys2Proof.Machine.execVatom st d a b o p s
  | .accAlloc st d a b => Sys2Proof.Machine.execAccAlloc st d a b s
  | .accAllocT st d a => Sys2Proof.Machine.execAccAllocT st d a s
  | .accFree st a b => Sys2Proof.Machine.execAccFree st a b s
  | .accFreeRelease core slot => Sys2Proof.Machine.execAccFreeRelease core slot s
  | .accZero st d => Sys2Proof.Machine.execAccZero st d s
  | .accRd st d a b => Sys2Proof.Machine.execAccRd st d a b s
  | .accWr st d a b => Sys2Proof.Machine.execAccWr st d a b s
  | .mma st d a b f x y z => Sys2Proof.Machine.execMma st d a b f x y z s
  | .mmaSp st d a b f q k => Sys2Proof.Machine.execMmaSp st d a b f q k s
  | .mmaT3 st d a b z k => Sys2Proof.Machine.execMmaT3 st d a b z k s
  | .mmaX st d a b f x y z => Sys2Proof.Machine.execMmaX st d a b f x y z s
  | .scl st a b => Sys2Proof.Machine.execScl st a b s
  | .selLd st d imm => Sys2Proof.Machine.execSelLd st d imm s
  | .rdesc st d a b => Sys2Proof.Machine.execRdesc st d a b s
  | .rpop st d => Sys2Proof.Machine.execRpop st d s
  | .rstat st d a => Sys2Proof.Machine.execRstat st d a s
  | .zdesc st d a b => Sys2Proof.Machine.execZdesc st d a b s
  | .wb st d a b f p r => Sys2Proof.Machine.execWb st d a b f p r s
  | .arrayOperationFinish core slot => Sys2Proof.Machine.execArrayOperationFinish core slot s
  | .cpy st a b k => Sys2Proof.Machine.execCpy st a b k s
  | .cpyMm st d a b k => Sys2Proof.Machine.execCpyMm st d a b k s
  | .cpyb st a b k => Sys2Proof.Machine.execCpyb st a b k s
  | .coll st a b k => Sys2Proof.Machine.execColl st a b k s
  | .drain st k => Sys2Proof.Machine.execDrain st k s
  | .drainComplete core slot => Sys2Proof.Machine.execDrainComplete core slot s
  | .pub st a => Sys2Proof.Machine.execPub st a s
  | .pubComplete core slot => Sys2Proof.Machine.execPubComplete core slot s
  | .ecan st a k => Sys2Proof.Machine.execEcan st a k s
  | .estat st d k => Sys2Proof.Machine.execEstat st d k s
  | .sctr st d a b v => Sys2Proof.Machine.execSctr st d a b v s
  | .yidx st d a y => Sys2Proof.Machine.execYidx st d a y s
  | .ychk st d a y => Sys2Proof.Machine.execYchk st d a y s
  | .fwait st d a imm => Sys2Proof.Machine.execFwait st d a imm s
  | .fwaitSatisfied core slot => Sys2Proof.Machine.execFwaitSatisfied core slot s
  | .fpost st d a imm => Sys2Proof.Machine.execFpost st d a imm s
  | .fpostr st d a b => Sys2Proof.Machine.execFpostr st d a b s
  | .remotePostArrival src dst => Sys2Proof.Machine.execRemotePostArrival src dst s
  | .barInit st a b => Sys2Proof.Machine.execBarInit st a b s
  | .barArrive st d a b => Sys2Proof.Machine.execBarArrive st d a b s
  | .barExpect st d a b => Sys2Proof.Machine.execBarExpect st d a b s
  | .barWait st a b => Sys2Proof.Machine.execBarWait st a b s
  | .barWaitSatisfied core slot => Sys2Proof.Machine.execBarWaitSatisfied core slot s
  | .barTest st d a b => Sys2Proof.Machine.execBarTest st d a b s
  | .slvCfg st d a b => Sys2Proof.Machine.execSlvCfg st d a b s
  | .slvCfgStoreFree core slot => Sys2Proof.Machine.execSlvCfgStoreFree core slot s
  | .slvBeg st => Sys2Proof.Machine.execSlvBeg st s
  | .slvEnd st d n => Sys2Proof.Machine.execSlvEnd st d n s
  | .gangRootsComplete gid => Sys2Proof.Machine.execGangRootsComplete gid s
  | .slvNorm st d a => Sys2Proof.Machine.execSlvNorm st d a s
  | .slvHist st d a b => Sys2Proof.Machine.execSlvHist st d a b s
  | .slvAbort st => Sys2Proof.Machine.execSlvAbort st s
  | .fence st k c => Sys2Proof.Machine.execFence st k c s
  | .ldAcq st d a b w c => Sys2Proof.Machine.execLdAcq st d a b w c s
  | .stRel st d a b w c => Sys2Proof.Machine.execStRel st d a b w c s
  | .cwait st a imm => Sys2Proof.Machine.execCwait st a imm s
  | .cwaitRelease core slot => Sys2Proof.Machine.execCwaitRelease core slot s
  | .lnch st a b => Sys2Proof.Machine.execLnch st a b s
  | .lnchQueueRoom core slot => Sys2Proof.Machine.execLnchQueueRoom core slot s
  | .trap st k => Sys2Proof.Machine.execTrap st k s
  | .rfe st => Sys2Proof.Machine.execRfe st s
  | .ctxSave st a => Sys2Proof.Machine.execCtxSave st a s
  | .ctxLoad st a => Sys2Proof.Machine.execCtxLoad st a s
  | .ctxLoadNew st a b => Sys2Proof.Machine.execCtxLoadNew st a b s
  | .crRd st d n => Sys2Proof.Machine.execCrRd st d n s
  | .crWr st d n => Sys2Proof.Machine.execCrWr st d n s
  | .controlRegisterWrite who n v => Sys2Proof.Machine.execControlRegisterWrite who n v s
  | .tlbInv st a b => Sys2Proof.Machine.execTlbInv st a b s
  | .tlbInvAsid st => Sys2Proof.Machine.execTlbInvAsid st s
  | .tlbInvAny st a b => Sys2Proof.Machine.execTlbInvAny st a b s
  | .tlbInvAll st => Sys2Proof.Machine.execTlbInvAll st s
  | .tlbSync st => Sys2Proof.Machine.execTlbSync st s
  | .ctrRd st d a c => Sys2Proof.Machine.execCtrRd st d a c s
  | .xltInval st a b => Sys2Proof.Machine.execXltInval st a b s
  | .xltPin st a b => Sys2Proof.Machine.execXltPin st a b s
  | .xltUnpin st a b => Sys2Proof.Machine.execXltUnpin st a b s
  | .xltHint st a b m => Sys2Proof.Machine.execXltHint st a b m s
  | .mcLd st a => Sys2Proof.Machine.execMcLd st a s
  | .microcodeSlot st e d a b f => Sys2Proof.Machine.execMicrocodeSlot st e d a b f s
  | .tier1Promotion die head => Sys2Proof.Machine.execTier1Promotion die head s
  | .atomCommit core => Sys2Proof.Machine.execAtomCommit core s
  | .atomConflictDiscard core => Sys2Proof.Machine.execAtomConflictDiscard core s
  | .quantumExpiry core => Sys2Proof.Machine.execQuantumExpiry core s
  | .waitTimeout core slot => Sys2Proof.Machine.execWaitTimeout core slot s
  | .csmodeWrite who v => Sys2Proof.Machine.execCsmodeWrite who v s
  | .evcntWrite who v => Sys2Proof.Machine.execEvcntWrite who v s
  | .formatWindowEnable who w v => Sys2Proof.Machine.execFormatWindowEnable who w v s
  | .formatWindowDisable who w v => Sys2Proof.Machine.execFormatWindowDisable who w v s
  | .publishEntryEnable who e v => Sys2Proof.Machine.execPublishEntryEnable who e v s
  | .fqrdWrite who v => Sys2Proof.Machine.execFqrdWrite who v s
  | .faultQueuePost => Sys2Proof.Machine.execFaultQueuePost s
  | .replayResume unit slot req => Sys2Proof.Machine.execReplayResume unit slot req s
  | .replayDeliver unit slot req => Sys2Proof.Machine.execReplayDeliver unit slot req s
  | .replayTerminate unit slot req => Sys2Proof.Machine.execReplayTerminate unit slot req s
  | .preemptRequest core slot all => Sys2Proof.Machine.execPreemptRequest core slot all s
  | .preemptSave core slot => Sys2Proof.Machine.execPreemptSave core slot s
  | .contextReload core => Sys2Proof.Machine.execContextReload core s
  | .xltctlWrite who v => Sys2Proof.Machine.execXltctlWrite who v s
  | .queueWridxWrite q v => Sys2Proof.Machine.execQueueWridxWrite q v s
  | .packetTake cluster q => Sys2Proof.Machine.execPacketTake cluster q s
  | .groupAdmit cluster => Sys2Proof.Machine.execGroupAdmit cluster s
  | .groupStart cluster cores slots => Sys2Proof.Machine.execGroupStart cluster cores slots s
  | .groupSteal cluster victim => Sys2Proof.Machine.execGroupSteal cluster victim s
  | .groupRelease gid => Sys2Proof.Machine.execGroupRelease gid s
  | .launchComplete launch => Sys2Proof.Machine.execLaunchComplete launch s
  | .graphMemberReady launch => Sys2Proof.Machine.execGraphMemberReady launch s
  | .cadencedStart gid => Sys2Proof.Machine.execCadencedStart gid s
  | .budgetPublish die meas => Sys2Proof.Machine.execBudgetPublish die meas s
  | .engineCommandStart core ch => Sys2Proof.Machine.execEngineCommandStart core ch s
  | .engineQueueRoom core slot => Sys2Proof.Machine.execEngineQueueRoom core slot s
  | .engineBodyLanded core ch => Sys2Proof.Machine.execEngineBodyLanded core ch s
  | .engineWaitRelease core ch => Sys2Proof.Machine.execEngineWaitRelease core ch s
  | .collectiveProceed gid group mask => Sys2Proof.Machine.execCollectiveProceed gid group mask s
  | .stitchTableLoad => Sys2Proof.Machine.execStitchTableLoad s
  | .stitchTableDefault => Sys2Proof.Machine.execStitchTableDefault s
  | .stitchTableSwitch => Sys2Proof.Machine.execStitchTableSwitch s
  | .packetEscape src dst => Sys2Proof.Machine.execPacketEscape src dst s
  | .flitReceive link flit => Sys2Proof.Machine.execFlitReceive link flit s
  | .linkRetrain link => Sys2Proof.Machine.execLinkRetrain link s
  | .peerAnswer ident data => Sys2Proof.Machine.execPeerAnswer ident data s
  | .peerAccessTimeout ident => Sys2Proof.Machine.execPeerAccessTimeout ident s
  | .cgctlWrite who v => Sys2Proof.Machine.execCgctlWrite who v s
  | .cadenceRemeasure t1 t2 tL turn => Sys2Proof.Machine.execCadenceRemeasure t1 t2 tL turn s
  | .bubbleNotice start len => Sys2Proof.Machine.execBubbleNotice start len s
  | .wholeDeviceBubble len => Sys2Proof.Machine.execWholeDeviceBubble len s
  | .hostBar0Access write off size v => Sys2Proof.Machine.execHostBar0Access write off size v s
  | .hostMemoryAccess write pa size v => Sys2Proof.Machine.execHostMemoryAccess write pa size v s
  | .noticeQueuePost => Sys2Proof.Machine.execNoticeQueuePost s
  | .hostInvalidate v => Sys2Proof.Machine.execHostInvalidate v s
  | .hostInvalidateDone => Sys2Proof.Machine.execHostInvalidateDone s
  | .attestationRequest => Sys2Proof.Machine.execAttestationRequest s
  | .attestationDone => Sys2Proof.Machine.execAttestationDone s
  | .coldReset boot => Sys2Proof.Machine.execColdReset boot s
  | .functionLevelReset => Sys2Proof.Machine.execFunctionLevelReset s
  | .thermalExcursion temp => Sys2Proof.Machine.execThermalExcursion temp s
  | .thermalStop temp => Sys2Proof.Machine.execThermalStop temp s
  | .thermalResume temp => Sys2Proof.Machine.execThermalResume temp s
  | .unitFenceEffect code num => Sys2Proof.Machine.execUnitFenceEffect code num s
  | .hbmScrub => Sys2Proof.Machine.execHbmScrub s
  | .lifeCounterFlush => Sys2Proof.Machine.execLifeCounterFlush s
  | .orderlyShutdown => Sys2Proof.Machine.execOrderlyShutdown s
  | .linkTrainingEnd link => Sys2Proof.Machine.execLinkTrainingEnd link s
  | .softError target fatal => Sys2Proof.Machine.execSoftError target fatal s
  | .powerLoss => Sys2Proof.Machine.execPowerLoss s
  | .hostApertureAnswer ident data => Sys2Proof.Machine.execHostApertureAnswer ident data s

end Sys2Proof.Machine
end

