-- ==== Sys2Proof/Machine/Turn.lean ====
section
/-! DEFINITION. Which turn a step takes, and the state in which a given word is the next instruction to be issued. -/

namespace Sys2Proof.Machine

/-- Whether an event comes about on its own. A write of a control register by a task is not one: its `cr.wr` or its store
brings it about (R354). A slot is no event, and an event names parties that exist. -/
def comesAbout : Instr → Bool
  | .controlRegisterWrite (.task _ _) _ _ => false
  | .csmodeWrite (.task _ _) _ => false
  | .evcntWrite (.task _ _) _ => false
  | .formatWindowEnable (.task _ _) _ _ => false
  | .formatWindowDisable (.task _ _) _ _ => false
  | .publishEntryEnable (.task _ _) _ _ => false
  | .fqrdWrite (.task _ _) _ => false
  | .xltctlWrite (.task _ _) _ => false
  | .cgctlWrite (.task _ _) _ => false
  | i => i.isEvent && i.wf

/-- The turn of a step and the state in which it is taken: the first of the agenda, else one that the free value draws (log
entry 1). -/
def State.takeTurn (s : State) : Turn × State :=
  let s1 : State := { s with draws := s.draws + 1 }
  match s.agenda with
  | t :: l => (t, { s1 with agenda := l })
  | [] => (Config.nextTurn s.draws, s1)

/-- The next word of the bundle being issued. -/
def State.headWord (s : State) : Nat := s.bundle.words.headD 0

-- The state in which a given word is fetched next (log entry 28). -------------------------------------------------

/-- Physical (and virtual) address of the code object. -/
def placeBase : Nat := 0x3000

/-- The page tables and the code object: a leaf of 2^39 bytes for code at 0 and one for data at 2^39, both at physical
address 0 (R283 to R285); a header with one interlocked region over four words at 0x80 (R52, R53). -/
def placeMem (w : Nat) (m : List Host.Cell) : List Host.Cell :=
  let put (a v n : Nat) (m : List Host.Cell) : List Host.Cell := memPut a v n m
  put (placeBase + 0x80) (w % 2 ^ 32) 4 <| put (placeBase + 0x44) 16 4 <| put (placeBase + 0x24) 1 2 <|
  put (placeBase + 0x20) 0x40 4 <| put (placeBase + 0x14) 16 4 <| put (placeBase + 0x10) 0x80 4 <|
  put (placeBase + 4) 1 2 <| put placeBase 0x3146504C 4 <| put 0x2008 31 8 <| put 0x2000 47 8 <| put 0x1000 0x2001 8 <|
  memZero 0x1000 0x3000 m

/-- The task that issues it: slot 0 of core 0, before its first bundle (R204). -/
def placeTask (id : Nat) : Task :=
  { uid := id, gid := id, launch := id, code := BitVec.ofNat 64 placeBase, entry := some 0, troot := 0x1000 }

/-- The word placed where core 0 fetches next. -/
def State.placeWord (s : State) (w : Nat) : State :=
  let id := s.nextId
  { s with
    agenda := [.issue 0], cur := 0, bundle := {}, mem := placeMem w s.mem, tlb := [], power := true, nextId := id + 1,
    cores := mapSet 0 { s.core 0 with running := some 0, serves := some id, spill := none } s.cores,
    tasks := mapSet 0 (placeTask id) s.tasks,
    groups := mapSet id { gid := id, launch := id, phase := .started, cores := [0], alive := 1 } s.groups,
    launches := mapSet id { id := id, groups := 1, admitted := 1, phase := .candidate } s.launches,
    sky := { s.sky with objs := s.sky.objs.filter (fun o => o.pa != placeBase), sigs := { pa := placeBase, pages := [], good := true } :: s.sky.sigs },
    chip := { s.chip with bubble := 0, halted := false,
                          poison := s.chip.poison.filter fun g => !(decide (0x1000 ≤ g) && decide (g < 0x4000)) } }

end Sys2Proof.Machine
end

