-- ==== Sys2Proof/Machine/Step.lean ====
section
/-! DEFINITION. One step of the machine. -/

namespace Sys2Proof.Machine

/-- A core's turn to issue: the next slot of its bundle is decoded and executed (R12, R34, R35). -/
def issueSlot (s : State) : Host.Outcome State Fault Refusal :=
  if s.bundle.live then
    match decode s.headWord with
    | .ok i => exec i s
    | .error e => finishBad s.headWord e s
  else .next s

/-- One step: a core issues a slot, an event comes about, or a clock cycle passes. Nothing follows a loss of power
(R417). -/
def step (s : State) : Host.Outcome State Fault Refusal :=
  if s.power then
    let p := s.takeTurn
    match p.1 with
    | .issue c => issueSlot (p.2.issuePrep c)
    | .event i => if comesAbout i then exec i p.2 else .next p.2
    | .tick => .next p.2.clock
  else .fault .powerLost

/-- The state with an instruction stored where the next step fetches it (log entry 28). Every slot is one word of 32 bits,
so nothing stands above `nbits`. -/
def State.withFetchWord (s : State) (_nbits w : Nat) : State := s.placeWord w

end Sys2Proof.Machine
end

