-- ==== Sys2Proof/Safety.lean ====
section
/-! DEFINITION. The terms in which claims are stated: a bundle of one slot that issues in the ordinary way, the state after
it has committed, the writes of registers it makes, and the invariants of every run. -/

namespace Sys2Proof.Machine

-- A bundle of one slot (R12, R14). -------------------------------------------------------------------------------

/-- The last word of a bundle is about to be executed and no other slot of the bundle has been: task `t` issues it, alone
and not as a member of a gang, with no poisoned register. -/
structure Alone (s : State) (st : Bool) (t : Task) : Prop where
  task : s.curTask = some t
  last : (st || s.bundle.words.tail.isEmpty) = true
  none : s.bundle.staged = []
  mode : s.bundle.exposed = t.exposed
  sound : t.poison = []
  single : s.cadenced t = false

/-- Room in the pending set for writes of given latencies (R23): no more than 16 writes in flight in an exposed bundle. -/
def Room (t : Task) (lats : List Nat) : Prop :=
  t.exposed = true → (lats.any fun n => decide (n > 1)) = true → inFlightAfter t.pending lats ≤ 16

/-- Operand codes that a task may use (R7, R32): destinations and sources of the general file, then of the vector file. -/
def DstG (c : Code) : Prop := c.toNat < 48 ∨ c.toNat = 56
def SrcG (c : Code) : Prop := c.toNat < 48 ∨ c.toNat = 56 ∨ c.toNat = 57
def DstV (t : Task) (c : Code) : Prop := (c.toNat < 48 ∧ c.toNat < t.vcnt) ∨ c.toNat = 56
def SrcV (t : Task) (c : Code) : Prop := (c.toNat < 48 ∧ c.toNat < t.vcnt) ∨ c.toNat = 56 ∨ c.toNat = 57

/-- A write of a register with a contract latency (R18). -/
structure RegWrite where
  file : RegFile
  reg  : Nat
  mask : Pred
  val  : VReg
  lat  : Nat
  deriving DecidableEq, Repr

/-- The write that a destination of the general file makes; code 56 discards it (R32). -/
def toG (d : Code) (lat : Nat) (v : W64) : List RegWrite :=
  if d.toNat < 48 then [{ file := .g, reg := d.toNat, mask := 0xFF, val := v.setWidth 2048, lat := lat }] else []

/-- The write of lanes that a destination of the vector file makes; code 56 discards it (R8, R32). -/
def toV (d : Code) (lat : Nat) (mask : Pred) (v : VReg) : List RegWrite :=
  if d.toNat < 48 then [{ file := .v, reg := d.toNat, mask := mask, val := v, lat := lat }] else []

/-- The write of lanes of a vector register whose elements of `e` bytes are `f 0, f 1, …`, in the active elements of a
predicate only (R8, R104); `n` elements. -/
def toLanes (d : Code) (lat e n : Nat) (p : Pred) (f : Nat → Nat) : List RegWrite :=
  let x := lanes e (onActive p e fun i => (f i, 0)) n
  toV d lat (BitVec.ofNat 256 x.2.1) (BitVec.ofNat 2048 x.1)

/-- The write of a predicate; `k0` discards it (R6). -/
def toK (d : Code) (lat : Nat) (v : Pred) : List RegWrite :=
  if d.toNat = 0 then [] else [{ file := .k, reg := d.toNat, mask := allLanes, val := v.setWidth 2048, lat := lat }]

/-- The write of a condition. -/
def toC (n lat : Nat) (b : Bool) : List RegWrite :=
  [{ file := .c, reg := n, mask := 1, val := if b then 1 else 0, lat := lat }]

/-- Whether a write is visible to the next bundle of its task: with latency 1, and in an interlocked bundle (R17, R18). -/
def RegWrite.soon (t : Task) (w : RegWrite) : Bool := decide (w.lat ≤ 1) || !t.exposed

/-- Whether an entry of the address table belongs to a register that is written (R92, item 3). -/
def RegWrite.hits (e : ATEntry) (w : RegWrite) : Bool :=
  (w.file == .g && !e.vec && e.reg == w.reg) || (w.file == .v && e.vec && e.reg == w.reg)

/-- A task at its next bundle, after a bundle that wrote registers and raised flags (R10, R14 to R18): the writes of earlier
bundles come one contract cycle nearer, the visible ones of this bundle follow them, the others are in flight. -/
def Task.after (t : Task) (ws : List RegWrite) (flags : BitVec 8) (pc : W64) (loops : List Loop) : Task :=
  let u := (ws.filter (RegWrite.soon t)).foldl (fun (u : Task) w => u.write w.file w.reg w.mask w.val) t.tick
  let late := (ws.filter fun w => !w.soon t).map fun w =>
    ({ file := w.file, reg := w.reg, mask := w.mask, val := w.val, left := w.lat - 1 } : Pend)
  { u with pending := t.tick.pending ++ late, atab := t.atab.filter (fun e => !ws.any (RegWrite.hits e)),
           asw := aswOr t.asw flags, pc := pc, loops := loops, stall := none, answers := [] }

/-- Where a task goes on after a bundle that transfers nowhere: the next bundle, or the start of a loop body with iterations
left (R98, R99). -/
def State.onward (s : State) (t : Task) : W64 × List Loop :=
  let r := loopBack s.bundle.next t.loops.reverse
  (r.1, r.2.reverse)

/-- The core of the bundle being issued, whose task waits for no flag any more (R227). -/
def State.opened (s : State) : State := s.updCore s.cur fun c => c.dropWaiter s.bundle.slot

/-- The key of the task whose bundle is being issued. -/
def State.key (s : State) : Nat := taskKey s.cur s.bundle.slot

/-- The state at the next bundle: `x` is what the bundle of `s` has made of the rest of the state, `ws` the registers it
writes, `to` where its task goes on. -/
def State.moved (x s : State) (ws : List RegWrite) (flags : BitVec 8) (target : W64 × List Loop) : State :=
  (x.updTask s.key fun u => u.after ws flags target.1 target.2).withBundle {}

/-- The address at which a task goes on counted as a loop head (R363). -/
def State.counted (x s : State) (t : Task) (pc : W64) : State := x.headSeen (dieOf s.cur) (t.objid.getD 0) pc.toNat none

/-- The atom of the task after the bundle of `s` (R364, R381): a slot of it may end the atom, and the long words of an atom hold
so many slots. -/
def State.atomEnds (x s : State) : State :=
  match x.task s.key with
  | some u => if u.tier1 != 0 then x.updTask s.key (atomNext (s.bundle.code.any endsAtom) s.bundle.code.length) else x
  | none => x

/-- The commit of the bundle of `s`: task `t` stands at its next bundle; a transfer to a lower address, and the start of an
iteration of a loop, is counted as a loop head (R363). -/
def State.reached (x s : State) (t : Task) (ws : List RegWrite) (flags : BitVec 8) (target : W64 × List Loop) : State :=
  let z := (x.moved s ws flags target).atomEnds s
  if (decide (target.1.toNat < s.bundle.addr.toNat) || target.2.any fun l => l.start == target.1) = true then z.counted s t target.1 else z

/-- The state at the next bundle of task `t`: inside an atom of more bundles the task goes on before any other party (R365). -/
def State.after (x s : State) (t : Task) (ws : List RegWrite) (flags : BitVec 8) (target : W64 × List Loop) : State :=
  (x.reached s t ws flags target).goOn s.cur s.bundle.slot

/-- The state at the first bundle of the body of a loop that the bundle of `s` opens: its head is counted (R363), and outside
another loop's atom the run of the loop is one where its translation says so and the long words of an atom hold it (R364, R381,
R382). -/
def State.looped (x s : State) (t : Task) (target : W64 × List Loop) (l : Loop) : State :=
  let die := dieOf s.cur
  let n := s.bundle.code.length
  let y := x.moved s [] 0 target
  let z := (y.atomEnds s).headSeen die (t.objid.getD 0) target.1.toNat (some s.bundle.addr.toNat)
  let one := !s.bundle.code.any endsAtom && loopFits y s.cur ((y.task s.key).getD {}) l n &&
    runsTier1 z die (t.objid.getD 0) target.1.toNat (l.left + 1)
  (if inAtom t then z
    else z.updTask s.key fun u => { u with tier1 := if one then target.2.length else 0, atomRoom := atomSlots - n }).goOn s.cur s.bundle.slot

/-- The state after a bundle that does nothing but write registers of its task and raise flags. -/
def State.results (s : State) (t : Task) (ws : List RegWrite) (flags : BitVec 8) : State :=
  s.opened.after s t ws flags (s.onward t)

/-- The commit of a bundle that writes no register, before what its end asks for: an exit, a trap, a return (R101, R103, R351). -/
def State.committed (s : State) (t : Task) : State := s.opened.reached s t [] 0 (s.onward t)

/-- The state after a bundle that changes its task by `f`, and writes registers. -/
def State.changes (s : State) (t : Task) (f : Task → Task) (ws : List RegWrite) : State :=
  (s.opened.updTask s.key f).after s t ws 0 (s.onward t)

/-- The trap of a bundle that is one slot (R24, R331 to R336): nothing of it takes effect, and the record names it; the good
entries that a failing walk has read stay cached (R289). -/
def State.trapsAlone (s : State) (t : Task) (i : TrapInfo) : State :=
  (s.cacheFills i.fills).trap s.cur s.bundle.slot t i 1 0 false s.bundle.addr s.bundle.addr

/-- *undefined encoding* with the reason, value and field of R36. -/
def undefinedWith (reason value field : Nat) : TrapInfo :=
  { cause := .undefinedEncoding, word := BitVec.ofNat 64 (reason + value * 2 ^ 32 + field * 2 ^ 40) }

/-- The state after a bundle that writes registers and raises flags: a flag that is new and enabled makes it *arithmetic
exception* instead, with the new flags in the cause-specific word (R10, R11). -/
def State.flagged (s : State) (t : Task) (ws : List RegWrite) (flags : BitVec 8) : State :=
  if trapsFlag t.asw flags then s.trapsAlone t { cause := .arithmetic, word := (newFlags t.asw flags).setWidth 64 }
  else s.results t ws flags

/-- The state after a bundle that writes the elements of `e` bytes of which `g i` holds a value and flags (R104, R105). -/
def State.computed (s : State) (t : Task) (d : Code) (lat e n : Nat) (g : Nat → Option (Nat × BitVec 8)) : State :=
  let x := lanes e g n
  s.flagged t (toV d lat (BitVec.ofNat 256 x.2.1) (BitVec.ofNat 2048 x.1)) x.2.2

/-- The state after a bundle that writes elements `f 0, f 1, …` with their flags in the active elements of a predicate
(R8, R104, R105). -/
def State.elements (s : State) (t : Task) (d : Code) (lat e n : Nat) (p : Pred) (f : Nat → Nat × BitVec 8) : State :=
  s.computed t d lat e n fun i => if p.getLsbD (i * e) then some (f i) else none

/-- The number of a vector whose elements of `e` bytes are `f 0, …, f (n - 1)`. -/
def vectorOf (e n : Nat) (f : Nat → Nat) : VReg := BitVec.ofNat 2048 (packElems e f n)

-- Memory accesses (R87, R246). -----------------------------------------------------------------------------------

/-- Bytes of plain memory: of the device, of a near store or of a cluster store, and none of them poisoned (R246, R414). -/
def Plain (s : State) (pa n : Nat) : Prop :=
  0 < n ∧ (∀ i, i < n → regionOf s (pa + i) = .device ∨ regionOf s (pa + i) = .near ∨ regionOf s (pa + i) = .cluster) ∧
    poisonAt s pa n = none

/-- A task whose earlier array operations have finished: no access of its slots waits for one (R134, R146, R154). -/
def Idle (t : Task) : Prop := t.arrayQ = [] ∧ t.arrayStop = none

/-- Accesses of a task through leaves keep the order of strongly ordered pages without a wait: where one of the leaves is such a
page none of its writes to an aperture is under way (R269). -/
def InOrder (s : State) (t : Task) (leaves : List W64) : Prop := leaves.any leafStrong = true → writesOut s t.uid = false

/-- The leaves of placed runs. -/
def leavesOf (l : List Run3) : List W64 := l.map fun r => r.2.2.2.2

/-- The placed runs of a vector access all lie in plain memory. -/
def PlainRuns (s : State) (l : List Run3) : Prop := ∀ r ∈ l, Plain s r.2.2.1 r.2.2.2.1

/-- The number that placed runs hold, each run at its first lane (R121). -/
def runsNat (m : List Host.Cell) (l : List Run3) : Nat := (l.map fun r => memNat m r.2.2.1 r.2.2.2.1 * 256 ^ r.1).sum

/-- A store by core `core`: the bytes, and the marks of their lines cleared (R89, R255). -/
def State.storeFor (s : State) (core pa n v : Nat) : State := (s.store (some core) pa n v).touchLines pa n

/-- The lanes of a vector stored in placed runs, in their order (R121, R123, R128). -/
def State.storeRuns (s : State) (core : Nat) (v : VReg) (l : List Run3) : State :=
  l.foldl (fun x r => x.storeFor core r.2.2.1 r.2.2.2.1 (v.toNat / 256 ^ r.1 % 256 ^ r.2.2.2.1)) s

/-- The physical ranges of placed runs. -/
def spans (l : List Run3) : List (Nat × Nat) := l.map fun r => (r.2.2.1, r.2.2.2.1)

/-- The marks cleared of the lines that a load reads (R255). -/
def State.touched (s : State) (l : List (Nat × Nat)) : State :=
  (l.filter fun p => lineMarked s p.1 p.2).foldl (fun y p => y.touchLines p.1 p.2) s

/-- The state that a load of bytes of plain memory leaves behind it: the walks cached and the marks of the lines cleared (R255,
R289). -/
def State.loaded (s : State) (fills : List TlbEntry) (l : List (Nat × Nat)) : State := (s.cacheFills fills).touched l

/-- What a slot leaves behind it that has read bytes through leaves: the walks cached, the window flags raised of what was read
through an alias, and the marks of the lines cleared (R255, R261, R289). -/
def State.sawReads (s : State) (fills : List TlbEntry) (l : List (Nat × Nat × W64)) : State :=
  ((s.cacheFills fills).opened.raiseWindows (flagsPlaced s l)).touched (l.map fun p => (p.1, p.2.1))

/-- No atom of another task runs (R372, R377). -/
def AtomsDone (s : State) : Prop := ∀ e ∈ s.tasks, e.1 ≠ s.key → atomRuns e.2 = false

/-- A control register written: the hoisted loads of its place in the control-register region go (R92, R247). -/
def State.wroteControl (s : State) (core : Option Nat) (n : Nat) : State :=
  s.withTasks (unhoist core (0x081000000000 + 8 * n) 8 s.tasks)

/-- No access of a task to an aperture is under way (R279, R396). -/
def Quiet (s : State) (t : Task) : Prop := ∀ o ∈ s.nets.outside, o.src.uid ≠ t.uid

/-- The state with another list of hoisted loads in its issuing task: `ld.a` and `chk.a` leave the list to the rules of their own
(R91 to R93). -/
def State.hoisted (x s : State) (l : List ATEntry) : State := x.updTask s.key fun u => { u with atab := l }

/-- What a hit of a hoisted load counts as under R23: a write in flight that changes no register (R93). -/
def hitWrite (lat : Nat) : List RegWrite := [{ file := .g, reg := 63, mask := 0, val := 0, lat := lat }]

/-- The state at the next bundle where `y` is what the bundle of `s` has made of the state, its task among it; `ws` are the
registers it writes. -/
def State.effected (y s : State) (t : Task) (ws : List RegWrite) : State :=
  y.after s t ws 0 (s.onward ((y.task s.key).getD t))

-- Operands of matrix operations (R143, R145). --------------------------------------------------------------------

/-- An operand of `rows` rows of `len` bytes that an operation takes: a tile handle, or the entry `i` places behind the head of a
ring. -/
def operandOf (s : State) (t : Task) (c : Code) (handle : Bool) (i rows len : Nat) : Oper :=
  if handle then
    { src := .handle (handleAddr (rdG s.cur t c)) ((handleStride (rdG s.cur t c) len).getD 0), rows := rows, len := len }
  else
    { src := .ring c.toNat, rows := rows, len := len, data := some (ringData s s.cur t (t.ring c.toNat) i (rows * len)) }

/-- The operand may be taken: the handle has a stride the array accepts; the ring has entries of the size and enough of them are
full, the one taken without poison (R414). -/
def OperandReady (s : State) (t : Task) (c : Code) (handle : Bool) (i rows len : Nat) : Prop :=
  if handle = true then SrcG c ∧ (handleStride (rdG s.cur t c) len).isSome = true
  else
    c.toNat < 16 ∧ 0 < rows * len ∧ rows * len ≤ (t.ring c.toNat).size ∧ i + 1 ≤ (t.ring c.toNat).full ∧
      entryPoison s s.cur t (t.ring c.toNat) i (rows * len) = none ∧
      (∀ o ∈ t.arrayQ, o.a.stuck = false ∧ o.b.stuck = false)

/-- The task with the head entry of an operand's ring taken; a handle takes none. -/
def Task.taken (t : Task) (c : Code) (handle : Bool) : Task :=
  if handle then t else { t with n := t.n.setIfInBounds c.toNat (ringPop (t.ring c.toNat)) }

/-- The task with an array operation appended to those that have been issued (R134). -/
def Task.issued (t : Task) (op : ArrayOp) : Task := { t with arrayQ := t.arrayQ ++ [op] }

-- Bundles in general. --------------------------------------------------------------------------------------------

/-- A slot that passes every check and waits for nothing, as the only one of its bundle. -/
structure Passes (s : State) (t : Task) (x : Staged) : Prop where
  encs  : x.encs = []
  fault : x.fault = none
  flags : trapsFlag t.asw x.flags = false
  fetch : x.fetch = none
  waits : ∀ b, ∀ w ∈ x.waits, waitMet (s.withBundle b) s.cur s.bundle.slot t w = true
  fills : x.fills = []
  room  : Room t (countedLats true x)
  image : x.effects.findSome? savesTo = none
  inner : outAtomics [x] = []

/-- The state with a slot staged as the only one of its bundle. -/
def State.stagedAlone (s : State) (x : Staged) : State :=
  s.withBundle { s.bundle with words := s.bundle.words.tail, staged := [x] }

end Sys2Proof.Machine
end

