-- ==== Sys2Proof/Certificates/Slice0/Obligations.lean ====
section
/-! DEFINITION. The statements about the model. -/

open Sys2Proof Sys2Proof.Machine

-- Integer and address class (chapter 04). ------------------------------------------------------------------------

/-- R77, R18, R19: sums, products, comparisons and bitwise operations of two general registers. A bundle of one such slot
leaves `State.results`: the destination is written and nothing else; code 56 is discarded.
R77, R78: quotients and remainders; no divisor traps: by zero a quotient is all ones and a remainder is the dividend, and
the most negative number divided by -1 wraps. -/
def Obligations.IntegerArithmeticResults : Prop :=
  (∀ (s : State) (t : Task) (st : Bool) (d a b : Code), Alone s st t → DstG d → SrcG a → SrcG b →
    let x := rdG s.cur t a
    let y := rdG s.cur t b
    let r (lat : Nat) (v : W64) : Host.Outcome State Fault Refusal := .next (s.results t (toG d lat v) 0)
    exec (.add st d a b) s = r 1 (BitVec.ofNat 64 (x.toNat + y.toNat)) ∧
    exec (.sub st d a b) s = r 1 (BitVec.ofInt 64 (x.toNat - y.toNat)) ∧
    exec (.and st d a b) s = r 1 (x &&& y) ∧
    exec (.or st d a b) s = r 1 (x ||| y) ∧
    exec (.xor st d a b) s = r 1 (x ^^^ y) ∧
    exec (.andn st d a b) s = r 1 (x &&& ~~~y) ∧
    exec (.min st d a b) s = r 1 (if x.toInt ≤ y.toInt then x else y) ∧
    exec (.max st d a b) s = r 1 (if x.toInt ≤ y.toInt then y else x) ∧
    exec (.minn st d a b) s = r 1 (if x.toNat ≤ y.toNat then x else y) ∧
    exec (.maxn st d a b) s = r 1 (if x.toNat ≤ y.toNat then y else x) ∧
    (Room t [3] →
      exec (.mul st d a b) s = r 3 (BitVec.ofInt 64 (x.toInt * y.toInt)) ∧
      exec (.mulh st d a b) s = r 3 (BitVec.ofInt 64 (x.toInt * y.toInt / 2 ^ 64)) ∧
      exec (.mulhn st d a b) s = r 3 (BitVec.ofNat 64 (x.toNat * y.toNat / 2 ^ 64)) ∧
      exec (.mad st d a b) s = r 3 (BitVec.ofNat 64 ((rdG s.cur t d).toNat + x.toNat * y.toNat)))) ∧
  (∀ (s : State) (t : Task) (st : Bool) (d a b : Code), Alone s st t → DstG d → SrcG a → SrcG b →
    let x := rdG s.cur t a
    let y := rdG s.cur t b
    let r (v : W64) : Host.Outcome State Fault Refusal := .next (s.results t (toG d 1 v) 0)
    exec (.div st d a b) s = r (if y = 0 then BitVec.ofInt 64 (-1) else BitVec.ofInt 64 (x.toInt.tdiv y.toInt)) ∧
    exec (.divn st d a b) s = r (if y = 0 then BitVec.ofInt 64 (-1) else BitVec.ofNat 64 (x.toNat / y.toNat)) ∧
    exec (.rem st d a b) s = r (if y = 0 then x else BitVec.ofInt 64 (x.toInt.tmod y.toInt)) ∧
    exec (.remn st d a b) s = r (if y = 0 then x else BitVec.ofNat 64 (x.toNat % y.toNat)))

/-- R77, R80: shifts by the low six bits of a register and by an immediate, and rotation to the right.
R77, R80, R81: moves, addresses and immediates. -/
def Obligations.ShiftAndImmediateResults : Prop :=
  (∀ (s : State) (t : Task) (st : Bool) (d a b : Code) (i : BitVec 6), Alone s st t → DstG d → SrcG a → SrcG b →
    let x := rdG s.cur t a
    let n := (rdG s.cur t b).toNat % 64
    let r (v : W64) : Host.Outcome State Fault Refusal := .next (s.results t (toG d 1 v) 0)
    exec (.shl st d a b) s = r (BitVec.ofNat 64 (x.toNat * 2 ^ n)) ∧
    exec (.shr st d a b) s = r (BitVec.ofNat 64 (x.toNat / 2 ^ n)) ∧
    exec (.sha st d a b) s = r (BitVec.ofInt 64 (x.toInt / 2 ^ n)) ∧
    exec (.rot st d a b) s = r (BitVec.ofNat 64 (x.toNat / 2 ^ n + x.toNat * 2 ^ (64 - n))) ∧
    exec (.shli st d a i) s = r (BitVec.ofNat 64 (x.toNat * 2 ^ i.toNat)) ∧
    exec (.shri st d a i) s = r (BitVec.ofNat 64 (x.toNat / 2 ^ i.toNat)) ∧
    exec (.shai st d a i) s = r (BitVec.ofInt 64 (x.toInt / 2 ^ i.toNat))) ∧
  (∀ (s : State) (t : Task) (st : Bool) (d a b : Code) (i : BitVec 12) (k : BitVec 18) (w : Bool),
    Alone s st t → DstG d → SrcG a → SrcG b →
    let x := rdG s.cur t a
    let y := rdG s.cur t b
    let r (v : W64) : Host.Outcome State Fault Refusal := .next (s.results t (toG d 1 v) 0)
    exec (.mov st d a) s = r x ∧
    exec (.leaRrScale12 st d a b w) s = r (BitVec.ofNat 64 (x.toNat + y.toNat * (if w then 2 else 1))) ∧
    exec (.leaRrScale48 st d a b w) s = r (BitVec.ofNat 64 (x.toNat + y.toNat * (if w then 8 else 4))) ∧
    exec (.leaRi st d a i) s = r (BitVec.ofInt 64 (x.toInt + i.toInt)) ∧
    exec (.addi st d a i) s = r (BitVec.ofInt 64 (x.toInt + i.toInt)) ∧
    exec (.andi st d a i) s = r (x &&& BitVec.ofInt 64 i.toInt) ∧
    exec (.ori st d a i) s = r (x ||| BitVec.ofInt 64 i.toInt) ∧
    exec (.xori st d a i) s = r (x ^^^ BitVec.ofInt 64 i.toInt) ∧
    exec (.li st d k) s = r (BitVec.ofInt 64 k.toInt) ∧
    exec (.lih st d k) s = r (BitVec.ofNat 64 ((rdG s.cur t d).toNat * 2 ^ 18 + k.toNat)))

/-- R77: counts of leading zeros, of trailing zeros and of ones; both counts of zeros are 64 for zero.
R79: fields of `L` bits at `P`: extracted with their sign or with zeros, and put into the destination. A field that ends
above bit 63 is no instruction.
R82, R200: the fields of the work identifier: field `k` stands above the fields 0 to `k - 1` whose widths the launch
packet gives; a field after the last reads 0, and field 6 is the whole identifier. -/
def Obligations.BitAndFieldResults : Prop :=
  (∀ (s : State) (t : Task) (st : Bool) (d a : Code), Alone s st t → DstG d → SrcG a →
    let x := rdG s.cur t a
    (∃ n, n ≤ 64 ∧ (∀ i, i < n → x.getMsbD i = false) ∧ (n < 64 → x.getMsbD n = true) ∧
      exec (.clz st d a) s = .next (s.results t (toG d 1 (BitVec.ofNat 64 n)) 0)) ∧
    (∃ n, n ≤ 64 ∧ (∀ i, i < n → x.getLsbD i = false) ∧ (n < 64 → x.getLsbD n = true) ∧
      exec (.ctz st d a) s = .next (s.results t (toG d 1 (BitVec.ofNat 64 n)) 0)) ∧
    exec (.popc st d a) s =
      .next (s.results t (toG d 1 (BitVec.ofNat 64 ((List.range 64).countP fun i => x.getLsbD i))) 0)) ∧
  (∀ (s : State) (t : Task) (st : Bool) (d a : Code) (p l : BitVec 6), Alone s st t → DstG d → SrcG a →
    p.toNat + l.toNat + 1 ≤ 64 →
    let x := rdG s.cur t a
    let n := l.toNat + 1
    exec (.ext st d a p l) s = .next (s.results t (toG d 1 ((x.extractLsb' p.toNat n).signExtend 64)) 0) ∧
    exec (.extn st d a p l) s = .next (s.results t (toG d 1 ((x.extractLsb' p.toNat n).setWidth 64)) 0) ∧
    ∃ v : W64, (∀ i, i < 64 → v.getLsbD i =
        if p.toNat ≤ i ∧ i < p.toNat + n then x.getLsbD (i - p.toNat) else (rdG s.cur t d).getLsbD i) ∧
      exec (.ins st d a p l) s = .next (s.results t (toG d 1 v) 0)) ∧
  (∀ (s : State) (t : Task) (st : Bool) (d : Code) (k : BitVec 12), Alone s st t → DstG d → k.toNat ≤ 6 →
    let fw := (s.launch t.launch).pkt.fw.takeWhile fun x => x != 0
    exec (.wid st d k) s = .next (s.results t (toG d 1 (
      if k.toNat = 6 then t.wid
      else if k.toNat < fw.length then BitVec.ofNat 64 (t.wid.toNat / 2 ^ (fw.take k.toNat).sum % 2 ^ fw.getD k.toNat 0)
      else 0)) 0))

/-- R83 to R85: conditions from comparisons, combined with their old value, and the choice by a condition. -/
def Obligations.ConditionResults : Prop :=
  ∀ (s : State) (t : Task) (st : Bool) (d a b : Code) (m : Combine) (c : Cond) (j : ImmCond) (n : Bool) (e : BitVec 3)
    (i : BitVec 12), Alone s st t → SrcG a → SrcG b →
    let x := rdG s.cur t a
    let y := rdG s.cur t b
    let holds (c : Cond) (x y : W64) : Bool := match c with
      | .eq => decide (x = y) | .ne => decide (x ≠ y)
      | .lt => decide (x.toInt < y.toInt) | .le => decide (x.toInt ≤ y.toInt)
      | .gt => decide (x.toInt > y.toInt) | .ge => decide (x.toInt ≥ y.toInt)
      | .ltn => decide (x.toNat < y.toNat) | .len => decide (x.toNat ≤ y.toNat)
      | .gtn => decide (x.toNat > y.toNat) | .gen => decide (x.toNat ≥ y.toNat)
      | .tst => decide (x &&& y ≠ 0)
    let immediate : Cond := match j with
      | .eq => .eq | .ne => .ne | .lt => .lt | .le => .le | .gt => .gt | .ge => .ge | .ltn => .ltn | .gen => .gen
    (d.toNat < 8 → exec (.cmp st d a b m c) s = .next (s.results t (toC d.toNat 1 (match m with
      | .set => holds c x y
      | .conj => t.c.getLsbD d.toNat && holds c x y
      | .disj => t.c.getLsbD d.toNat || holds c x y)) 0)) ∧
    exec (.cmpi st j e a i) s = .next (s.results t (toC e.toNat 1 (holds immediate x (BitVec.ofInt 64 i.toInt))) 0) ∧
    (DstG d → exec (.sel st d a b n e) s =
      .next (s.results t (toG d 1 (if t.c.getLsbD e.toNat ≠ n then x else y)) 0))

-- Control class (chapter 04). ------------------------------------------------------------------------------------

/-- R94: a target entry takes an address beside the bundle or from a register, and becomes valid.
R95, R96: a transfer continues at its target; `call` also writes the address of the bundle after its own; `go` under a
condition that does not hold goes on.
R35, R96, R99: a transfer through an entry that is not valid raises *undefined encoding* with reason 0x20, one in the body
of an active loop with reason 0x21: nothing of the bundle takes effect, and the task goes to its handler or parks. -/
def Obligations.TransferResults : Prop :=
  (∀ (s : State) (t : Task) (st : Bool) (n : BitVec 3) (g : Code) (i : BitVec 18), Alone s st t →
    let becomes (a : W64) : Host.Outcome State Fault Refusal :=
      .next (s.changes t (fun u => { u with t := u.t.setIfInBounds n.toNat { addr := a, valid := true } }) [])
    exec (.brpLabel st n i) s = becomes (BitVec.ofInt 64 (s.bundle.addr.toNat + 4 * i.toInt)) ∧
    (SrcG g → (rdG s.cur t g).toNat % 4 = 0 → exec (.brpReg st n g) s = becomes (rdG s.cur t g))) ∧
  (∀ (s : State) (t : Task) (st : Bool) (n c : BitVec 3) (m : GoMode) (g : Code), Alone s st t → t.loops = [] →
    let e := t.tReg n.toNat
    let taken : Bool := match m with
      | .always => true | .ifSet => t.c.getLsbD c.toNat | .ifClear => !t.c.getLsbD c.toNat
    ((taken = true → e.valid = true) → exec (.go st n c m) s =
      .next (s.opened.after s t [] 0 (if taken then (e.addr, []) else s.onward t))) ∧
    (DstG g → e.valid = true → exec (.call st n g) s = .next (s.opened.after s t (toG g 1 s.bundle.next) 0 (e.addr, []))) ∧
    (SrcG g → (rdG s.cur t g).toNat % 4 = 0 → exec (.ret st g) s = .next (s.opened.after s t [] 0 (rdG s.cur t g, [])))) ∧
  (∀ (s : State) (t : Task) (st : Bool) (n c : BitVec 3) (g : Code), Alone s st t → DstG g → SrcG g →
    let traps (w : Nat) : Host.Outcome State Fault Refusal :=
      .next (s.trap s.cur s.bundle.slot t { cause := .undefinedEncoding, word := BitVec.ofNat 64 w } 1 0 false s.bundle.addr
        s.bundle.addr)
    (t.loops = [] → (t.tReg n.toNat).valid = false →
      exec (.go st n c .always) s = traps (0x20 + n.toNat * 2 ^ 32 + 6 * 2 ^ 40) ∧
      exec (.call st n g) s = traps (0x20 + n.toNat * 2 ^ 32 + 6 * 2 ^ 40)) ∧
    (t.loops ≠ [] → (rdG s.cur t g).toNat % 4 = 0 → (t.tReg n.toNat).valid = true →
      exec (.go st n c .always) s = traps (0x21 + 0x12 * 2 ^ 32) ∧
      exec (.call st n g) s = traps (0x21 + 0x13 * 2 ^ 32) ∧
      exec (.ret st g) s = traps (0x21 + 0x14 * 2 ^ 32)))

/-- R98, R99, R363: `lp` opens a loop over the bundles that follow: `count` iterations, of which the first begins now; without
one the body is passed over. The address at which the body begins is counted as a loop head.
R98, R99, R102: at the end of a loop body a task goes back to its start while iterations are left, each of which counts one
down, and leaves the loop after the last, whether it is the only loop or lies inside others; where the body of the loop around
it ends there too, that body ends with it; a bundle that ends no loop body is followed by the next.
A body of count 0 that ends with an enclosing body passes over both (log entry 29, the model's reading); what the search for the
end of the body has read of the code counts as read (log entry 66, the model's reading). -/
def Obligations.LoopResults : Prop :=
  (∀ (s : State) (t : Task) (st : Bool) (g : Code) (n : BitVec 12) (r : Nat × Nat) (stop : W64), Alone s st t → SrcG g →
    n ≠ 0 → t.loops.length < 4 → bodyRegion s s.cur t = .ok (.inl (some r)) →
    bodyEnd s s.cur t r.2 n.toNat s.bundle.next = .ok (.inl (some stop)) → stop ≠ s.bundle.next →
    (∀ l, t.loops.getLast? = some l → stop.toNat ≤ l.stop.toNat) →
    let count := (rdG s.cur t g).toNat
    let l : Loop := { start := s.bundle.next, stop := stop, left := count - 1 }
    let code := codePlaces s s.cur t s.bundle.next stop
    let x := s.sawReads code.2 code.1
    exec (.lp st g n) s = .next (
      if count = 0 then x.after s t [] 0 (stop, t.loops) else x.looped s t (s.bundle.next, t.loops ++ [l]) l)) ∧
  (∀ (s : State) (t : Task) (st : Bool) (m : Loop) (outer ended : List Loop), Alone s st t →
    (∀ l ∈ ended, l.stop = s.bundle.next ∧ l.left = 0) →
    (t.loops = outer ++ ended → (∀ l, outer.getLast? = some l → l.stop ≠ s.bundle.next) →
      exec (.nop st) s = .next (s.opened.after s t [] 0 (s.bundle.next, outer))) ∧
    (t.loops = outer ++ m :: ended → m.stop = s.bundle.next → 0 < m.left →
      exec (.nop st) s = .next (s.opened.after s t [] 0 (m.start, outer ++ [{ m with left := m.left - 1 }]))))

/-- R101, R139, R195: `exit` ends its task, which no longer stands in its slot; with allocated accumulator banks, or in a
solve that runs, it traps and the task goes on to its handler or parks.
R103, R350: `brk` and `trap` raise *breakpoint* and *software trap* after their bundle has committed: the resume address
is that of the bundle that follows, and the cause-specific word holds the immediate.
R351: `rfe` at supervisor privilege in handler mode restores the privilege, the writes in flight, the loops and the
contract cycle that the trap has saved, after the handler's own writes have landed, and continues at EPC. -/
def Obligations.ExitTrapAndReturnResults : Prop :=
  (∀ (s : State) (t : Task) (st : Bool), Alone s st t →
    let traps (i : TrapInfo) : State := s.trap s.cur s.bundle.slot t i 1 0 false s.bundle.addr s.bundle.addr
    (t.slv.code ≠ .opened → t.slv.code ≠ .looping → (∀ b, b < 64 → t.acc[b]? = some none) →
      exec (.exit st) s = .next ((s.committed t).endTask s.cur s.bundle.slot) ∧
      ((s.committed t).endTask s.cur s.bundle.slot).task s.key = none) ∧
    (t.slv.code ≠ .opened → t.slv.code ≠ .looping → t.banks ≠ [] →
      exec (.exit st) s = .next (traps { cause := .accLeak, word := BitVec.ofNat 64 t.banks.length })) ∧
    (t.slv.code = .opened → exec (.exit st) s = .next (traps { cause := .solveMisuse, word := 0x20000000B })) ∧
    (t.slv.code = .looping → exec (.exit st) s = .next (traps { cause := .solveMisuse, word := 0x30000000B }))) ∧
  (∀ (s : State) (t : Task) (st : Bool) (k : BitVec 18), Alone s st t →
    let u := ((s.committed t).task s.key).getD t
    let traps (c : Cause) : Host.Outcome State Fault Refusal :=
      .next ((s.committed t).trap s.cur s.bundle.slot u { cause := c, word := BitVec.ofNat 64 k.toNat } 1 0 true s.bundle.addr
        (s.onward t).1)
    exec (.brk st k) s = traps .breakpoint ∧ exec (.trap st k) s = traps .softwareTrap) ∧
  (∀ (s : State) (t : Task) (st : Bool), Alone s st t → t.sup = true → t.inh = true → t.loops = [] →
    holdsControl s.bundle = false →
    let u := t.after [] 0 (s.onward t).1 (s.onward t).2
    exec (.rfe st) s = .next (((s.committed t).updTask s.key leaveHandler).goOn s.cur s.bundle.slot) ∧
    (leaveHandler u).pc = t.epc ∧ (leaveHandler u).inh = false ∧ (leaveHandler u).sup = t.pprv ∧
    (∀ h, t.held = some h → (leaveHandler u).pending = h.pending ∧ (leaveHandler u).loops = h.loops ∧
      (leaveHandler u).cycle = h.cycle) ∧ (leaveHandler u).held = none)

-- Vector class (chapter 05). -------------------------------------------------------------------------------------

/-- R104, R106, R107, R112: integer operations on the elements of a vector, wrapped to their width, in the active elements
only.
R112: moves of elements: copies, complements, a general register in every element, and the numbers from a general register
on, for integer types modulo their width.
R55, R107: saturating sums, differences and products: clamped to the range of the signed type, with SAT where an active
element is clamped. -/
def Obligations.VectorIntegerResults : Prop :=
  (∀ (s : State) (t : Task) (st : Bool) (d a b : Code) (w : ITy) (p : BitVec 3), Alone s st t → DstV t d → SrcV t a →
    SrcV t b →
    let e := ityBytes w
    let x (i : Nat) : Nat := elem e (rdV t a (ityVty w)) i
    let y (i : Nat) : Nat := elem e (rdV t b (ityVty w)) i
    let r (lat : Nat) (f : Nat → Nat) : Host.Outcome State Fault Refusal :=
      .next (s.results t (toLanes d lat e (256 / e) (t.kReg p.toNat) f) 0)
    (Room t [3] →
      exec (.vadd st d a b (ityVty w) p) s = r 3 (fun i => x i + y i) ∧
      exec (.vsub st d a b (ityVty w) p) s = r 3 (fun i => x i + (256 ^ e - y i)) ∧
      exec (.vmin st d a b (ityVty w) p) s = r 3 (fun i => if toSigned (8 * e) (x i) ≤ toSigned (8 * e) (y i) then x i else y i) ∧
      exec (.vmax st d a b (ityVty w) p) s = r 3 (fun i => if toSigned (8 * e) (x i) ≤ toSigned (8 * e) (y i) then y i else x i) ∧
      exec (.vminn st d a b w p) s = r 3 (fun i => min (x i) (y i)) ∧
      exec (.vmaxn st d a b w p) s = r 3 (fun i => max (x i) (y i)) ∧
      exec (.vshl st d a b w p) s = r 3 (fun i => x i * 2 ^ (y i % (8 * e))) ∧
      exec (.vshr st d a b w p) s = r 3 (fun i => x i / 2 ^ (y i % (8 * e))) ∧
      exec (.vsha st d a b w p) s = r 3 (fun i => ofSigned (8 * e) (toSigned (8 * e) (x i) / 2 ^ (y i % (8 * e)))) ∧
      exec (.vabs st d a (ityVty w) p) s = r 3 (fun i => (toSigned (8 * e) (x i)).natAbs) ∧
      exec (.vneg st d a (ityVty w) p) s = r 3 (fun i => 256 ^ e - x i)) ∧
    (Room t [5] → exec (.vmul st d a b (ityVty w) p) s = r 5 (fun i => x i * y i))) ∧
  (∀ (s : State) (t : Task) (st : Bool) (d a g : Code) (v : VTy) (w : ITy) (p : BitVec 3), Alone s st t → DstV t d → SrcV t a →
    SrcG g → Room t [3] →
    let x (i : Nat) : Nat := elem (vtyBytes v) (rdV t a v) i
    let r (v : VTy) (f : Nat → Nat) : Host.Outcome State Fault Refusal :=
      .next (s.results t (toLanes d 3 (vtyBytes v) (256 / vtyBytes v) (t.kReg p.toNat) f) 0)
    exec (.vmov st d a v p) s = r v x ∧
    exec (.vnot st d a v p) s = r v (fun i => 256 ^ vtyBytes v - 1 - x i) ∧
    exec (.vbcast st d g v p) s = r v (fun _ => (rdG s.cur t g).toNat) ∧
    exec (.vli st d g (ityVty w) p) s = r (ityVty w) (fun i => (rdG s.cur t g).toNat + i)) ∧
  (∀ (s : State) (t : Task) (st : Bool) (d a b : Code) (w : ITy) (p : BitVec 3), Alone s st t → DstV t d → SrcV t a →
    SrcV t b →
    let e := ityBytes w
    let x (i : Nat) : Int := toSigned (8 * e) (elem e (rdV t a (ityVty w)) i)
    let y (i : Nat) : Int := toSigned (8 * e) (elem e (rdV t b (ityVty w)) i)
    let top : Int := 2 ^ (8 * e - 1)
    let clamp (z : Int) : Nat × BitVec 8 :=
      if z < -top then ((2 : Nat) ^ (8 * e - 1), 32) else if z ≥ top then ((2 : Nat) ^ (8 * e - 1) - 1, 32)
      else ((z % 2 ^ (8 * e)).toNat, 0)
    let r (lat : Nat) (f : Nat → Int) : Host.Outcome State Fault Refusal :=
      .next (s.elements t d lat e (256 / e) (t.kReg p.toNat) fun i => clamp (f i))
    (Room t [3] → exec (.vaddSat st d a b w p) s = r 3 (fun i => x i + y i) ∧
      exec (.vsubSat st d a b w p) s = r 3 (fun i => x i - y i)) ∧
    (Room t [5] → exec (.vmulSat st d a b w p) s = r 5 (fun i => x i * y i)))

/-- R107, R108, R110, R112: sums, differences, products, minima, maxima, signs and fused operations of floating-point elements:
exact values rounded once to nearest, ties to even; `.ftz` flushes a subnormal result.
R73, R112: reciprocal, reciprocal square root, square root, powers and logarithms to base 2, with a latency of 8; `vli` of a
floating-point type rounds exact integers. -/
def Obligations.VectorFloatResults : Prop :=
  (∀ (s : State) (t : Task) (st : Bool) (d a b : Code) (w : FTy) (p : BitVec 3), Alone s st t → DstV t d → SrcV t a →
    SrcV t b →
    let f := ftyFmt w
    let v := ftyVty w
    let e := vtyBytes v
    let x (i : Nat) : Nat := elem e (rdV t a v) i
    let y (i : Nat) : Nat := elem e (rdV t b v) i
    let z (i : Nat) : Nat := elem e (rdV t d v) i
    let r (lat : Nat) (g : Nat → Nat × BitVec 8) : Host.Outcome State Fault Refusal :=
      .next (s.elements t d lat e (256 / e) (t.kReg p.toNat) g)
    let rounded (ftz : Bool) (o : Fv × BitVec 8) : Nat × BitVec 8 :=
      let q := fvTo f .rn ftz o.1
      (q.1, o.2 ||| q.2)
    let sum (ftz : Bool) (i : Nat) : Nat × BitVec 8 := rounded ftz (fvAdd (fvOf f (x i)) (fvOf f (y i)))
    let difference (ftz : Bool) (i : Nat) : Nat × BitVec 8 := rounded ftz (fvAdd (fvOf f (x i)) (fvNeg (fvOf f (y i))))
    let product (ftz : Bool) (i : Nat) : Nat × BitVec 8 := rounded ftz (fvMul (fvOf f (x i)) (fvOf f (y i)))
    let fused (u c : Fv → Fv) (i : Nat) : Nat × BitVec 8 :=
      let m := fvMul (fvOf f (x i)) (fvOf f (y i))
      let o := fvAdd (u m.1) (c (fvOf f (z i)))
      rounded false (o.1, m.2 ||| o.2)
    let least (i : Nat) : Nat × BitVec 8 := fMinMax f false (x i) (y i)
    let greatest (i : Nat) : Nat × BitVec 8 := fMinMax f true (x i) (y i)
    (Room t [3] →
      exec (.vadd st d a b v p) s = r 3 (sum false) ∧ exec (.vaddFtz st d a b w p) s = r 3 (sum true) ∧
      exec (.vsub st d a b v p) s = r 3 (difference false) ∧ exec (.vsubFtz st d a b w p) s = r 3 (difference true) ∧
      exec (.vmin st d a b v p) s = r 3 least ∧ exec (.vmax st d a b v p) s = r 3 greatest ∧
      exec (.vabs st d a v p) s = r 3 (fun i => (x i % 2 ^ (8 * e - 1), 0)) ∧
      exec (.vneg st d a v p) s = r 3 (fun i => ((x i + 2 ^ (8 * e - 1)) % 2 ^ (8 * e), 0))) ∧
    (Room t [5] →
      exec (.vmul st d a b v p) s = r 5 (product false) ∧ exec (.vmulFtz st d a b w p) s = r 5 (product true) ∧
      exec (.vfma st d a b w p) s = r 5 (fused id id) ∧ exec (.vfms st d a b w p) s = r 5 (fused id fvNeg) ∧
      exec (.vfnma st d a b w p) s = r 5 (fused fvNeg id))) ∧
  (∀ (s : State) (t : Task) (st : Bool) (d a g : Code) (w : FTy) (p : BitVec 3), Alone s st t → DstV t d → SrcV t a → SrcG g →
    let f := ftyFmt w
    let v := ftyVty w
    let e := vtyBytes v
    let x (i : Nat) : Nat := elem e (rdV t a v) i
    let r (lat : Nat) (h : Nat → Nat × BitVec 8) : Host.Outcome State Fault Refusal :=
      .next (s.elements t d lat e (256 / e) (t.kReg p.toNat) h)
    (Room t [8] →
      exec (.vrcp st d a w p) s = r 8 (fun i => fRcp f (x i)) ∧
      exec (.vrsqrt st d a w p) s = r 8 (fun i => fRsqrt f (x i)) ∧
      exec (.vsqrt st d a w p) s = r 8 (fun i => fSqrt f (x i)) ∧
      exec (.vexp2 st d a w p) s = r 8 (fun i => fExp2 f (x i)) ∧
      exec (.vlog2 st d a w p) s = r 8 (fun i => fLog2 f (x i))) ∧
    (Room t [3] → exec (.vli st d g v p) s = r 3 (fun i => finalRound f .rn false (dyOfInt ((rdG s.cur t g).toInt + i)))))

/-- R109: `vcmp` writes the lanes of each active element with whether the condition holds of it; the other lanes of the
predicate keep their bits. -/
def Obligations.VectorCompareResults : Prop :=
  ∀ (s : State) (t : Task) (st : Bool) (c : VCond) (k : BitVec 4) (a b : Code) (v : VTy) (p : BitVec 3), Alone s st t →
    SrcV t a → SrcV t b → Room t [3] →
    let e := vtyBytes v
    let x (i : Nat) : Nat := elem e (rdV t a v) i
    let y (i : Nat) : Nat := elem e (rdV t b v) i
    let on (i : Nat) : Bool := (t.kReg p.toNat).getLsbD (i * e)
    let holds (i : Nat) : Bool × BitVec 8 := match vtyFmt v with
      | some f => fCmp f c (x i) (y i)
      | none =>
        let m := toSigned (8 * e) (x i)
        let n := toSigned (8 * e) (y i)
        (match c with | .eq => decide (m = n) | .ne => decide (m ≠ n) | .lt => decide (m < n) | .le => decide (m ≤ n), 0)
    let flags : BitVec 8 := (List.range (256 / e)).foldl (fun z i => if on i then z ||| (holds i).2 else z) 0
    ∃ m h : Pred, (∀ j, j < 256 → m.getLsbD j = on (j / e) ∧ h.getLsbD j = (on (j / e) && (holds (j / e)).1)) ∧
      exec (.vcmp st c k a b v p) s = .next (s.flagged t (
        if k = 0 then [] else [{ file := .k, reg := k.toNat, mask := m, val := h.setWidth 2048, lat := 3 }]) flags)

/-- R113, R114, R182: conversions between element types, and from a narrow format; a narrower or wider destination takes as many
elements as fit both. Elements smaller than a byte become visible with the contract latency, the active ones alone: the inactive
nibbles and digits of a byte keep what they hold then.
What a byte with an inactive element keeps is the model's reading (log entry 17). -/
def Obligations.VectorConversionResults : Prop :=
  ∀ (s : State) (t : Task) (st : Bool) (d a : Code) (from' target : VTy) (r : Rounding) (f : NarrowFmt) (p : BitVec 3),
    Alone s st t → DstV t d → SrcV t a → Room t [3] →
    let es := vtyBytes from'
    let ed := vtyBytes target
    exec (.vcvt st d a from' r target p) s = .next (s.elements t d 3 ed (256 / max ed es) (t.kReg p.toNat) fun i =>
      convert from' target r (elem es (rdV t a from') i)) ∧
    exec (.vcvtFormat st d a target p f false) s = .next (s.elements t d 3 ed (min (256 / ed) (narrowCount f)) (t.kReg p.toNat)
      fun i => fromNarrow f target (rdV t a target) i) ∧
    let on (n i : Nat) : Prop := i < min (256 / es) n ∧ (t.kReg p.toNat).getLsbD (i * es) = true
    let narrow (f : NarrowFmt) (i : Nat) : Option (Nat × BitVec 8) :=
      if on (narrowCount f) i then some (toNarrow f from' (elem es (rdV t a from') i)) else none
    let old (j : Nat) : Nat := elem 1 (rdV t d from') j
    let parts (x : Nat × Nat × BitVec 8) (part : Part) : State :=
      if trapsFlag t.asw x.2.2 then s.trapsAlone t { cause := .arithmetic, word := (newFlags t.asw x.2.2).setWidth 64 }
      else (s.opened.updTask s.key fun u =>
        if d.toNat < 48 then u.addPart d.toNat (BitVec.ofNat 256 x.2.1) (BitVec.ofNat 2048 x.1) 3 part else u).after s t [] x.2.2 (s.onward t)
    (∀ n, narrowBytes f = some n → exec (.vcvtFormat st d a from' p f true) s =
      .next (s.computed t d 3 n (min (256 / es) (narrowCount f)) (narrow f))) ∧
    (f = .e2m1 ∨ f = .e2m1Sat → ∃ m : BitVec 512, (∀ i, i < 512 → (m.getLsbD i = true ↔ on 512 i)) ∧
      exec (.vcvtFormat st d a from' p f true) s =
        .next (parts (lanes 1 (fun j => packNibbles (old j) (narrow f) j) 256) (.nibbles m))) ∧
    ∃ m : BitVec 1280, (∀ i, i < 1280 → (m.getLsbD i = true ↔ on 1280 i)) ∧ exec (.vcvtFormat st d a from' p .ternary true) s =
      .next (parts (lanes 1 (fun j => packDigits (old j) (narrow .ternary) j) 256) (.digits m))

/-- R72, R115: reductions leave their result in element 0 and zeros above it; scans the reduction of the active elements up to
each.
R72, R115: of integers a reduction is the sum modulo the width, the least, the greatest, and the bitwise combination of the
active elements; without an active element it is the operation's neutral value. -/
def Obligations.VectorReductionResults : Prop :=
  (∀ (s : State) (t : Task) (st : Bool) (d a : Code) (v : VTy) (w : ITy) (p : BitVec 3), Alone s st t → DstV t d → SrcV t a →
    Room t [6] →
    let k := t.kReg p.toNat
    let tree (v : VTy) (red : List (Option Nat) → Nat × BitVec 8) : Host.Outcome State Fault Refusal :=
      let r := red ((List.range (256 / vtyBytes v)).map fun i =>
        if k.getLsbD (i * vtyBytes v) then some (elem (vtyBytes v) (rdV t a v) i) else none)
      .next (s.flagged t (toV d 6 (BitVec.allOnes 256) (BitVec.ofNat 2048 (r.1 % 256 ^ vtyBytes v))) r.2)
    let scan (red : List (Option Nat) → Nat × BitVec 8) : Host.Outcome State Fault Refusal :=
      .next (s.elements t d 6 (vtyBytes v) (256 / vtyBytes v) k fun i => red ((List.range (i + 1)).map fun j =>
        if k.getLsbD (j * vtyBytes v) then some (elem (vtyBytes v) (rdV t a v) j) else none))
    exec (.vredAdd st d a v p) s = tree v (redSum v) ∧
    exec (.vredMin st d a v p) s = tree v (redPick false v) ∧
    exec (.vredMax st d a v p) s = tree v (redPick true v) ∧
    exec (.vredMinn st d a w p) s = tree (ityVty w) (redPickN false (8 * ityBytes w)) ∧
    exec (.vredMaxn st d a w p) s = tree (ityVty w) (redPickN true (8 * ityBytes w)) ∧
    exec (.vredAnd st d a w p) s = tree (ityVty w) (redBits (· &&& ·) (256 ^ ityBytes w - 1)) ∧
    exec (.vredOr st d a w p) s = tree (ityVty w) (redBits (· ||| ·) 0) ∧
    exec (.vredXor st d a w p) s = tree (ityVty w) (redBits (· ^^^ ·) 0) ∧
    exec (.vscanAdd st d a v p) s = scan (redSum v) ∧
    exec (.vscanMin st d a v p) s = scan (redPick false v) ∧
    exec (.vscanMax st d a v p) s = scan (redPick true v)) ∧
  (∀ (w : ITy) (l : List Nat) (present : Nat → Bool), (∀ x ∈ l, x < 256 ^ ityBytes w) → l.length = 256 / ityBytes w →
    let leaves := l.zipIdx.map fun q => if present q.2 then some q.1 else none
    let act := leaves.filterMap id
    (redSum (ityVty w) leaves).1 = act.sum % 256 ^ ityBytes w ∧
    (redPickN false (8 * ityBytes w) leaves).1 = act.foldl min (256 ^ ityBytes w - 1) ∧
    (redPickN true (8 * ityBytes w) leaves).1 = act.foldl max 0 ∧
    (redBits (· &&& ·) (256 ^ ityBytes w - 1) leaves).1 = act.foldl (· &&& ·) (256 ^ ityBytes w - 1) ∧
    (redBits (· ||| ·) 0 leaves).1 = act.foldl (· ||| ·) 0 ∧
    (redBits (· ^^^ ·) 0 leaves).1 = act.foldl (· ^^^ ·) 0)

/-- R117: `vcompress` packs the active elements behind their count, saturated with CNT; `vexpand` deals the packed elements out to
the active ones in order, zeros after the last.
R110, R111, R116: elements taken out, put in, permuted and selected; bitwise operations; clamping. -/
def Obligations.VectorPermutationResults : Prop :=
  (∀ (s : State) (t : Task) (st : Bool) (d a : Code) (v : VTy) (p : BitVec 3), Alone s st t → DstV t d → SrcV t a →
    Room t [6] →
    let e := vtyBytes v
    let n := 256 / e
    let x (i : Nat) : Nat := elem e (rdV t a v) i
    let on (i : Nat) : Bool := (t.kReg p.toNat).getLsbD (i * e)
    let act := (List.range n).filter on
    exec (.vcompress st d a v p) s = .next (s.flagged t (toV d 6 (BitVec.allOnes 256) (vectorOf e n fun j =>
        if j = 0 then min act.length (n - 1) else if j ≤ act.length then x (act.getD (j - 1) 0) else 0))
      (if act.length > n - 1 then 128 else 0)) ∧
    exec (.vexpand st d a v p) s = .next (s.flagged t (toLanes d 6 e n (t.kReg p.toNat) fun i =>
        let j := ((List.range i).filter on).length + 1
        if j ≤ min (x 0) (n - 1) then x j else 0) (if x 0 > n - 1 then 128 else 0))) ∧
  (∀ (s : State) (t : Task) (st : Bool) (d a b g h : Code) (w : ITy) (f : FTy) (k : BitVec 3), Alone s st t → DstV t d →
    SrcV t a → SrcV t b → SrcG g → SrcG h → Room t [3] →
    let e := ityBytes w
    let n := 256 / e
    let x (i : Nat) : Nat := elem e (rdV t a (ityVty w)) i
    let y (i : Nat) : Nat := elem e (rdV t b (ityVty w)) i
    let z (i : Nat) : Nat := elem e (rdV t d (ityVty w)) i
    let i := (rdG s.cur t h).toNat
    let whole (v : VReg) : Host.Outcome State Fault Refusal := .next (s.results t (toV d 3 (BitVec.allOnes 256) v) 0)
    (∀ c, DstG c → exec (.vext st c a h w) s =
      .next (s.results t (toG c 3 (if i < n then BitVec.ofInt 64 (toSigned (8 * e) (x i)) else 0)) 0)) ∧
    exec (.vins st d g h w) s = whole (vectorOf e n fun j => if j = i then (rdG s.cur t g).toNat else z j) ∧
    exec (.vperm st d a b w) s = whole (vectorOf e n fun j => if y j < n then x (y j) else 0) ∧
    exec (.vsel st d a b w k) s = whole (vectorOf e n fun j => if (t.kReg (8 + k.toNat)).getLsbD (j * e) then x j else y j) ∧
    exec (.vand st d a b) s = whole (rdV t a .i8 &&& rdV t b .i8) ∧
    exec (.vor st d a b) s = whole (rdV t a .i8 ||| rdV t b .i8) ∧
    exec (.vxor st d a b) s = whole (rdV t a .i8 ^^^ rdV t b .i8) ∧
    exec (.vclampInt st d a b w) s = whole (vectorOf e n fun j =>
      ofSigned (8 * e) (min (max (toSigned (8 * e) (z j)) (toSigned (8 * e) (x j))) (toSigned (8 * e) (y j)))) ∧
    exec (.vclampFp st d a b f) s = .next (s.elements t d 3 (vtyBytes (ftyVty f)) (256 / vtyBytes (ftyVty f))
      (BitVec.allOnes 256) fun j =>
        let lo := fMinMax (ftyFmt f) true (elem (vtyBytes (ftyVty f)) (rdV t d (ftyVty f)) j)
          (elem (vtyBytes (ftyVty f)) (rdV t a (ftyVty f)) j)
        let hi := fMinMax (ftyFmt f) false lo.1 (elem (vtyBytes (ftyVty f)) (rdV t b (ftyVty f)) j)
        (hi.1, lo.2 ||| hi.2)))

/-- R6, R118: predicates combined lane by lane, and their lanes counted.
R119: conditions from predicates: whether any or every lane of `b` has its bit in `a`; `vtoc` asks that the lanes agree and
raises *non-uniform condition* where they do not, with the lowest lane of each kind. -/
def Obligations.PredicateResults : Prop :=
  (∀ (s : State) (t : Task) (st : Bool) (d a b g : Code), Alone s st t → d.toNat < 16 → a.toNat < 16 → b.toNat < 16 → DstG g →
    Room t [3] →
    let x := t.kReg a.toNat
    let y := t.kReg b.toNat
    let r (v : Pred) : Host.Outcome State Fault Refusal := .next (s.results t (toK d 3 v) 0)
    exec (.kand st d a b) s = r (x &&& y) ∧
    exec (.kor st d a b) s = r (x ||| y) ∧
    exec (.kxor st d a b) s = r (x ^^^ y) ∧
    exec (.knot st d a) s = r (~~~x) ∧
    exec (.kpop st g a) s =
      .next (s.results t (toG g 3 (BitVec.ofNat 64 ((List.range 256).countP fun i => x.getLsbD i))) 0)) ∧
  (∀ (s : State) (t : Task) (st : Bool) (d a b : Code), Alone s st t → d.toNat < 8 → a.toNat < 16 → b.toNat < 16 →
    let x := t.kReg a.toNat
    let m := t.kReg b.toNat
    let any := (List.range 256).any fun i => m.getLsbD i && x.getLsbD i
    let every := (List.range 256).all fun i => !m.getLsbD i || x.getLsbD i
    (Room t [3] →
      exec (.vany st d a b) s = .next (s.results t (toC d.toNat 3 any) 0) ∧
      exec (.vall st d a b) s = .next (s.results t (toC d.toNat 3 every) 0) ∧
      ((any = true → every = true) → exec (.vtoc st d a b) s = .next (s.results t (toC d.toNat 3 any) 0)) ∧
      (∀ i j, i < 256 → j < 256 → m.getLsbD i = true → x.getLsbD i = true → m.getLsbD j = true → x.getLsbD j = false →
        (∀ k, k < i → m.getLsbD k = true → x.getLsbD k = false) → (∀ k, k < j → m.getLsbD k = true → x.getLsbD k = true) →
        exec (.vtoc st d a b) s =
          .next (s.trapsAlone t { cause := .nonUniform, word := BitVec.ofNat 64 (i + j * 2 ^ 8) }))))

-- Memory class (chapters 04, 05, 14, 15). ------------------------------------------------------------------------

/-- R87, R88, R278: scalar loads of plain memory: the little-endian number at the place of the address, extended by the width,
visible after 4 contract cycles; `ld.acq` to the next bundle.
R87, R89, R278: scalar stores to plain memory: the low bytes of a register at the place of the address, and nowhere else. An
acquire or a release of system scope has no access of its task to an aperture to wait for. An access clears the marks of its lines
(R255). -/
def Obligations.ScalarMemoryResults : Prop :=
  (∀ (s : State) (t : Task) (st : Bool) (d a b : Code) (w : Width) (x : BitVec 2) (i : BitVec 12) (c : Scope) (pa : Nat) (leaf : W64)
    (fills : List TlbEntry), Alone s st t → Idle t → DstG d → SrcG a → SrcG b → Plain s pa (widthBytes w) →
    InOrder s t [leaf] →
    let base := rdG s.cur t a
    let n := widthBytes w
    let v := memNat s.mem pa n
    let value : W64 := if w = .i8 ∨ w = .i16 ∨ w = .i32 then BitVec.ofInt 64 (toSigned (8 * n) v) else BitVec.ofNat 64 v
    let r (lat : Nat) : Host.Outcome State Fault Refusal := .next ((s.loaded fills [(pa, n)]).results t (toG d lat value) 0)
    (Room t [4] → scalarPlace s s.cur t .read n (BitVec.ofNat 64 (base.toNat + (rdG s.cur t b).toNat * 2 ^ x.toNat)) =
      .ok ([(pa, n, leaf)], fills) → exec (.ldRr st d a b w x) s = r 4) ∧
    (Room t [4] → w = .w64 → scalarPlace s s.cur t .read 8 (BitVec.ofInt 64 (base.toInt + i.toInt)) = .ok ([(pa, 8, leaf)], fills) →
      exec (.ldRi st d a i) s = r 4) ∧
    ((c = .system → Quiet s t) → orderedPlace s s.cur t .read n (base + rdG s.cur t b) = .ok ([(pa, n, leaf)], fills) →
      exec (.ldAcq st d a b w c) s = r 1)) ∧
  (∀ (s : State) (t : Task) (st : Bool) (d a b : Code) (w : ITy) (x : BitVec 2) (i : BitVec 12) (c : Scope) (pa : Nat) (leaf : W64)
    (fills : List TlbEntry), Alone s st t → Idle t → SrcG d → SrcG a → SrcG b → Plain s pa (ityBytes w) →
    InOrder s t [leaf] →
    let base := rdG s.cur t a
    let n := ityBytes w
    let v := (rdG s.cur t d).toNat % 256 ^ n
    let s' := ((s.cacheFills fills).opened.storeFor s.cur pa n v).after s t [] 0 (s.onward t)
    (scalarPlace s s.cur t .write n (BitVec.ofNat 64 (base.toNat + (rdG s.cur t b).toNat * 2 ^ x.toNat)) =
      .ok ([(pa, n, leaf)], fills) → exec (.stRr st d a b w x) s = .next s') ∧
    (w = .i64 → scalarPlace s s.cur t .write 8 (BitVec.ofInt 64 (base.toInt + i.toInt)) = .ok ([(pa, 8, leaf)], fills) →
      exec (.stRi st d a i) s = .next s') ∧
    ((c = .system → Quiet s t) → orderedPlace s s.cur t .write n (base + rdG s.cur t b) = .ok ([(pa, n, leaf)], fills) →
      exec (.stRel st d a b w c) s = .next s') ∧
    (∀ y, memGet s'.mem y = if pa ≤ y ∧ y < pa + n then BitVec.ofNat 8 (v / 256 ^ (y - pa)) else memGet s.mem y))

/-- R87, R288: an address that is not canonical raises *page fault* with reason 1 in the slot; one that is canonical and no
multiple of the size raises *misaligned access* with the size. Nothing of the bundle takes effect.
R289, R414: a load from device memory that meets a poisoned granule raises *uncorrectable error* with the granule's address; its
walk stays cached. -/
def Obligations.ScalarAccessTraps : Prop :=
  (∀ (s : State) (t : Task) (st : Bool) (d a b e : Code) (w : Width) (v : ITy) (x : BitVec 2), Alone s st t → Idle t → DstG d →
    SrcG a → SrcG b → SrcG e → Room t [4] →
    let ea := BitVec.ofNat 64 ((rdG s.cur t a).toNat + (rdG s.cur t b).toNat * 2 ^ x.toNat)
    let top := ea.toNat / 2 ^ 56
    let odd (n : Nat) : TrapInfo := { cause := .misaligned, word := BitVec.ofNat 64 n, target := some ea }
    let wild (k : Nat) : TrapInfo := { cause := .pageFault, word := BitVec.ofNat 64 (1 + k * 2 ^ 16), target := some ea }
    (top ≠ 0 → top ≠ 255 → exec (.ldRr st d a b w x) s = .next (s.trapsAlone t (wild 0)) ∧
      exec (.stRr st e a b v x) s = .next (s.trapsAlone t (wild 1))) ∧
    (top = 0 ∨ top = 255 →
      (ea.toNat % widthBytes w ≠ 0 → exec (.ldRr st d a b w x) s = .next (s.trapsAlone t (odd (widthBytes w)))) ∧
      (ea.toNat % ityBytes v ≠ 0 → exec (.stRr st e a b v x) s = .next (s.trapsAlone t (odd (ityBytes v)))))) ∧
  (∀ (s : State) (t : Task) (st : Bool) (d a b : Code) (w : Width) (x : BitVec 2) (pa granule : Nat) (leaf : W64) (fills : List TlbEntry),
    Alone s st t → Idle t → InOrder s t [leaf] → DstG d → SrcG a → SrcG b → Room t [4] →
    let ea := BitVec.ofNat 64 ((rdG s.cur t a).toNat + (rdG s.cur t b).toNat * 2 ^ x.toNat)
    scalarPlace s s.cur t .read (widthBytes w) ea = .ok ([(pa, widthBytes w, leaf)], fills) → regionOf s pa = .device →
    poisonAt s pa (widthBytes w) = some granule →
    exec (.ldRr st d a b w x) s =
      .next ((s.cacheFills fills).trapsAlone t { cause := .uncorrectable, word := BitVec.ofNat 64 granule, target := some ea }))

/-- R91 to R93: `ld.a` loads and enters its register, width and address in the address table; `chk.a` writes nothing while its
entry stands, and loads anew where it does not. Neither removes an entry by its own write.
A hit counts as a write in flight under R23.
R125, R126: hoisted vector loads: as `vld`, with an entry for the register over the 256 bytes; `vchk.a` writes nothing while an
entry of its register and address stands, and then counts as no write. -/
def Obligations.HoistedLoadResults : Prop :=
  (∀ (s : State) (t : Task) (st : Bool) (d a b : Code) (w : Width) (x : BitVec 2) (pa : Nat) (leaf : W64) (fills : List TlbEntry),
    Alone s st t → Idle t → d.toNat < 48 → SrcG a → SrcG b → Room t [4] → Plain s pa (widthBytes w) →
    InOrder s t [leaf] →
    let ea := BitVec.ofNat 64 ((rdG s.cur t a).toNat + (rdG s.cur t b).toNat * 2 ^ x.toNat)
    let n := widthBytes w
    let v := memNat s.mem pa n
    let value : W64 := if w = .i8 ∨ w = .i16 ∨ w = .i32 then BitVec.ofInt 64 (toSigned (8 * n) v) else BitVec.ofNat 64 v
    let loads := (s.loaded fills [(pa, n)]).results t (toG d 4 value) 0
    let others := t.atab.filter fun e => !(e.vec == false && e.reg == d.toNat)
    let entry : ATEntry := { vec := false, width := w, reg := d.toNat, va := ea.toNat, len := n,
                             pas := [(pa, n, decide (leaf ≠ 0 ∧ leaf.toNat / 2 ^ 10 % 4 = 0 ∧ regionOf s pa = .device))] }
    let found := t.atab.any fun e => !e.vec && e.width == w && e.reg == d.toNat && e.va == ea.toNat
    (scalarPlace s s.cur t .read n ea = .ok ([(pa, n, leaf)], fills) →
      exec (.ldA st d a b w x) s = .next (loads.hoisted s ((if others.length ≥ 16 then others.drop 1 else others) ++ [entry])) ∧
      (found = false → exec (.chkA st d a b w x) s = .next (loads.hoisted s t.atab))) ∧
    (found = true → exec (.chkA st d a b w x) s = .next ((s.results t (hitWrite 4) 0).hoisted s t.atab))) ∧
  (∀ (s : State) (t : Task) (st : Bool) (d a b : Code) (x : BitVec 2) (p : BitVec 3) (l : List Run3) (fills : List TlbEntry),
    Alone s st t → Idle t → d.toNat < 48 → d.toNat < t.vcnt → SrcG a → SrcG b → PlainRuns s l →
    InOrder s t (leavesOf l) →
    let scaled := BitVec.ofNat 64 ((rdG s.cur t a).toNat + (rdG s.cur t b).toNat * 2 ^ x.toNat)
    let plain := rdG s.cur t a + rdG s.cur t b
    let k := t.kReg p.toNat
    let lat (ea : W64) : Nat := if allNear k ea then 4 else 1
    let loads (ea : W64) : State :=
      (s.loaded fills (spans l)).results t (toV d (lat ea) k (BitVec.ofNat 2048 (runsNat s.mem l))) 0
    let others := t.atab.filter fun e => !(e.vec == true && e.reg == d.toNat)
    let entry : ATEntry := { vec := true, width := .w64, reg := d.toNat, va := scaled.toNat, len := 256,
                             pas := vectorRanges s scaled l }
    let found := t.atab.any fun e => e.vec && e.reg == d.toNat && e.va == plain.toNat
    (Room t [lat scaled] → vectorPlace s s.cur t .read scaled k = .ok (l, fills) →
      exec (.vldA st d a b x p) s = .next ((loads scaled).hoisted s (
        if k = 0 then others else (if others.length ≥ 16 then others.drop 1 else others) ++ [entry]))) ∧
    (found = true → exec (.vchkA st d a b p) s = .next (s.results t [] 0)) ∧
    (found = false → Room t [lat plain] → vectorPlace s s.cur t .read plain k = .ok (l, fills) →
      exec (.vchkA st d a b p) s = .next ((loads plain).hoisted s t.atab)))

/-- R121: the runs of a vector access cover its active byte lanes, each once, and no other lane.
R121 to R123: vector loads and stores of plain memory move the active byte lanes; a load from the near store is visible after 4
contract cycles, another to the next bundle. -/
def Obligations.VectorMemoryResults : Prop :=
  (∀ (p : Pred) (ea : W64),
    (∀ j, j < 256 → ((∃ r ∈ runsOf p ea, r.1 ≤ j ∧ j < r.1 + r.2) ↔ p.getLsbD j = true)) ∧
    (∀ r ∈ runsOf p ea, 0 < r.2 ∧ r.1 + r.2 ≤ 256) ∧ (runsOf p ea).Pairwise fun r q => r.1 + r.2 ≤ q.1) ∧
  (∀ (s : State) (t : Task) (st : Bool) (d a b : Code) (x : BitVec 2) (p : BitVec 3) (i : BitVec 12) (l : List Run3)
    (fills : List TlbEntry), Alone s st t → Idle t → SrcG a → SrcG b → PlainRuns s l →
    InOrder s t (leavesOf l) →
    let scaled := BitVec.ofNat 64 ((rdG s.cur t a).toNat + (rdG s.cur t b).toNat * 2 ^ x.toNat)
    let offset := BitVec.ofInt 64 ((rdG s.cur t a).toInt + i.toInt)
    let k := t.kReg p.toNat
    let every : Pred := BitVec.allOnes 256
    let lat (ea : W64) (k : Pred) : Nat := if allNear k ea then 4 else 1
    let loads (ea : W64) (k : Pred) : Host.Outcome State Fault Refusal :=
      .next ((s.loaded fills (spans l)).results t (toV d (lat ea k) k (BitVec.ofNat 2048 (runsNat s.mem l))) 0)
    let stores := ((s.cacheFills fills).opened.storeRuns s.cur (rdV t d .i8) l).after s t [] 0 (s.onward t)
    (DstV t d → Room t [lat scaled k] → fifoAccess s t scaled k = none → vectorPlace s s.cur t .read scaled k = .ok (l, fills) →
      exec (.vldRr st d a b x p) s = loads scaled k) ∧
    (DstV t d → Room t [lat offset every] → fifoAccess s t offset every = none →
      vectorPlace s s.cur t .read offset every = .ok (l, fills) → exec (.vldRi st d a i) s = loads offset every) ∧
    (SrcV t d → fifoAccess s t scaled k = none → vectorPlace s s.cur t .write scaled k = .ok (l, fills) →
      exec (.vstRr st d a b x p) s = .next stores) ∧
    (SrcV t d → fifoAccess s t offset every = none → vectorPlace s s.cur t .write offset every = .ok (l, fills) →
      exec (.vstRi st d a i) s = .next stores) ∧
    (∀ y, (∀ r ∈ l, y < r.2.2.1 ∨ r.2.2.1 + r.2.2.2.1 ≤ y) → memGet stores.mem y = memGet s.mem y))

/-- R124: `vldb` puts one element of memory into every active element; without an active element it writes no lane, and counts as
a write in flight.
R128: gather and scatter of near-store elements; of colliding elements the highest one stays. -/
def Obligations.BroadcastAndGatherResults : Prop :=
  (∀ (s : State) (t : Task) (st : Bool) (d a b : Code) (w : ITy) (p : BitVec 3) (pa : Nat) (leaf : W64) (fills : List TlbEntry),
    Alone s st t → Idle t → DstV t d → SrcG a → SrcG b → Plain s pa (ityBytes w) → InOrder s t [leaf] →
    let e := ityBytes w
    let ea := rdG s.cur t a + rdG s.cur t b * BitVec.ofNat 64 e
    let on (i : Nat) : Bool := (t.kReg p.toNat).getLsbD (i * e)
    let some' := (List.range (256 / e)).any on
    let bytes : Pred := BitVec.ofNat 256 (2 ^ e - 1)
    let lat := if allNear bytes ea then 4 else 1
    (some' = false → Room t [4] → exec (.vldb st d a b w p) s = .next (s.results t (toV d 4 0 0) 0)) ∧
    (some' = true → Room t [lat] → canonical ea = true → ea.toNat % e = 0 →
      placeAll s (slotCtx s.cur t) .read [(ea, e)] = .ok ([(pa, e, leaf)], fills) →
      exec (.vldb st d a b w p) s = .next ((s.loaded fills [(pa, e)]).results t
        (toLanes d lat e (256 / e) (t.kReg p.toNat) fun _ => memNat s.mem pa e) 0))) ∧
  (∀ (s : State) (t : Task) (st : Bool) (d a b : Code) (w : ITy) (c : Bool) (p : BitVec 3) (l : List Run3), Alone s st t → Idle t →
    SrcG a → SrcV t b → PlainRuns s l → InOrder s t (leavesOf l) →
    let e := ityBytes w
    let k := t.kReg p.toNat
    let mask := ((List.range (256 / e)).filter fun i => k.getLsbD (i * e)).map fun i => (2 ^ e - 1) * 2 ^ (e * i)
    elemPlaces s s.cur t e c (rdG s.cur t a) (rdV t b (ityVty w)) k = .ok l →
    (DstV t d → Room t [6] → exec (.vldg st d a b w c p) s =
      .next ((s.touched (spans l)).results t (toV d 6 (BitVec.ofNat 256 mask.sum) (BitVec.ofNat 2048 (runsNat s.mem l))) 0)) ∧
    (SrcV t d → exec (.vsts st d a b w c p) s =
      .next ((s.opened.storeRuns s.cur (rdV t d (ityVty w)) l).after s t [] 0 (s.onward t))))

/-- R251: a whole vector stored into the window of a FIFO bank is pushed at TAIL, where the bank has room; one loaded from it is
popped from HEAD, where it holds an entry.
R131, R309: `zpop` takes the next 256 bytes of a stream, or what is left of a closed one, when its bundle commits; a body that
waits for room goes on with what is freed.
Where poison stops a pop is the model's reading (log entry 32). -/
def Obligations.FifoAndStreamResults : Prop :=
  (∀ (s : State) (t : Task) (st : Bool) (d a : Code) (i : BitVec 12) (bank : Nat), Alone s st t → Idle t → SrcG a →
    let ea := BitVec.ofInt 64 ((rdG s.cur t a).toInt + i.toInt)
    let x := s.bankOf t.gid bank
    fifoAccess s t ea (BitVec.allOnes 256) = some bank →
    (DstV t d → x.head < x.tail → poisonAt s (s.fifoPa t.gid bank x.head) 256 = none → exec (.vldRi st d a i) s =
      .next ((s.opened.updBank t.gid bank fun y => { y with head := y.head + 1 }).after s t
        (toV d 1 (BitVec.allOnes 256) (BitVec.ofNat 2048 (memNat s.mem (s.fifoPa t.gid bank x.head) 256))) 0 (s.onward t))) ∧
    (SrcV t d → x.tail < x.head + 512 → exec (.vstRi st d a i) s = .next (((s.opened.store (some s.cur) (s.fifoPa t.gid bank x.tail) 256
      (rdV t d .i8).toNat).updBank t.gid bank fun y => { y with tail := y.tail + 1 }).after s t [] 0 (s.onward t)))) ∧
  (∀ (s : State) (t : Task) (st : Bool) (d a : Code) (p : BitVec 3), Alone s st t → DstV t d → a.toNat < 16 →
    let z := t.z[a.toNat]?.getD {}
    let n := min 256 z.present
    z.present ≥ 256 ∨ (z.closed = true ∧ z.present > 0) → streamPoison s s.cur t z = none →
    exec (.zpop st d a p) s = .next (s.changes t
      (fun u =>
        let z' := { z with head := if z.size = 0 then 0 else (z.head + n) % z.size, present := z.present - n }
        { u with z := u.z.setIfInBounds a.toNat (streamAdvance z.resv z') })
      (toV d 1 (t.kReg p.toNat) (streamValue s s.cur t z))))

/-- R279, R281: an atomic reads 8 bytes of plain memory, writes the result of its operation there, and gives the old value to the
next bundle; flags of a floating-point sum are recorded and do not trap.
R280: `vatom` performs its active lanes in order, each on memory as the lanes before it left it, and gives the old values to the
lanes. -/
def Obligations.AtomicResults : Prop :=
  (∀ (s : State) (t : Task) (st : Bool) (d a b : Code) (c : Scope) (o : AtomOp) (pa : Nat) (leaf : W64) (fills : List TlbEntry),
    Alone s st t → Idle t → DstG d → SrcG a → SrcG b → Plain s pa 8 → InOrder s t [leaf] →
    let va := rdG s.cur t a
    let y := (rdG s.cur t b).toNat
    let old := memNat s.mem pa 8
    let lane : AtomLane := (0, va, y, (rdG s.cur t d).toNat)
    let new : Nat := match o with
      | .add => (old + y) % 2 ^ 64
      | .addf => (fAdd .f64 false old y).1
      | .min => if toSigned 64 y < toSigned 64 old then y else old
      | .max => if toSigned 64 old < toSigned 64 y then y else old
      | .conj => old &&& y
      | .disj => old ||| y
      | .xor => old ^^^ y
      | .xchg => y
      | .cas => if old = (rdG s.cur t d).toNat then y else old
    let flags : BitVec 8 := if o = .addf then (fAdd .f64 false old y).2 else 0
    atomCheck s s.cur t (o == .addf) false c [lane] = .ok ([(lane, pa, 8, leaf)], fills) →
    exec (.atom st d a b c o) s = .next ((((s.cacheFills fills).opened.storeFor s.cur pa 8 new).updTask s.key fun u =>
      u.lateFlags flags).after s t (toG d 1 (BitVec.ofNat 64 old)) 0 (s.onward t))) ∧
  (∀ (s : State) (t : Task) (st : Bool) (d a b : Code) (o : VAtomOp) (p : BitVec 3) (l : List (AtomLane × Nat × Nat × W64))
    (fills : List TlbEntry), Alone s st t → Idle t → DstV t d → SrcG a → SrcV t b → (∀ q ∈ l, Plain s q.2.1 8) →
    InOrder s t (l.map fun q => q.2.2.2) →
    let lanes : List AtomLane := ((List.range 32).filter fun i => (t.kReg p.toNat).getLsbD (i * 8)).map fun i =>
      (i, rdG s.cur t a + BitVec.ofNat 64 (elem 8 (rdV t b .i64) i), elem 8 (rdV t d .i64) i, 0)
    let step (x : List Host.Cell × State × Nat × Nat × BitVec 8) (q : AtomLane × Nat × Nat × W64) :
        List Host.Cell × State × Nat × Nat × BitVec 8 :=
      let old := memNat x.1 q.2.1 8
      let r := atomNew (vatomOp o) old q.1.2.2.1 0
      (memPut q.2.1 r.1 8 x.1, x.2.1.storeFor s.cur q.2.1 8 r.1, x.2.2.1 + old * 256 ^ (8 * q.1.1),
        x.2.2.2.1 + 255 * 2 ^ (8 * q.1.1), x.2.2.2.2 ||| r.2)
    let x := l.foldl step (s.mem, (s.cacheFills fills).opened, 0, 0, 0)
    atomCheck s s.cur t (o == .addf) true .device lanes = .ok (l, fills) →
    exec (.vatom st d a b o p) s = .next ((x.2.1.updTask s.key fun u => u.lateFlags x.2.2.2.2).after s t
      (toV d 1 (BitVec.ofNat 256 x.2.2.2.1) (BitVec.ofNat 2048 x.2.2.1)) 0 (s.onward t)))

-- Symmetric tensors (chapter 07). --------------------------------------------------------------------------------

/-- R160 to R163: `ydesc` loads a descriptor of 64 bytes: rank 0 removes the register's descriptor, a descriptor that breaks no
rule becomes the register's, and another raises *invalid descriptor* with the reason and the offset of the field.
R165 to R167: `yidx` gives each tuple its storage offset, or one of the marks skipped, out of range, forced zero, sign; `ychk`
asks whether a tuple is its own representative with sign +1; without a descriptor both raise *invalid descriptor* with reason
0x10. -/
def Obligations.SymmetricIndexResults : Prop :=
  (∀ (s : State) (t : Task) (st : Bool) (d a : Code) (i : BitVec 12) (pa : Nat) (leaf : W64) (fills : List TlbEntry),
    Alone s st t → Idle t → d.toNat < 16 → SrcG a → Plain s pa 64 → InOrder s t [leaf] →
    let ea := BitVec.ofInt 64 ((rdG s.cur t a).toInt + i.toInt)
    let block : BitVec 512 := BitVec.ofNat 512 (memNat s.mem pa 64)
    let x := s.cacheFills fills
    let becomes (v : Option (BitVec 512)) : Host.Outcome State Fault Refusal :=
      .next ((s.loaded fills [(pa, 64)]).changes t (fun u => { u with y := u.y.setIfInBounds d.toNat v }) [])
    scalarPlace s s.cur t .read 64 ea = .ok ([(pa, 64, leaf)], fills) →
    (symRank block = 0 → exec (.ydesc st d a i) s = becomes none) ∧
    (symRank block ≠ 0 → symBad block = none → exec (.ydesc st d a i) s = becomes (some block)) ∧
    (∀ r o, symRank block ≠ 0 → symBad block = some (r, o) → exec (.ydesc st d a i) s = .next (x.trapsAlone t
      { cause := .invalidDescriptor, word := BitVec.ofNat 64 (r + o * 2 ^ 32), target := some ea }))) ∧
  (∀ (s : State) (t : Task) (st : Bool) (d a g : Code) (y : BitVec 4) (q : BitVec 512), Alone s st t → SrcV t a → SrcG g →
    let x (i : Nat) : Nat := elem 8 (rdV t a .i64) i
    let w := (rdG s.cur t g).toNat
    let index (z : Nat) : Nat :=
      if z / 2 ^ 63 % 2 = 1 then 2 ^ 63
      else match symMap q (tupleOf (symRank q) z) with
        | none => 2 ^ 60
        | some (o, sg) => if sg = 0 then 2 ^ 61 else if sg < 0 then o + 2 ^ 62 else o
    let absent : TrapInfo := { cause := .invalidDescriptor, word := BitVec.ofNat 64 (0x10 + y.toNat * 2 ^ 32) }
    (t.y[y.toNat]? = some (some q) →
      (DstV t d → Room t [6] → exec (.yidx st d a y) s =
        .next (s.results t (toV d 6 (BitVec.allOnes 256) (vectorOf 8 32 fun i => index (x i))) 0)) ∧
      (d.toNat < 8 → exec (.ychk st d g y) s = .next (s.results t (toC d.toNat 1 (decide (w / 2 ^ 63 % 2 = 0 ∧
        (symMap q (tupleOf (symRank q) w)).map (·.2) = some 1 ∧ symCanonical q (tupleOf (symRank q) w) = true))) 0))) ∧
    (t.y[y.toNat]? = some none →
      (DstV t d → exec (.yidx st d a y) s = .next (s.trapsAlone t absent)) ∧
      (d.toNat < 8 → exec (.ychk st d g y) s = .next (s.trapsAlone t absent))))

/-- R168 to R171: `vldy` and `vsty` reach the near store through the map: a loaded element is multiplied by the sign of its
tuple and is 0 where the tuple is forced to zero; a stored one is multiplied likewise, and forced zeros reach no storage. -/
def Obligations.SymmetricMemoryResults : Prop :=
  ∀ (s : State) (t : Task) (st : Bool) (d a b : Code) (y : BitVec 4) (z : Bool) (q : BitVec 512), Alone s st t → Idle t → SrcG a →
    SrcV t b → t.y[y.toNat]? = some (some q) →
    let base := rdG s.cur t a
    let l := mapLanes q (rdV t b .i64)
    let runs := mapRuns s s.cur t q base l
    let e := symBytes q
    let mask := l.map fun x => (2 ^ e - 1) * 2 ^ (e * x.1)
    let v := rdV t d (stageVsty.vtyOfCode (symType q))
    PlainRuns s runs → InOrder s t (leavesOf runs) →
    (DstV t d → Room t [6] → mapFault s s.cur t q base l none = none → exec (.vldy st d a b y) s =
      .next ((s.touched (spans runs)).results t (toV d 6 (BitVec.ofNat 256 mask.sum)
        (signedElems q l (BitVec.ofNat 2048 (runsNat s.mem runs)))) 0)) ∧
    (SrcV t d → mapFault s s.cur t q base l (if z then none else some v) = none → exec (.vsty st d a b y z) s =
      .next ((s.opened.storeRuns s.cur (signedElems q l v) runs).effected s t []))

/-- R172 to R177: `sctr` issues a contraction with the descriptors it names to the array; `sctr.vs` performs it at once, once no
symmetry is violated. -/
def Obligations.ContractionResults : Prop :=
  ∀ (s : State) (t : Task) (st : Bool) (d a b : Code) (pa : Nat) (leaf : W64) (fills : List TlbEntry) (job : SctrJob),
    Alone s st t → Idle t → t.holds d.toNat = true → SrcG a → SrcG b → Plain s pa 64 →
    InOrder s t [leaf] →
    let block : BitVec 512 := BitVec.ofNat 512 (memNat s.mem pa 64)
    let op : ArrayOp := { kind := .sctr job, bank := d.toNat, z := sctrZ block, cyc := t.cycle, addr := s.bundle.addr,
                          troot := t.troot, tasid := t.tasid, sup := t.sup }
    let c : Ctx := { gid := t.gid, core := s.cur, troot := t.troot, tasid := t.tasid, sup := t.sup, req := 1, slotL := false }
    let placed := placesOf s c (sctrPieces true job)
    orderedPlace s s.cur t .read 64 (rdG s.cur t a) = .ok ([(pa, 64, leaf)], fills) →
    sctrJob t d.toNat block (rdG s.cur t a) (rdG s.cur t b) = .ok job →
    exec (.sctr st d a b false) s = .next ((s.loaded fills [(pa, 64)]).changes t (fun u => u.issued op) []) ∧
    (∀ j, sctrFetch s s c t.answers true job = .ok j → (∀ p ∈ placed.1, Plain s p.1 p.2.1) →
      InOrder s t (placed.1.map fun p => p.2.2) →
      symViolation j = none → exec (.sctr st d a b true) s =
        .next ((s.loaded (fills ++ placed.2) ((pa, 64) :: placed.1.map fun p => (p.1, p.2.1))).changes t (fun u =>
        let r := sctrResult j (t.bank d.toNat) (t.bank (d.toNat + 1))
        ((if symType j.ya = 7 then (u.setBank d.toNat r.1).setBank (d.toNat + 1) r.2.1 else u.setBank d.toNat r.1).lateFlags r.2.2)) []))

-- Tensor class (chapter 06). -------------------------------------------------------------------------------------

/-- R136: an allocation of accumulator banks takes the lowest start of so many consecutive numbers that the task does not hold,
where the core has so many banks left; its banks read 0. Where there is none `acc.alloc` gives 64 and a false condition, and
`acc.alloc.t` raises *accumulators exhausted*.
R137, R195: `acc.free` gives banks back once no array operation and no follow-on uses them; freeing a bank of a solve that is
READY ends the solve and gives the history store back.
R134, R140: `acc.zero` and `acc.wr` are array operations; `acc.rd` reads a slice of a bank, here after every earlier operation
on it has finished. A bank that the task does not hold is *undefined encoding* with reason 0x30. -/
def Obligations.BankResults : Prop :=
  (∀ (s : State) (t : Task) (st : Bool) (d a b : Code), Alone s st t → DstG d → SrcG a → b.toNat < 8 →
    let n := (rdG s.cur t a).toNat
    let free (k : Nat) : Prop := k + n ≤ 64 ∧ ∀ i, i < n → t.holds (k + i) = false
    let grants (k : Nat) (ws : List RegWrite) : Host.Outcome State Fault Refusal := .next (s.changes t (fun u =>
      (List.range n).foldl (fun (u : Task) i => { u with acc := u.acc.setIfInBounds (k + i) (some 0) }) u) ws)
    let number (k : Nat) : List RegWrite := toG d 1 (BitVec.ofNat 64 k)
    (∀ k, 0 < n → n + banksHeld s s.cur ≤ 64 → free k → (∀ j, j < k → ¬ free j) →
      exec (.accAlloc st d a b) s = grants k (number k ++ toC b.toNat 1 true) ∧
      exec (.accAllocT st d a) s = grants k (number k)) ∧
    (0 < n → (n + banksHeld s s.cur > 64 ∨ ∀ k, ¬ free k) →
      exec (.accAlloc st d a b) s = .next (s.results t (number 64 ++ toC b.toNat 1 false) 0) ∧
      exec (.accAllocT st d a) s = .next (s.trapsAlone t
        { cause := .accExhausted, word := BitVec.ofNat 64 (min n (2 ^ 32 - 1) + (64 - banksHeld s s.cur) * 2 ^ 32) })) ∧
    (n = 0 → exec (.accAlloc st d a b) s = .next (s.results t (number 0 ++ toC b.toNat 1 true) 0) ∧
      exec (.accAllocT st d a) s = .next (s.results t (number 0) 0))) ∧
  (∀ (s : State) (t : Task) (st : Bool) (a b : Code), Alone s st t → SrcG a → SrcG b →
    let first := (rdG s.cur t a).toNat
    let n := (rdG s.cur t b).toNat
    let frees (u : Task) : Task :=
      (List.range n).foldl (fun (u : Task) i => { u with acc := u.acc.setIfInBounds (first + i) none }) u
    n ≤ 64 → (∀ i, i < n → t.holds (first + i) = true ∧ banksBusy s t (first + i) 1 = false) → (0 < n → arrayFlows t = true) →
    ((∀ i, i < n → carried t (first + i) = false) → exec (.accFree st a b) s = .next (s.changes t frees [])) ∧
    ((∃ i, i < n ∧ carried t (first + i) = true) → t.slv.code = .ready → exec (.accFree st a b) s =
      .next (((s.opened.updTask s.key fun u => { frees u with slv := { t.slv with code := .idle } }).updCore s.cur fun c =>
        { c with histOwner := none }).effected s t []))) ∧
  (∀ (s : State) (t : Task) (st : Bool) (d a b v : Code), Alone s st t → SrcG b → SrcV t v →
    let i := (rdG s.cur t b).toNat % 8
    let op (k : ArrayKind) : ArrayOp :=
      { kind := k, bank := d.toNat, cyc := t.cycle, addr := s.bundle.addr, troot := t.troot, tasid := t.tasid, sup := t.sup }
    (t.holds d.toNat = true →
      exec (.accZero st d) s = .next (s.changes t (fun u => u.issued (op .zero)) []) ∧
      exec (.accWr st d v b) s = .next (s.changes t (fun u => u.issued (op (.write i (rdV t v .i8)))) [])) ∧
    (t.holds a.toNat = true → DstV t d → (t.arrayQ.any (usesBanks a.toNat 1)) = false → arrayFlows t = true →
      Room t [4] → exec (.accRd st d a b) s =
      .next (s.results t (toV d 4 (BitVec.allOnes 256) ((t.bank a.toNat).extractLsb' (2048 * i) 2048)) 0)) ∧
    (t.holds d.toNat = false → exec (.accZero st d) s = .next (s.trapsAlone t (undefinedWith 0x30 d.toNat 1))))

/-- R143, R145, R147, R150, R152, R153: a matrix operation takes its operands, a tile handle or the head entries of rings, and
is issued to the array with the bank it adds to. -/
def Obligations.MatrixIssueResults : Prop :=
  ∀ (s : State) (t : Task) (st : Bool) (d a b : Code) (f : MmaFmt) (g : XFmt) (h : SpFmt) (q : BitVec 3) (x y z : Bool),
    Alone s st t → t.holds d.toNat = true →
    let second (ha : Bool) : Nat := if !ha && !y && a == b then 1 else 0
    let issues (kind : ArrayKind) (ha : Bool) (la lb : Nat) (z : Bool) (sel : Nat) : Host.Outcome State Fault Refusal :=
      .next (s.changes t (fun u => ((u.taken a ha).taken b y).issued
        { kind := kind, bank := d.toNat, z := z, a := operandOf s t a ha 0 16 la, b := operandOf s t b y (second ha) 32 lb,
          sel := sel, cyc := t.cycle, addr := s.bundle.addr, troot := t.troot, tasid := t.tasid, sup := t.sup }) [])
    (OperandReady s t a x 0 16 192 → OperandReady s t b y (second x) 32 192 →
      ((f = .f64 → d.toNat % 2 = 0 ∧ t.holds (d.toNat + 1) = true) →
        exec (.mma st d a b f x y z) s = issues (.mma f) x 192 192 z 0) ∧
      exec (.mmaX st d a b g x y z) s = issues (.scaled g) x 192 192 z 0) ∧
    (OperandReady s t a false 0 16 384 → OperandReady s t b y (second false) 32 192 → badSelect (selectBytes t q.toNat) = none →
      exec (.mmaSp st d a b h q y) s = issues (.sparse h) false 384 192 false (selectBytes t q.toNat)) ∧
    (OperandReady s t a false 0 16 192 → OperandReady s t b y (second false) 32 64 →
      exec (.mmaT3 st d a b z y) s = issues .ternary false 192 64 z 0)

/-- R149, R151, R154: edge scales are kept with their contract cycle, select words come from the code of the task, and
write-back is issued with the places of its rows. -/
def Obligations.TensorSupportResults : Prop :=
  ∀ (s : State) (t : Task) (st : Bool) (d a b v w : Code) (i : BitVec 18) (f : WbFmt) (p : Bool) (r : PruneKind),
    Alone s st t → SrcV t v → SrcV t w → SrcG a → SrcG b →
    let va := rdG s.cur t a
    let stride := rdG s.cur t b
    let object := t.objid.getD 0
    exec (.scl st v w) s = .next (s.changes t (fun u => { u with scl := u.scl ++
      [{ since := t.cycle + 3, rows := (rdV t v .i8).setWidth 768, cols := (rdV t w .i8).setWidth 1536 }] }) []) ∧
    (d.toNat < 8 →
      (∀ n, s.bundle.sel = some n → exec (.selLd st d i) s =
        .next (s.changes t (fun u => { u with q := u.q.setIfInBounds d.toNat (BitVec.ofNat 256 n) }) [])) ∧
      (∀ n places fills, s.bundle.sel = none → (∀ p ∈ places, Plain s p.1 p.2.1) →
        codeReadIn s { fetchCodeCtx s.cur t with req := 0 } t (BitVec.ofInt 64 (s.bundle.addr.toNat + 4 * i.toInt)) 32 =
          .ok (n, places, fills, []) →
        let x := ((s.loaded fills (places.map fun p => (p.1, p.2.1))).opened.updTask s.key fun u =>
          { u with q := u.q.setIfInBounds d.toNat (BitVec.ofNat 256 n) })
        let mark (e : XEntry) : XEntry :=
          if e.die = dieOf s.cur ∧ e.objid = object ∧ e.va = s.bundle.addr.toNat then { e with sel := some n } else e
        let sent (e : Nat × W64 × Bundle) : Nat × W64 × Bundle :=
          if e.2.1 = object ∧ e.2.2.addr = s.bundle.addr then (e.1, e.2.1, { e.2.2 with sel := some n }) else e
        exec (.selLd st d i) s = .next (((x.withSky { x.sky with xlat := x.sky.xlat.map mark }).updGroup t.gid fun g =>
          { g with stream := g.stream.map sent }).effected s t []))) ∧
    (t.holds d.toNat = true → (f = .f64 → d.toNat % 2 = 0 ∧ t.holds (d.toNat + 1) = true) → va.toNat % 32 = 0 → stride.toNat % 32 = 0 →
      ∀ l fills, placeAll s { slotCtx s.cur t with slotL := false } .write (wbRows va stride (32 * wbBytes f)) = .ok (l, fills) →
        (∀ x ∈ l, regionOf s x.1 ≠ .peer) → InOrder s t (l.map fun x => x.2.2) → exec (.wb st d a b f p r) s =
          .next ((s.cacheFills fills).changes t (fun u => u.issued
            { kind := .wb f (if p then some r else none) (l.map fun x => (x.1, x.2.1)), bank := d.toNat, cyc := t.cycle,
              a := { src := .handle va stride.toNat, rows := 16, len := 32 * wbBytes f, data := some 0 },
              addr := s.bundle.addr, troot := t.troot, tasid := t.tasid, sup := t.sup, strong := l.any fun x => leafStrong x.2.2 }) []))

/-- R142, R144, R308, R310: descriptors of operand rings and streams, the status of a ring and the pop of its head, which lets a
body that waits for an entry go on; a descriptor is changed only while no body moves into it. -/
def Obligations.RingResults : Prop :=
  ∀ (s : State) (t : Task) (st : Bool) (d a b : Code), Alone s st t → d.toNat < 16 → SrcG a → SrcG b →
    let base := rdG s.cur t a
    let g := (rdG s.cur t b).toNat
    let n := a.toNat
    let r := t.ring n
    let size := g % 2 ^ 16
    let count := g / 2 ^ 16 % 2 ^ 16
    let ring (r : Ring) : Host.Outcome State Fault Refusal := .next (s.changes t (fun u => { u with n := u.n.setIfInBounds d.toNat r }) [])
    let stream (z : Stream) : Host.Outcome State Fault Refusal := .next (s.changes t (fun u => { u with z := u.z.setIfInBounds d.toNat z }) [])
    ((t.ring d.toNat).resv = [] → targeted s s.key 3 d.toNat = false → accessWaits s t true [] = [] →
      (g = 0 → exec (.rdesc st d a b) s = ring {}) ∧
      (base.toNat % 256 = 0 → size % 256 = 0 → g < 2 ^ 32 → 0 < count → 0 < size → size ≤ 16384 →
        spanInWindow s s.cur t base (size * count) = true →
        exec (.rdesc st d a b) s = ring { base := base.toNat, size := size, count := count })) ∧
    ((t.z[d.toNat]?.getD {}).resv = [] → targeted s s.key 4 d.toNat = false → accessWaits s t true [] = [] →
      (g = 0 → exec (.zdesc st d a b) s = stream {}) ∧
      (base.toNat % 256 = 0 → g % 256 = 0 → 0 < g → g ≤ 65536 → spanInWindow s s.cur t base g = true →
        exec (.zdesc st d a b) s = stream { base := base.toNat, size := g })) ∧
    ((t.ring d.toNat).size ≠ 0 → 1 ≤ (t.ring d.toNat).full → (∀ o ∈ t.arrayQ, o.a.stuck = false ∧ o.b.stuck = false) →
      exec (.rpop st d) s = ring (ringAdvance (t.ring d.toNat).resv { t.ring d.toNat with
        head := ((t.ring d.toNat).head + 1) % (t.ring d.toNat).count, full := (t.ring d.toNat).full - 1 })) ∧
    (∀ c, DstG c → n < 16 → exec (.rstat st c a) s = .next (s.results t (toG c 1 (BitVec.ofNat 64 (r.full + r.head * 2 ^ 16 +
      r.tail * 2 ^ 32 + (if r.resv ≠ [] ∨ targeted s s.key 3 n = true then 2 ^ 48 else 0) + (if r.size = 0 then 0 else 2 ^ 49)))) 0))

/-- R69, R132, R147: the sums of an integer matrix operation are, at element (i, j) of its bank, the products of row i of A and
row j of B added to it, modulo 2^32; with `.z` they start from 0.
R75, R134, R140, R146, R147, R149, R150, R152, R154, R176: the oldest array operation of a task, with its operands read, leaves
its sums in its bank or banks, an `sctr` its scattered sums, a `wb` its elements in the rows of memory in their order, and its
flags in the ASW; a scaled one uses the last scales given in time for each of its halves.
When it finishes is the model's choice (log entry 16). -/
def Obligations.ArrayFinishResults : Prop :=
  (∀ (z : Bool) (a b : Nat) (acc : Bank) (i j : Nat), i < 16 → j < 32 →
    let at' (x r k : Nat) : Nat := x / 256 ^ (192 * r + k) % 256
    let old : Int := if z then 0 else acc.toNat / 256 ^ (4 * (32 * i + j)) % 2 ^ 32
    let element (r : Bank × BitVec 8) : Nat := r.1.toNat / 256 ^ (4 * (32 * i + j)) % 2 ^ 32
    let sums (value : Nat → Int) : Nat :=
      ((old + (((List.range 192).map fun k => value (at' a i k) * value (at' b j k)).sum : Int)) % 2 ^ 32).toNat
    element (mmaTile .i8 z a b acc) = sums (toSigned 8) ∧ (mmaTile .i8 z a b acc).2 = 0 ∧
    element (mmaTile .n8 z a b acc) = sums (fun x => (x : Int)) ∧ (mmaTile .n8 z a b acc).2 = 0) ∧
  (∀ (s : State) (core slot : Nat) (t : Task) (op : ArrayOp) (rest : List ArrayOp), s.task (taskKey core slot) = some t →
    t.arrayStop = none → t.arrayQ = op :: rest → op.a.stuck = false → op.b.stuck = false →
    let places := opPlaces s (fetchCtx core t op) op
    let fetched (o : Oper) (n : Nat) : Prop :=
      ∃ o', operFetch s (s.asBefore op) (fetchCtx core t op) t.fetched o = .ok o' ∧ o'.data = some n
    let b0 := t.bank op.bank
    let b1 := t.bank (op.bank + 1)
    let u : Task := { t with arrayQ := rest, fetched := [] }
    let after (v : Task) : Prop := exec (.arrayOperationFinish core slot) s =
      .next ((s.sawPlaces (s.asBefore op) places.2 places.1).setTask (taskKey core slot) v)
    let one (r : Bank × BitVec 8) : Prop := after ((u.setBank op.bank r.1).lateFlags r.2)
    let two (r : Bank × Bank × BitVec 8) : Prop := after (((u.setBank op.bank r.1).setBank (op.bank + 1) r.2.1).lateFlags r.2.2)
    (∀ x y, needPlaced s t.fetched places.1 = [] → fetched op.a x → fetched op.b y →
      (∀ f, op.kind = .mma f → f ≠ .f64 → one (mmaTile f op.z x y b0)) ∧
      (op.kind = .mma .f64 → two (mmaTile64 op.z x y b0 b1)) ∧
      (∀ f, op.kind = .sparse f → one (mmaSparse f op.sel x y b0)) ∧
      (∀ f, op.kind = .scaled f → f ≠ .e2m1 ∨ op.follow = true ∨ op.cyc + 10 ≤ t.cycle →
        let q := op.set0.getD (sclAt t op.cyc)
        one (mmaScaled f op.z q (if op.follow then q else sclAt t (op.cyc + 12)) x y b0)) ∧
      (op.kind = .ternary → one (mmaTernary op.z x y b0))) ∧
    (∀ job, op.kind = .sctr job → job.ready = true → op.a = {} → op.b = {} →
      let r := sctrResult job b0 b1
      (symType job.ya ≠ 7 → one (r.1, r.2.2)) ∧ (symType job.ya = 7 → two r)) ∧
    (∀ f p rows, op.kind = .wb f p rows → op.again = false → op.kept = [] → op.a.data ≠ none → op.b = {} →
      (∀ r ∈ rows, Plain s r.1 r.2) → ∃ y v, exec (.arrayOperationFinish core slot) s = .next y ∧
        y.mem = (rows.foldl (fun (m : List Host.Cell × Nat) r => (memPut r.1 (m.2 % 256 ^ r.2) r.2 m.1, m.2 / 256 ^ r.2))
          (s.mem, (wbData f p b0 b1).1)).1 ∧
        y.task (taskKey core slot) = some v ∧ v.arrayQ = rest ∧ v.acc = t.acc ∧ v.asw = aswOr t.asw (wbData f p b0 b1).2))

-- Engine class (chapter 17). -------------------------------------------------------------------------------------

/-- R276, R297, R304, R311 to R315: an engine slot with a descriptor that breaks no rule appends its command to its channel,
which has room, once every earlier access of the task is performed; `cpy.mm` captures the follow-on that its command word names.
That the 32 places of a channel are those of commands not yet started is the model's reading (log entry 40).
R318, R320 to R322: a drained channel, where the commands issued before have left it: it traps where an error has been recorded;
a publish swaps the sides of an entry of the task's address space; unstarted commands are cancelled and counted; the status word
is read and cleared. -/
def Obligations.CommandAndChannelResults : Prop :=
  (∀ (s : State) (t : Task) (st : Bool) (d a b : Code) (k : Bool) (pa : Nat) (leaf : W64) (fills : List TlbEntry), Alone s st t →
    Idle t → SrcG a → SrcG b → Plain s pa 64 →
    let va := rdG s.cur t a
    let arg := rdG s.cur t b
    let block : BitVec 512 := BitVec.ofNat 512 (memNat s.mem pa 64)
    let n := if k then 1 else 0
    let cmd (op bank : Nat) (f : Option Follow) : Cmd :=
      { desc := if op = 0x49 then withArg block arg else block, bop := arg, op := op, bank := bank, follow := f, uid := t.uid,
        gid := t.gid, i0 := t.i0, core := s.cur, troot := t.troot, tasid := t.tasid, dva := va, priv := t.sup }
    let enters (c : Cmd) : Host.Outcome State Fault Refusal :=
      .next (((s.loaded fills [(pa, 64)]).opened.enqueue s.cur n c).effected s t [])
    let w := arg.toNat
    let follow : Follow := { word := w % 2 ^ 32, ga := rdG s.cur t (BitVec.ofNat 6 (w / 2 ^ 12)),
                             gb := rdG s.cur t (BitVec.ofNat 6 (w / 2 ^ 6)), sel := selectBytes t (w / 2 % 8) }
    orderedPlace s s.cur t .read 64 va = .ok ([(pa, 64, leaf)], fills) → ((s.core s.cur).chan n).queue.length < 32 → Quiet s t →
    (cmdFault s t (cmd 0x49 0 none) = none → exec (.cpy st a b k) s = enters (cmd 0x49 0 none)) ∧
    (cmdFault s t (cmd 0x4B 0 none) = none → exec (.cpyb st a b k) s = enters (cmd 0x4B 0 none)) ∧
    (cmdFault s t (cmd 0x4C 0 none) = none → exec (.coll st a b k) s = enters (cmd 0x4C 0 none)) ∧
    (t.holds d.toNat = true → wordFault s.cur t w d.toNat = none → cmdFault s t (cmd 0x4A d.toNat (some follow)) = none →
      exec (.cpyMm st d a b k) s = enters (cmd 0x4A d.toNat (some follow)))) ∧
  (∀ (s : State) (t : Task) (st : Bool) (d a : Code) (k : Bool), Alone s st t → SrcG a →
    let n := if k then 1 else 0
    let g := (rdG s.cur t a).toNat
    let word := (t.chst[n]?.getD 0).toNat
    let c := (s.core s.cur).chan n
    let code := word / 2 ^ 32 % 2 ^ 8
    (t.stall = none → channelBusy s s.cur n s.nextId = false → Quiet s t →
      (code = 0 → exec (.drain st k) s = .next (s.results t [] 0)) ∧
      (code ≠ 0 → exec (.drain st k) s = .next (s.trapsAlone t { cause := .engineBounds,
                                                                 word := BitVec.ofNat 64 (0x15 + (code + word / 2 ^ 48 % 2 ^ 16 * 2 ^ 16) * 2 ^ 32) }))) ∧
    (∀ e, Idle t → commandsLeft s t.uid = false → s.regs.pubs[g]? = some e → e.ctl.getLsbD 0 = true →
      e.ctl.toNat / 2 ^ 32 % 2 ^ 16 = t.tasid.toNat % 2 ^ 16 → exec (.pub st a) s = .next (
        (s.opened.withRegs { s.regs with pubs := s.regs.pubs.setIfInBounds g { e with ctl := e.ctl ^^^ 2 } }).effected s t [])) ∧
    (g < 2 ^ 17 → exec (.ecan st a k) s =
      .next ((s.opened.cancelCmds s.cur s.bundle.slot n (g % 2 ^ 16) (decide (g ≥ 2 ^ 16))).effected s t [])) ∧
    (DstG d → exec (.estat st d k) s = .next (s.changes t (fun u => { u with chst := u.chst.setIfInBounds n 0 })
      (toG d 1 (BitVec.ofNat 64 (word + (c.queue.countP fun x => x.uid == t.uid) * 2 ^ 8 + c.active.countP fun x => x.cmd.uid == t.uid))))))

-- Flags, barriers and order (chapters 12, 15). -------------------------------------------------------------------

/-- R226 to R230: a wait on a flag takes its count, which is there and this task's turn; the overflow mark raises *count
overflow* before the wait begins, and no more while the task waits; a count of 0 clears the mark; posts add, and saturate with
the mark set; a remote post travels to its core, which serves the same launch.
R231 to R238: the named barriers of a group: a handle names one of them, arrivals and bytes to come are counted, phases complete
in their order, and a wait ends when its phase has completed.
R233: the events of one cycle at a barrier: a phase completes when its target of arrivals is reached and no byte is missing:
each completed phase takes its target from the arrivals, and what is left is less than the target; bytes that land beyond the
expectation complete the phase; expectations come last. Which events share a cycle is the model's reading (log entry 61). -/
def Obligations.FlagAndBarrierResults : Prop :=
  (∀ (s : State) (t : Task) (st : Bool) (d a b : Code) (i : BitVec 12), Alone s st t → d.toNat < 32 → SrcG a → SrcG b →
    let c := s.core s.cur
    let f := d.toNat
    let v := c.flag f
    let n := (rdG s.cur t a).toNat + i.toNat
    let target := (rdG s.cur t a).toNat
    let m := (rdG s.cur t b).toNat
    let becomes (x : CFlag) : Host.Outcome State Fault Refusal :=
      .next ((s.opened.updCore s.cur fun c => c.setFlag f x).effected s t [])
    let posted (n : Nat) : CFlag :=
      { value := min (v.value + n) (2 ^ 32 - 1), ovf := v.ovf || decide (v.value + n ≥ 2 ^ 32) }
    (0 < n → n < 2 ^ 32 → v.ovf = false ∨ (f, s.bundle.slot) ∈ c.waiters → n ≤ v.value → (∀ w, c.waiters.find? (fun w => w.1 == f) = some w → w.2 = s.bundle.slot) →
      exec (.fwait st d a i) s = becomes { v with value := v.value - n }) ∧
    (0 < n → n < 2 ^ 32 → v.ovf = true → (f, s.bundle.slot) ∉ c.waiters → exec (.fwait st d a i) s =
      .next (s.trapsAlone t { cause := .countOverflow, word := BitVec.ofNat 64 (f + 2 ^ 16) })) ∧
    (n = 0 → exec (.fwait st d a i) s = becomes { v with ovf := false }) ∧
    (Idle t → n < 2 ^ 32 → exec (.fpost st d a i) s = becomes (posted n)) ∧
    (n ≥ 2 ^ 32 → exec (.fpost st d a i) s = .next (s.trapsAlone t
      { cause := .countOverflow, word := BitVec.ofNat 64 (f + min n (2 ^ 40 - 1) * 2 ^ 24) })) ∧
    (Idle t → m < 2 ^ 32 → target < 512 → (s.core target).serves = some t.launch → exec (.fpostr st d a b) s =
      if target = s.cur then becomes (posted m)
      else .next ((s.opened.withNets { s.nets with posts := s.nets.posts ++
        [planPost s s.regs.tsc { src := s.cur, dst := target, flag := f, count := m, launch := t.launch }] }).effected s t []))) ∧
  (∀ (s : State) (t : Task) (st : Bool) (d a b : Code), Alone s st t → SrcG a → SrcG b →
    let g := s.group t.gid
    let h := (rdG s.cur t a).toNat
    let n := (rdG s.cur t b).toNat
    let x := g.barrier h
    let becomes (i a e : List Nat) (ws : List RegWrite) : Host.Outcome State Fault Refusal :=
      .next ((s.opened.barEvents t.gid h 1 i a [] e).effected s t ws)
    let arrives := barJoin s t.gid h [] [n] [] []
    let expects := barJoin s t.gid h [] [] [] [n]
    let done := 1 ≤ (x.phase + 2 ^ 32 - n % 2 ^ 32) % 2 ^ 32 ∧ (x.phase + 2 ^ 32 - n % 2 ^ 32) % 2 ^ 32 ≤ 2 ^ 31
    h < g.barriers.length → h < 512 →
    (Idle t → 0 < n → n ≤ 65535 → exec (.barInit st a b) s = becomes [n] [] [] []) ∧
    (Idle t → DstG d → n ≤ 65535 → (barCycle arrives.inits [] [] [] arrives.base).arrived + arrives.arrivals.sum ≤ 65535 →
      exec (.barArrive st d a b) s = becomes [] [n] [] (toG d 1 (BitVec.ofNat 64 arrives.base.phase))) ∧
    (Idle t → DstG d → n ≤ 2 ^ 40 - 1 → expects.outcome.pending ≤ 2 ^ 40 - 1 → exec (.barExpect st d a b) s =
      becomes [] [] [n] (toG d 1 (BitVec.ofNat 64 expects.outcome.phase))) ∧
    (x.ovr = false → done → exec (.barWait st a b) s = .next (s.results t [] 0)) ∧
    (d.toNat < 8 → exec (.barTest st d a b) s = .next (s.results t (toC d.toNat 1 (decide done)) 0))) ∧
  (∀ (s : State) (gid b k : Nat) (i a l e : List Nat), b < (s.group gid).barriers.length →
    let g := s.group gid
    let y := s.barEvents gid b k i a l e
    let c := barJoin s gid b i a l e
    (y.group gid).barrier b = barCycle c.inits c.arrivals c.lands c.expects c.base ∧
    (∀ m, m ≠ b → (y.group gid).barrier m = g.barrier m) ∧ y.mem = s.mem ∧ y.tasks = s.tasks ∧
    ((c.base = g.barrier b ∧ c.inits = i ∧ c.arrivals = a ∧ c.lands = l ∧ c.expects = e) ∨
      (∃ p ∈ g.barCycles, p.bar = b ∧ p.cycle = s.chip.cycles ∧ c.base = p.base ∧ c.inits = p.inits ++ i ∧
        c.arrivals = p.arrivals ++ a ∧ c.lands = p.lands ++ l ∧ c.expects = p.expects ++ e))) ∧
  (∀ (b : Barrier) (n : Nat) (a e : List Nat), 1 ≤ b.target →
    let total := b.arrived + a.sum
    let later := total - min total b.target
    let c := barCycle [] a [] e b
    (b.pending = 0 → c.arrived < b.target ∧
      (∃ k, total = k * b.target + c.arrived ∧ c.phase = (b.phase + k) % 2 ^ 32)) ∧
    (b.pending ≠ 0 → c.arrived = total ∧ c.phase = b.phase) ∧ c.pending = b.pending + e.sum ∧
    (b.pending ≠ 0 → barCycle [] a [b.pending] e b = { b with pending := e.sum, arrived := total % b.target,
                                                              phase := (b.phase + total / b.target) % 2 ^ 32 }) ∧
    (b.pending < n → barCycle [] a [n] e b = { b with pending := e.sum, arrived := later % b.target, ovr := true,
                                                      excess := min (b.excess + (n - b.pending)) (2 ^ 40 - 1),
                                                      phase := (b.phase + 1 + later / b.target) % 2 ^ 32 }) ∧
    (0 < n → barCycle [n] [] [] e b = { b with target := n, arrived := 0, pending := e.sum, excess := 0, ovr := false,
                                               phase := b.phase % 2 ^ 32 }))

/-- R277, R221: a fence, and outside a cadenced gang a wait for the time-step counter, have nothing to wait for here: accesses
of a task are performed when their bundles commit, which is the model's choice (log entry 5). A fence of system scope waits for
the accesses of its task to apertures.
R207, R219: `lnch` appends a packet of 128 bytes to a queue that is open to tasks and has room, advances its WRIDX and wakes its
dispatcher; a queue that is not open raises *permission* with its number. -/
def Obligations.OrderAndLaunchResults : Prop :=
  (∀ (s : State) (t : Task) (st : Bool) (k : FenceKind) (c : Scope) (a : Code) (i : BitVec 12), Alone s st t →
    (Idle t → (c = .system → Quiet s t) → exec (.fence st k c) s = .next (s.results t [] 0)) ∧
    (SrcG a → exec (.cwait st a i) s = .next (s.results t [] 0))) ∧
  (∀ (s : State) (t : Task) (st : Bool) (a b : Code) (pa : Nat) (leaf : W64) (fills : List TlbEntry), Alone s st t → Idle t → SrcG a →
    SrcG b → Plain s pa 128 → InOrder s t [leaf] →
    let q := (rdG s.cur t b).toNat
    let va := rdG s.cur t a
    let w := wrIdx s q
    (q < queueCount → queueDev s q = true → (w + 2 ^ 64 - rdIdx s q) % 2 ^ 64 < queueCap s q →
      orderedPlace s s.cur t .read 128 va = .ok ([(pa, 128, leaf)], fills) → exec (.lnch st a b) s =
        .next (((((s.loaded fills [(pa, 128)]).opened.store none (slotPa s q w) 128 (memNat s.mem pa 128)).store none (queuePa s q 0) 8
          ((w + 1) % 2 ^ 64)).wakeQueue q).effected s t [])) ∧
    (q ≥ queueCount ∨ queueDev s q = false → exec (.lnch st a b) s =
      .next (s.trapsAlone t { cause := .permission, word := BitVec.ofNat 64 q, target := some va })))

-- Solve regions (chapter 10). ------------------------------------------------------------------------------------

/-- R183 to R189, R344: `slv.cfg` checks and takes a configuration, with the history store of the core, which no reload waits for,
cleared for it; `slv.beg` opens the region and keeps the carried banks as the iterate of its number.
R190 to R193: `slv.end` keeps the residual of the iterate and its norm: at or below the tolerance the solve has converged; at the
ceiling `.nt` goes on without it and the other form raises *solve ceiling*; otherwise the next iterate replaces the carried banks
and control goes back to `slv.beg`.
R194, R197, R198: the state of a solve is read item by item, its columns slice by slice, and a solve is given up with its history
store; a column that holds poison raises *uncorrectable error* (R414).
The sign of a zero node is the model's reading of R65 (log entry 57). -/
def Obligations.SolveResults : Prop :=
  (∀ (s : State) (t : Task) (st : Bool) (d a b : Code), Alone s st t → SrcG d → SrcG a → SrcG b →
    let ctl := rdG s.cur t a
    let mix := rdG s.cur t b
    let v := t.slv
    let keeps (u : Solve) : Host.Outcome State Fault Refusal :=
      .next (((s.opened.updCore s.cur fun c =>
        (List.range (solveBanks u)).foldl (fun (c : Core) i =>
          { c with hist := c.hist.setIfInBounds (solveBanks u * xSlot u u.k + i) (t.bank (solveFirst u + i)),
                   histBad := c.histBad.filter fun n => n != solveBanks u * xSlot u u.k + i }) c).updTask s.key
            fun w => { w with slv := u }).effected s t [])
    (cfgMisuse t ctl mix = none →
      (v.code = .idle → (s.core s.cur).histOwner = none ∧ ∀ g ∈ s.gone, g.core = s.cur → g.marked = true → g.hist = false) →
      exec (.slvCfg st d a b) s = .next (((s.opened.updCore s.cur fun c =>
          { c with histOwner := some s.bundle.slot, hist := Vector.replicate 64 0, histBad := [] }).updTask s.key fun u =>
        { u with slv := { code := .ready, tau := rdG s.cur t d, ctl := ctl, mix := mix } }).effected s t [])) ∧
    (Idle t → t.loops = [] → v.code = .ready →
      exec (.slvBeg st) s = keeps { v with code := .opened, start := s.bundle.addr, k := 0, kk := 0, p := 0 }) ∧
    (Idle t → t.loops = [] → v.code = .looping → s.bundle.addr = v.start →
      exec (.slvBeg st) s = keeps { v with code := .opened }) ∧
    (t.loops = [] → v.code = .idle → exec (.slvBeg st) s = .next (s.trapsAlone t { cause := .solveMisuse, word := 6 }))) ∧
  (∀ (s : State) (t : Task) (st : Bool) (d : Code) (nt : Bool), Alone s st t → Idle t → d.toNat < 8 → t.loops = [] →
    holdsControl s.bundle = false → t.slv.code = .opened → (s.core s.cur).histBad = [] →
    (∀ i, i < solveBanks t.slv → banksBusy s t (solveFirst t.slv + i) 1 = false) →
    let v := t.slv
    let me : Member := (t, (s.core s.cur).hist)
    let r := residual me
    let nrm := solveNorm [me]
    let tau := fvOf .f64 v.tau.toNat
    let reached := fvLt (fvOf .f64 nrm.1) tau || fvEq (fvOf .f64 nrm.1) tau
    let column := banksOfElems (solveBanks v) (r.map (·.1))
    let flags := flagsOf r ||| nrm.2
    let done : Solve := { v with code := .ready, kk := v.kk + 1, norm := BitVec.ofNat 64 nrm.1 }
    let p := min v.k (solveDepth v)
    let gam := solveGamma p [me] (solveLambda v)
    let x := nextIterate p me gam
    let kept : State := s.opened.updCore s.cur fun c => column.zipIdx.foldl (fun (c : Core) q =>
      { c with hist := c.hist.setIfInBounds (solveBanks v * rSlot v v.k + q.2) q.1 }) c
    let ends (c : Bool) : Host.Outcome State Fault Refusal :=
      .next ((kept.updTask s.key fun u => ({ u with slv := done } : Task).lateFlags flags).effected s t (toC d.toNat 1 c))
    (∀ sg, fvOf .f64 nrm.1 ≠ .nan sg) →
    (reached = true → exec (.slvEnd st d nt) s = ends true) ∧
    (reached = false → v.k + 1 = solveCeil v → nt = true → exec (.slvEnd st d nt) s = ends false) ∧
    (reached = false → v.k + 1 = solveCeil v → nt = false → exec (.slvEnd st d nt) s =
      .next (s.trapsAlone t { cause := .solveCeiling, word := BitVec.ofNat 64 nrm.1 })) ∧
    (reached = false → v.k + 1 ≠ solveCeil v → (∀ g ∈ gam, isFinite g = true) → exec (.slvEnd st d nt) s =
      .next ((kept.updTask s.key fun u =>
        let w := (banksOfElems (solveBanks v) (x.map (·.1))).zipIdx.foldl (fun (u : Task) q => u.setBank (solveFirst v + q.2) q.1) u
        ({ w with slv := { done with code := .looping, k := v.k + 1, p := p } } : Task).lateFlags (flags ||| flagsOf x)).after s t
          (toC d.toNat 1 false) 0 (v.start, [])))) ∧
  (∀ (s : State) (t : Task) (st : Bool) (d a b : Code), Alone s st t → SrcG a → SrcG b →
    let v := t.slv
    let n := (rdG s.cur t a).toNat
    let m := (rdG s.cur t b).toNat
    let code : Nat := match v.code with | .idle => 0 | .ready => 1 | .opened => 2 | .looping => 3
    (DstG d → exec (.slvNorm st d a) s = .next (s.results t (toG d 1 (
      if n = 0 then v.norm else if n = 1 then v.tau
      else if n = 2 then BitVec.ofNat 64 (code + v.p % 16 * 2 ^ 2 + v.kk % 2 ^ 16 * 2 ^ 16)
      else if n = 3 then v.start else 0)) 0)) ∧
    (let inside : Prop := v.code ≠ .idle ∧ n < 2 * (solveDepth v + 1) ∧ m < 8 * solveBanks v;
      let poison : Prop := ∃ x ∈ (s.core s.cur).histBad, x / solveBanks v = n;
      (DstV t d → inside → ¬ poison → exec (.slvHist st d a b) s = .next (s.results t (toV d 1 (BitVec.allOnes 256)
        (((s.core s.cur).hist[solveBanks v * n + m / 8]?.getD 0).extractLsb' (2048 * (m % 8)) 2048)) 0)) ∧
      (DstV t d → inside → poison → exec (.slvHist st d a b) s = .next (s.trapsAlone t { cause := .uncorrectable, word := 0xFF })) ∧
      (DstV t d → ¬ inside → exec (.slvHist st d a b) s = .next (s.results t (toV d 1 (BitVec.allOnes 256) 0) 0))) ∧
    (v.code = .idle → exec (.slvAbort st) s = .next (s.results t [] 0)) ∧
    (v.code ≠ .idle → exec (.slvAbort st) s =
      .next (((s.opened.updTask s.key fun u => { u with slv := { v with code := .idle } }).updCore s.cur fun c =>
        { c with histOwner := none }).effected s t [])))

-- System class (chapters 16, 19, 20). ----------------------------------------------------------------------------

/-- R346 to R349, R352, R353: images of tasks written to memory by `ctx.save`, read into the handler of a task by `ctx.load`,
and into a free slot by `ctx.load.new`.
The pending counts of a save outside the handler are the model's choice (log entry 55). -/
def Obligations.ImageResults : Prop :=
  ∀ (s : State) (t : Task) (st : Bool) (a b : Code), Alone s st t → Idle t → t.sup = true → SrcG a → SrcG b →
    let va := if a.toNat = 56 then t.saveptr else rdG s.cur t a
    let at' := rdG s.cur t a
    let f := imageFields t
    let hist := (s.core s.cur).hist
    let parts := if t.inh then imageParts t s.cur s.bundle.slot f.1 f.2.1 f.2.2.1 f.2.2.2.1 [] f.2.2.2.2 hist
      else imageParts t s.cur s.bundle.slot 0 (s.onward t).1 t.pending t.loops [] t.trec hist
    (∀ l fills, canonical va = true → va.toNat % 4096 = 0 → transfersOf s t = false →
      placeParts s (imageCtx s.cur t) .write va parts = .ok (l, fills) → exec (.ctxSave st a) s =
        .next ((l.foldl (fun (x : State) p => p.1.foldl (fun y q => y.touchLines q.1 q.2.1)
          (writePieces x (some s.cur) t.source (p.1.map fun q => (q.1, q.2.1)) p.2)) (s.cacheFills fills)).results t [] 0)) ∧
    (∀ q, t.inh = true → canonical at' = true → at'.toNat % 4096 = 0 → loadParts s (imageCtx s.cur t) t.answers at' = .ok q →
      q.needs = [] → loadBad s s.cur s.bundle.slot (imageOf q.parts s.cur t) = none → exec (.ctxLoad st a) s =
        .next (((s.sawReads q.fills q.reads).loadHandler s.cur s.bundle.slot q.parts).effected s t [])) ∧
    (∀ q, (rdG s.cur t b).toNat ≤ 3 → canonical at' = true → at'.toNat % 4096 = 0 →
      loadParts s (imageCtx s.cur t) t.answers at' = .ok q → q.needs = [] →
      loadNewBad s s.cur (rdG s.cur t b).toNat (imageOf q.parts s.cur (taskOfTag s (partField q.parts 0x20 8) (partField q.parts 0x18 8))) = none →
      exec (.ctxLoadNew st a b) s = .next (((s.sawReads q.fills q.reads).loadNew s.cur (rdG s.cur t b).toNat q.parts).effected s t []))

/-- R46, R253, R254, R260, R337, R354, R370: control registers are read and written by number, where the accesses that a write
has to wait for are over: one that no rule assigns is *undefined encoding*; the registers that are not open to a task need
supervisor privilege and otherwise raise *privilege*; a value that is refused raises *permission*. -/
def Obligations.ControlRegisterResults : Prop :=
  ∀ (s : State) (t : Task) (st : Bool) (d : Code) (n : BitVec 12), Alone s st t → SrcG d →
    let k := n.toNat
    let v := rdG s.cur t d
    let y := s.opened.crApply (some s.key) k v
    (DstG d → crAssigned k = true → (t.sup = true ∨ crOpen k false = true) → exec (.crRd st d n) s =
      .next (s.results t (toG d 1 (crRead s (some (dieOf s.cur)) t k)) 0)) ∧
    (crAssigned k = true → (t.sup = true ∨ crOpen k true = true) → crRefused s t k v = false → k ≠ 0x12 ∨ v = 0 →
      (k = 0x10 → ∀ b ∈ banksChanged (s.group t.gid) v, bankBusy s t.gid b = false) → (k = 0x40 → AtomsDone s) →
      (∀ w, windowShut s k v = some w → aliasBusy s w = false) →
      (y.task s.key).isSome = true → exec (.crWr st d n) s = .next (y.effected s t [])) ∧
    (∀ places fills l, k = 0x12 → v ≠ 0 → Idle t → crRefused s t k v = false →
      schedulePlaces s s.cur t v.toNat = .ok (places, fills) → (∀ p ∈ places, Plain s p.1 p.2.1) →
      InOrder s t (places.map fun p => p.2.2) → loadSchedule s s.cur t v.toNat = .ok l → exec (.crWr st d n) s =
        .next ((((s.loaded fills (places.map fun p => (p.1, p.2.1))).opened.updGroup t.gid fun g =>
          { g with evcnt := v, sched := l }).wroteControl (some s.cur) 0x12).effected s t [])) ∧
    (crAssigned k = true → (t.sup = true ∨ crOpen k true = true) → crRefused s t k v = true → exec (.crWr st d n) s =
      .next (s.trapsAlone t { cause := .permission, word := BitVec.ofNat 64 k })) ∧
    (DstG d → crAssigned k = false → exec (.crRd st d n) s = .next (s.trapsAlone t (undefinedWith 2 (k % 256) 5))) ∧
    (DstG d → crAssigned k = true → t.sup = false → crOpen k false = false → exec (.crRd st d n) s =
      .next (s.trapsAlone t { cause := .privilege })) ∧
    (crAssigned k = true → t.sup = false → crOpen k true = false → exec (.crWr st d n) s =
      .next (s.trapsAlone t { cause := .privilege }))

/-- R291, R292, R372 to R374: cached translations, hoisted loads and translated code removed by range, by address space and in
all; code pinned, unpinned and hinted. At task privilege all but the hint raise *privilege*.
The accesses that `tlb.sync` waits for are the model's reading (log entry 41), and so are where an access counter lies (log
entry 43) and what pins and hints do (log entry 58).
R291: after the invalidation of an address space no cached translation of it is left, and after that of all none is left. R294
to R296: an access counter of the region of an address is read, and cleared by the form that clears. -/
def Obligations.InvalidationResults : Prop :=
  (∀ (s : State) (t : Task) (st : Bool) (a b : Code) (m : Tier), Alone s st t → Idle t → SrcG a → SrcG b →
    let start := (rdG s.cur t a).toNat % 2 ^ 57
    let len := (rdG s.cur t b).toNat
    let asid := t.tasid.toNat % 2 ^ 16
    let object := t.objid.getD 0
    let die := dieOf s.cur
    let denied : Host.Outcome State Fault Refusal := .next (s.trapsAlone t { cause := .privilege })
    let leaves (y : State) : Host.Outcome State Fault Refusal := .next (y.effected s t [])
    (t.sup = true →
      exec (.tlbInv st a b) s = leaves (s.opened.tlbInv 0 asid start len) ∧
      exec (.tlbInvAsid st) s = leaves (s.opened.tlbInv 1 asid 0 0) ∧
      exec (.tlbInvAny st a b) s = leaves (s.opened.tlbInv 2 asid start len) ∧
      exec (.tlbInvAll st) s = leaves (s.opened.tlbInv 3 asid 0 0) ∧
      (t.stall = none → bodiesMoving s = [] → rowsQueued s = [] → (∀ o ∈ s.nets.outside, o.store = none ∧ o.atomic = none) →
        exec (.tlbSync st) s = .next (s.results t [] 0)) ∧
      (AtomsDone s → exec (.xltInval st a b) s = leaves (s.opened.xltInval t.troot start len)) ∧
      (pinBad s die object start len = false → exec (.xltPin st a b) s = leaves (s.opened.xltPin true die object start len)) ∧
      exec (.xltUnpin st a b) s = leaves (s.opened.xltPin false die object start len)) ∧
    exec (.xltHint st a b m) s = leaves (s.opened.xltHint m die object start len) ∧
    (t.sup = false → exec (.tlbInv st a b) s = denied ∧ exec (.tlbInvAsid st) s = denied ∧ exec (.tlbInvAny st a b) s = denied ∧
      exec (.tlbInvAll st) s = denied ∧ exec (.tlbSync st) s = denied ∧ exec (.xltInval st a b) s = denied ∧
      exec (.xltPin st a b) s = denied ∧ exec (.xltUnpin st a b) s = denied ∧
      ∀ (d : Code) (c : Bool), DstG d → exec (.ctrRd st d a c) s = denied)) ∧
  (∀ (s : State) (asid a len : Nat),
    (∀ e ∈ (s.tlbInv 1 asid a len).tlb, e.asid ≠ asid) ∧ (s.tlbInv 3 asid a len).tlb = [] ∧
    (∀ e ∈ (s.tlbInv 2 asid 0 (2 ^ 57)).tlb, False) ∧ (∀ k e, (s.tlbInv 3 asid a len).task k = some e → e.atab = [])) ∧
  (∀ (s : State) (t : Task) (st : Bool) (d a : Code) (c : Bool) (r : Trans), Alone s st t → t.sup = true → DstG d → SrcG a →
    let x := s.cacheFills r.fills
    let region : Option Nat :=
      if r.pa < 2 ^ 39 then some (r.pa / 2 ^ 16)
      else if 2 ^ 48 ≤ r.pa ∧ r.pa < 2 ^ 48 + 2 ^ 39 then some (2 ^ 23 + (r.pa - 2 ^ 48) / 2 ^ 16) else none
    let counter (j : Nat) : Nat := s.regs.ctrbase.toNat / 2 ^ 26 * 2 ^ 26 + 4 * j
    let value : W64 := match region with
      | some j => if s.regs.ctrbase.getLsbD 0 then BitVec.ofNat 64 (memNat s.mem (counter j) 4 % 2 ^ 25 + 2 ^ 25) else 0
      | none => 0
    let cleared : State := match region with
      | some j => if s.regs.ctrbase.getLsbD 0 then
          x.opened.store none (counter j) 4 (memNat s.mem (counter j) 4 / 2 ^ 25 * 2 ^ 25) else x.opened
      | none => x.opened
    place s (imageCtx s.cur t) .read 8 (rdG s.cur t a) = .ok r →
    exec (.ctrRd st d a c) s = .next ((if c then cleared else x.opened).effected s t (toG d 1 value)))

/-- R375 to R377: `mc.ld` installs a package of microcode that passes every check of R377, read with supervisor loads. R47,
R375: a slot of class 111 without an entry raises *no microcode*; with one it has the whole effect of its body, as one slot,
where the body passes its checks and waits for nothing.
How a body runs where R375 leaves it open is the model's reading (log entry 31). -/
def Obligations.MicrocodeResults : Prop :=
  (∀ (s : State) (t : Task) (st : Bool) (a : Code) (l1 l2 : List (Nat × Nat × W64)) (f1 f2 : List TlbEntry), Alone s st t → Idle t →
    t.sup = true → SrcG a →
    let va := rdG s.cur t a
    let head := readPlaced s [] l1
    let n := head / 2 ^ 160 % 2 ^ 32 + 3309
    let bytes := natBytes (readPlaced s [] l2) n
    va.toNat % 64 = 0 → (∀ q ∈ l1 ++ l2, Plain s q.1 q.2.1) → InOrder s t ((l1 ++ l2).map fun q => q.2.2) →
    placeAll s (imageCtx s.cur t) .read (piecesOf va 64) = .ok (l1, f1) → packageHeaderBad head = false →
    placeAll s (imageCtx s.cur t) .read (piecesOf va n) = .ok (l2, f2) → packageFault bytes = none → AtomsDone s →
    exec (.mcLd st a) s =
      .next (((s.loaded f2 (l2.map fun p => (p.1, p.2.1))).opened.installUcode bytes).effected s t [])) ∧
  (∀ (s : State) (t : Task) (st : Bool) (e : BitVec 4) (d a b : Code) (f : BitVec 6), Alone s st t →
    let x : Staged := { stageMicro e d a b f s.cur s t with cls := microClass s e.toNat f.toNat, op := 0x70 + e.toNat, stop := st }
    (uentry s e.toNat f.toNat = none → exec (.microcodeSlot st e d a b f) s = .next (s.trapsAlone t { cause := .noMicrocode })) ∧
    (uentry s e.toNat f.toNat ≠ none → Idle t → Passes s t x →
      exec (.microcodeSlot st e d a b f) s = .next (s.stagedAlone x).commit))

-- Events of tasks and cores (chapters 06, 10 to 12, 19, 20). ------------------------------------------------------

/-- R131, R137, R184, R207, R213, R214, R221, R227, R237, R241, R251, R297, R318, R320, R360: a task waits with nothing of its
bundle in effect; when every wait of the bundle is met and its core runs the task, the bundle runs again from its first slot,
with no latch left; a core that runs no task takes the next ready one; a member of a gang has its core issue. While a wait is
not met, and while the core runs another task, nothing changes.
R397, R413: while no core issues, in a whole-device bubble and while the part is too hot, no bundle begins.
R239, R240: a wait that has lasted 2^WTEXP cycles raises *wait timeout* in the slot that waits, with the code of what it waits
for and the cycles it has waited; a shorter one goes on. R245: a member that holds for the roots of its gang waits until the
gang goes on. Of several such waits the first that is not met expires (the model's own, log entry 62). -/
def Obligations.WaitEvents : Prop :=
  (∀ (s : State) (core slot : Nat) (t : Task) (st : Stall), s.bundle.live = false → s.task (taskKey core slot) = some t →
    t.run = .ready → t.stall = some st → st.bundle.code ≠ [] → st.bundle.words ≠ [] →
    let met : Prop := ∀ w ∈ st.waits, waitMet s core slot t w = true
    let noLatch (c : Core) : Core := { c with latches := Vector.replicate 8 0, holds := Vector.replicate 16 0 }
    let picked : State := s.runSlot core slot
    let goes (i : Instr) : Prop :=
      (s.cadenced t = false → s.chip.halted = true ∨ s.chip.bubble ≠ 0 → exec i s = .next s) ∧
      (met → s.cadenced t = true ∨ (s.chip.halted = false ∧ s.chip.bubble = 0) → exec i s = .next (
        if s.cadenced t then { s with agenda := .issue core :: s.agenda }
        else if (s.core core).running = some slot then
          { s.updCore core noLatch with agenda := .issue core :: s.agenda, cur := core, bundle := { st.bundle with live := true } }
        else if (s.core core).running = none ∧ nextReady s core (s.core core).last = some slot then
          { picked with agenda := .issue core :: picked.agenda }
        else s)) ∧
      (¬ met → exec i s = .next s)
    (∀ b i o, .fifoPush b i o ∈ st.waits ∨ .fifoPop b i o ∈ st.waits → goes (.fifoStallRelease core slot)) ∧
    (∀ z k, .stream z k ∈ st.waits → goes (.zpopRelease core slot)) ∧
    (∀ b n, .banks b n ∈ st.waits → goes (.accFreeRelease core slot)) ∧
    (∀ c n, .drain c n ∈ st.waits → goes (.drainComplete core slot)) ∧
    (.pub ∈ st.waits → goes (.pubComplete core slot)) ∧
    (∀ f n, .flag f n ∈ st.waits → goes (.fwaitSatisfied core slot)) ∧
    (∀ b p, .barrier b p ∈ st.waits → goes (.barWaitSatisfied core slot)) ∧
    (.history ∈ st.waits → goes (.slvCfgStoreFree core slot)) ∧
    (∀ n, .cadence n ∈ st.waits → goes (.cwaitRelease core slot)) ∧
    (∀ q, .queueRoom q ∈ st.waits → goes (.lnchQueueRoom core slot)) ∧
    (∀ c, .channelRoom c ∈ st.waits → goes (.engineQueueRoom core slot))) ∧
  (∀ (s : State) (core slot : Nat) (t : Task) (st : Stall) (l r : List (Wait × Nat)) (w : Wait) (k : Nat), s.bundle.live = false →
    s.task (taskKey core slot) = some t → t.run = .ready → t.stall = some st → s.cadenced t = false →
    st.waits.zip st.slots = l ++ (w, k) :: r →
    let code (w : Wait) : Option Nat := match w with
      | .flag f _ => some f | .barrier b _ => some (0x1000 + b)
      | .ringFull n _ => some (0x2000 + n) | .ringIdle n => some (0x2000 + n)
      | .streamIdle z => some (0x3000 + z) | .stream z _ => some (0x3000 + z)
      | .banks b _ => some (0x4000 + b)
      | .fifoPush b _ _ => some (0x5000 + b) | .fifoPop b _ _ => some (0x5000 + b)
      | .channelRoom c => some (0x6000 + c) | .drain c _ => some (0x6000 + c) | .pub => some 0x6002
      | .gangRoots => some 0xFFFC | .queueRoom _ => some 0xFFFD | .history => some 0xFFFF
      | _ => none
    let timed (x : Wait × Nat) : Prop := (code x.1).isSome = true ∧ (waitMet s core slot t x.1 = false ∨ x.1 = .gangRoots)
    (∀ c, code w = some c → timed (w, k) → (∀ x ∈ l, ¬ timed x) → 2 ^ t.wtexp ≤ st.waited →
      exec (.waitTimeout core slot) s = .next (s.trap core slot t
        { cause := .waitTimeout, word := BitVec.ofNat 64 (c + min st.waited (2 ^ 40 - 1) * 2 ^ 24) } (2 ^ k) 0 false st.bundle.addr
        st.bundle.addr)) ∧
    ((∀ x ∈ l ++ (w, k) :: r, ¬ timed x) ∨ st.waited < 2 ^ t.wtexp → exec (.waitTimeout core slot) s = .next s))

/-- R75, R134, R140, R229, R387, R389: the oldest array operation of a task finishes; the oldest post of a pair of cores
arrives, on the static mesh when its step has come: it is counted in the flag where the core still serves its launch, and
otherwise it is discarded and counted in the life counter of discarded posts.
R214, R363 to R365, R374: the one slot of a bundle that has passed every check commits at one instant, or is dropped and its
bundle runs again from its first slot; a loop head whose count has reached HOT and that no hint keeps at tier 0 is promoted; a
task that has issued for 65536 cycles gives its core to the next ready one, unless it is in an atom.
R219, R222, R245, R360, R400: a gang whose lead has not issued begins at its start step, or at once without one; when every
member holds at its `slv.end`, and none waits for its carried banks, the gang goes on with the first.
R397, R413: none of this begins while no core issues, and no post of the static mesh arrives in a whole-device bubble. The
model's own choices: the flight of a post under the built-in table, two steps at the least (log entry 37); an atom of one bundle
(log entry 10); that an array operation may finish at any turn (log entry 16); the order in which the members of a gang go on
(log entry 11); a post whose core serves no launch (log entry 46); when a gang's start step is seen to have come (log entry 7).
-/
def Obligations.TaskAndGangEvents : Prop :=
  ((∀ (s : State) (core slot : Nat) (t : Task) (op : ArrayOp) (rest : List ArrayOp), s.task (taskKey core slot) = some t →
    t.arrayStop = none → t.arrayQ = op :: rest → op.a = {} → op.b = {} →
    let after (v : Bank) : Host.Outcome State Fault Refusal :=
      .next (s.setTask (taskKey core slot) (({ t with arrayQ := rest, fetched := [] } : Task).setBank op.bank v))
    (op.kind = .zero → exec (.arrayOperationFinish core slot) s = after 0) ∧
    (∀ i v, op.kind = .write i v → i < 8 → ∃ x : Bank,
      (∀ j, j < 8 → x.extractLsb' (2048 * j) 2048 = if j = i then v else (t.bank op.bank).extractLsb' (2048 * j) 2048) ∧
      exec (.arrayOperationFinish core slot) s = after x)) ∧
  (∀ (s : State) (l r : List Post) (p : Post), s.nets.posts = l ++ p :: r → (∀ x ∈ l, x.src ≠ p.src ∨ x.dst ≠ p.dst) →
    let s1 := s.withNets { s.nets with posts := l ++ r }
    let due : Prop := p.net ≠ .mesh ∨ (s.chip.bubble = 0 ∧ p.held = false ∧ match p.steps with
      | some u => u.2 ≤ s.regs.tsc
      | none => p.sent + 2 ≤ s.regs.tsc)
    (¬ due → exec (.remotePostArrival p.src p.dst) s = .next s) ∧
    (due → (s.core p.dst).serves = some p.launch → exec (.remotePostArrival p.src p.dst) s =
      .next (s1.updCore p.dst fun c => c.setFlag p.flag { value := min ((c.flag p.flag).value + p.count) (2 ^ 32 - 1),
                                                          ovf := (c.flag p.flag).ovf || decide (2 ^ 32 ≤ (c.flag p.flag).value + p.count) })) ∧
    (due → (s.core p.dst).serves ≠ some p.launch → exec (.remotePostArrival p.src p.dst) s = .next (s1.lifeUp 0x4015)))) ∧
  ((∀ (s : State) (t : Task) (st : Bool) (x : Staged), Alone s st t → Passes s t x → s.bundle.words.tail = [] →
    exec (.atomCommit s.cur) (s.stagedAlone x) = .next (s.stagedAlone x).commit ∧
    exec (.atomConflictDiscard s.cur) (s.stagedAlone x) = .next (s.withBundle { s.bundle with words := s.bundle.code, staged := [] })) ∧
  (∀ (s : State) (die : Nat) (head : BitVec 64),
    let fit (h : HeadCount) : Prop := h.die = die ∧ h.va = head.toNat ∧ s.regs.xltctl.toNat / 2 ^ 8 % 2 ^ 16 ≤ h.count ∧
      h.tier1 = false ∧ hintOf s.sky die h.objid head.toNat ≠ .tier0
    (s.regs.xltctl.getLsbD 1 = false ∨ (∀ h ∈ s.sky.heads, ¬ fit h) → exec (.tier1Promotion die head) s = .next s) ∧
    (∀ l h r, s.regs.xltctl.getLsbD 1 = true → s.sky.heads = l ++ h :: r → (∀ x ∈ l, ¬ fit x) → fit h →
      exec (.tier1Promotion die head) s = .next (s.withSky { s.sky with heads := s.sky.heads.map fun x =>
        if x = h then { x with tier1 := true } else x }))) ∧
  (∀ (s : State) (core slot other : Nat), (s.core core).running = some slot → nextReady s core slot = some other → other ≠ slot →
    s.bundle.live = false →
    ((s.core core).issued ≥ 65536 → (∀ t, s.task (taskKey core slot) = some t → inAtom t = false) → exec (.quantumExpiry core) s =
      .next ((((s.updTask (taskKey core slot) fun t => { t with atab := [] }).updCore core Core.switch).settleCore core).updCore core
        fun c => { c with running := some other })) ∧
    ((s.core core).issued < 65536 → exec (.quantumExpiry core) s = .next s))) ∧
  ((∀ (s : State) (gid : Nat),
    let g := s.group gid
    let l := s.launch g.launch
    let start := if l.parent.isNone then l.pkt.depmask.toNat else 0
    l.pkt.mode = 1 → g.phase = .started → g.origin = none →
    let stops : Prop := s.chip.halted = true ∨ s.chip.bubble ≠ 0
    (start ≤ s.regs.tsc → ¬ stops → exec (.cadencedStart gid) s =
      .next (s.setGroup gid { g with origin := some (if start = 0 then s.regs.tsc else start) })) ∧
    (s.regs.tsc < start ∨ stops → exec (.cadencedStart gid) s = .next s)) ∧
  (∀ (s : State) (gid key : Nat) (t : Task) (rest : List (Nat × Task)) (st : Stall), s.bundle.live = false →
    s.tasksOf gid = (key, t) :: rest → t.stall = some st → gangRuns s gid = true → (∀ e ∈ s.tasksOf gid, heldGang e.2 = false) →
    st.bundle.code ≠ [] → st.bundle.words ≠ [] →
    let stops : Prop := s.chip.halted = true ∨ s.chip.bubble ≠ 0
    let waits (e : Nat × Task) : Prop := ∃ u w, e.2.stall = some u ∧ w ∈ u.waits ∧ waitMet s (e.1 / 4) (e.1 % 4) e.2 w = false
    let noLatch (c : Core) : Core := { c with latches := Vector.replicate 8 0, holds := Vector.replicate 16 0 }
    ((∀ e ∈ s.tasksOf gid, holdsRoots e.2 = true ∧ ¬ waits e) → ¬ stops →
      exec (.gangRootsComplete gid) s = .next { s.updCore (key / 4) noLatch with
        cur := key / 4, bundle := { st.bundle with live := true }, agenda := .issue (key / 4) :: s.agenda }) ∧
    ((∃ e ∈ s.tasksOf gid, holdsRoots e.2 = false ∨ waits e) ∨ stops → exec (.gangRootsComplete gid) s = .next s)))

/-- R338 to R341: the first record that waits is posted where the fault queue has room; a parked task goes on at its resume
address, is handed to its handler with its record, or is terminated with its launch failing.
R342 to R344, R348, R367: a request marks a task; at a save point, in no atom, with its array operations and transfers finished,
its image is written to its save area and its slot is freed; a task marked for reload is loaded when its core has what it needs
and no gang stands in its way. That it takes its own slot again, and where it goes on inside its handler, is the model's choice
(log entry 25). -/
def Obligations.RecordAndPreemptionEvents : Prop :=
  ((∀ (s : State) (w : Waiting) (rest : List Waiting), s.notes.fqWait = w :: rest →
    let size := 2 ^ (s.regs.fqctl.toNat / 2 ^ 4 % 2 ^ 4 + 4)
    let shut : Prop := s.regs.fqctl.getLsbD 0 = false ∨ size ≤ (s.regs.fqwr + 2 ^ 32 - s.regs.fqrd) % 2 ^ 32
    let s1 := s.store none (s.regs.fqbase.toNat + 32 * (s.regs.fqwr % size)) 32
      (w.record.w0.toNat + w.record.w1.toNat * 2 ^ 64 + w.record.w2.toNat * 2 ^ 128 + w.record.w3.toNat * 2 ^ 192)
    let s2 := (s1.withRegs { s.regs with fqwr := (s.regs.fqwr + 1) % 2 ^ 32 }).withNotes
      { s.notes with fqWait := rest, msix0 := s.notes.msix0 + 1 }
    let marked := if w.req = 0 ∨ w.req = 3 then s2.updTask (taskKey w.unit w.slot) Task.posted else s2
    (shut → exec .faultQueuePost s = .next s) ∧
    (¬ shut → w.record.w0.toNat % 2 ^ 8 ≠ Cause.translation.code → exec .faultQueuePost s = .next marked) ∧
    (¬ shut → w.record.w0.toNat % 2 ^ 8 = Cause.translation.code → exec .faultQueuePost s = .next (marked.lifeUp 0x4012))) ∧
  (∀ (s : State) (unit slot req : Nat) (t : Task) (r : Rec) (p : Bool), unit < 512 → slot < 4 → req = 0 ∨ req = 3 →
    s.task (taskKey unit slot) = some t → t.run = .parked r p → r.w0.toNat / 2 ^ 16 % 2 ^ 3 = req → s.cadenced t = false →
    exec (.replayResume unit slot req) s = .next (s.setTask (taskKey unit slot) { t with run := .ready }) ∧
    (t.tvec ≠ 0 → r.w0.getLsbD 15 = false → exec (.replayDeliver unit slot req) s =
      .next (s.setTask (taskKey unit slot) { enterHandler t.pc r t with run := .ready })) ∧
    (t.tvec = 0 ∨ r.w0.getLsbD 15 = true → exec (.replayDeliver unit slot req) s = .next s) ∧
    ((s.core unit).spill = none → exec (.replayTerminate unit slot req) s =
      .next ((((s.updCore unit fun c => c).updCore unit fun c => { c with ch := c.ch.map fun h => h.cancel t.uid 0 true }).endTask unit
        slot).updLaunch t.launch fun l => { l with fail := some (BitVec.ofNat 64 (2 ^ 63 + 0x20)) })))) ∧
  ((∀ (s : State) (core slot : Nat) (t : Task), s.task (taskKey core slot) = some t → s.cadenced t = false →
    exec (.preemptRequest core slot false) s = .next (s.setTask (taskKey core slot) { t with preempt := true }) ∧
    ∀ l fills, t.preempt = true → s.bundle.live = false → t.run = .ready → t.stall = none → inAtom t = false → t.arrayStop = none →
      t.arrayQ = [] →
      (s.core core).spill = none → transfersOf s t = false →
      let cmds := queuedOf s core t.uid
      let f := imageFields t
      placeParts s (imageCtx core t) .write t.saveptr
        (imageParts t core slot f.1 f.2.1 f.2.2.1 f.2.2.2.1 cmds f.2.2.2.2 (s.core core).hist) = .ok (l, fills) →
      exec (.preemptSave core slot) s = .next ((l.foldl (fun (x : State) p =>
        writePieces x (some core) t.source (p.1.map fun q => (q.1, q.2.1)) p.2) (s.cacheFills fills)).saved core slot t t.saveptr
          (if t.inh then t.pc else f.2.1) cmds)) ∧
  (∀ (s : State) (core slot : Nat) (sl : Nat), sl < 4 → (∀ k t, s.task (taskKey core k) = some t → s.cadenced t = false) →
    ∃ y, exec (.preemptRequest core slot true) s = .next y ∧ ∀ t, s.task (taskKey core sl) = some t →
      y.task (taskKey core sl) = some { t with preempt := true }) ∧
  (∀ (s : State) (core : Nat) (g : Gone) (q : ImageRead), (s.gone.find? fun g => g.core == core && g.marked) = some g →
    loadParts s (imageCtx core { uid := g.uid, troot := g.troot, tasid := g.tasid, gid := g.gid }) g.answers g.va = .ok q →
    let base := { taskOfTag s (partField q.parts 0x20 8) (partField q.parts 0x18 8) with uid := g.uid }
    let img := imageOf q.parts core base
    let seen := s.sawPlaces s q.fills q.reads
    q.needs = [] →
    (s.task (taskKey core g.slot)) = none → g.slot < 4 → vectorsHeld s core + img.task.vcnt ≤ 192 →
    banksHeld s core + img.task.banks.length ≤ 64 → (img.task.slv.code = .idle ∨ (s.core core).histOwner = none) →
    ((s.core core).serves = none ∨ (s.core core).serves = some base.launch) → gangBlocks s core base = false →
    exec (.contextReload core) s = .next (({ seen with gone := seen.gone.erase g } : State).install core g.slot img (some g) base.launch)) ∧
  (∀ (s : State) (core : Nat), (∀ g ∈ s.gone, g.core ≠ core ∨ g.marked = false) → exec (.contextReload core) s = .next s))

-- Events that write control registers (chapters 14, 17, 19, 20, 23, 24). ------------------------------------------

/-- R92, R253, R254, R260, R316, R338, R354, R370, R391, R398: a control register written by a task or by the host with a value
that is not refused, where the accesses that it has to wait for are over; hoisted loads of the register's place go: a
device-wide register takes the bits that a write sets; enabling a window or an entry, the read index of the fault queue, the
Skiver's control and the cadence group take effect as their rules say.
R253, R254: the mode and schedule registers of a group, written by a task of it or by the host for a parked one: a bank whose
mode changes is empty, and one that has been cache holds zeros; a count of 0 ends the schedule, another loads its table, for the
host with supervisor privilege. -/
def Obligations.RegisterWriteEvents : Prop :=
  (∀ (s : State) (who : Party) (v : BitVec 64),
    let may (n : Nat) : Prop := crAssigned n = true ∧ match who with
      | .host => crRefused s {} n v = false ∧ (∀ x ∈ s.notes.hostWrites, x.key ≠ none ∨ x.num ≠ n) ∧
        (n = 0x40 → ∀ e ∈ s.tasks, atomRuns e.2 = false) ∧ ∀ w, windowShut s n v = some w → aliasBusy s w = false
      | .task c sl => ∃ t, s.task (taskKey c sl) = some t ∧ (t.sup = true ∨ crOpen n true = true) ∧ crRefused s t n v = false
    let core : Option Nat := match who with | .host => none | .task c _ => some c
    let key : Option Nat := match who with | .host => none | .task c sl => some (taskKey c sl)
    let sets (n : Nat) (r : Regs) : Host.Outcome State Fault Refusal := .next ((s.withRegs r).wroteControl core n)
    let r := s.regs
    (∀ n : BitVec 12, crOfTask n.toNat = false → may n.toNat →
      exec (.controlRegisterWrite who n v) s = .next (s.crApply key n.toNat v)) ∧
    (may 0x300 → exec (.controlRegisterWrite who 0x300 v) s = sets 0x300 { r with devid := (r.devid &&& ~~~0xFF) ||| (v &&& 0xFF) }) ∧
    (may 0x34 → exec (.fqrdWrite who v) s = sets 0x34 { r with fqrd := v.toNat % 2 ^ 32 }) ∧
    (may 0x306 → exec (.cgctlWrite who v) s = .next (((s.withRegs { r with
      cgctl := v &&& 0x1FF, cgstat := if v.getLsbD 8 = true ∧ v.toNat % 2 ^ 8 = r.devid.toNat % 2 ^ 8 then 1 else 0 }).withChip
        { s.chip with measured := false }).wroteControl core 0x306)) ∧
    (may 0x40 → exec (.xltctlWrite who v) s = .next (((((s.withRegs { r with xltctl := v &&& 0xFFFF03 }).withSky
      { s.sky with xlat := [], objs := [], sigs := [], hints := [], heads := [] }).withTasks
        (s.tasks.map fun e => (e.1, e.2.forget)))).wroteControl core 0x40)) ∧
    (∀ w, w < 8 → may (0x104 + 8 * w) →
      let becomes := sets (0x104 + 8 * w) { r with
        windows := r.windows.setIfInBounds w { (r.windows[w]?.getD {}) with ctl := v &&& 0xF01FF } }
      (v.getLsbD 8 = true → exec (.formatWindowEnable who w v) s = becomes) ∧
      (v.getLsbD 8 = false → exec (.formatWindowDisable who w v) s = becomes)) ∧
    (∀ e, e < 64 → may (0x202 + 4 * e) → v.getLsbD 0 = true →
      let old := r.pubs[e]?.getD {}
      exec (.publishEntryEnable who e v) s = sets (0x202 + 4 * e) { r with
        pubs := r.pubs.setIfInBounds e { old with ctl := (old.ctl &&& ~~~0xFFFF0FFFFF01) ||| (v &&& 0xFFFF0FFFFF01) } })) ∧
  (∀ (s : State) (who : Party) (k : Nat) (t : Task) (v : BitVec 64), s.task k = some t →
    (who = .host ∧ hostTask s = some k ∧ (∀ b ∈ banksChanged (s.group t.gid) v, bankBusy s t.gid b = false) ∧
      ∀ x ∈ s.notes.hostWrites, x.key ≠ some k) ∨
      (∃ c sl, sl < 4 ∧ who = .task c sl ∧ k = taskKey c sl) →
    let wrote (n : Nat) (x : State) : State := x.wroteControl (some (k / 4)) n
    let u : Task := if who = .host then { t with estat := t.estat ||| 1, answers := [] } else t
    (crRefused s t 0x10 v = false → ∃ y, exec (.csmodeWrite who v) s = .next y ∧ (y.group t.gid).csmode = v ∧
      (banksChanged (s.group t.gid) v = [] → y = wrote 0x10 (s.updGroup t.gid fun g => { g with csmode := v })) ∧
      ∀ i ∈ banksChanged (s.group t.gid) v, (y.bankOf t.gid i).head = 0 ∧ (y.bankOf t.gid i).tail = 0 ∧
        (bankMode (s.group t.gid) i = 0 → ∀ o, o < 0x20000 →
          memGet y.mem (bankPa (s.group t.gid).cluster ((s.group t.gid).banks.getD i 0) + o) = 0)) ∧
    (crRefused s t 0x12 0 = false → exec (.evcntWrite who 0) s =
      .next (wrote 0x12 (s.updGroup t.gid fun g => { g with evcnt := 0, sched := [] }))) ∧
    (∀ places fills l, v ≠ 0 → crRefused s t 0x12 v = false → schedulePlaces s (k / 4) u v.toNat = .ok (places, fills) →
      (∀ p ∈ places, Plain s p.1 p.2.1) → loadSchedule s (k / 4) u v.toNat = .ok l →
      exec (.evcntWrite who v) s = .next (wrote 0x12 ((s.sawPlaces s fills places).updGroup t.gid fun g => { g with evcnt := v, sched := l }))))

/-- R36, R354, R402 to R406, R409, R412: accesses of the host: a control register is read and written by aligned accesses of 8
bytes and no other; a refused write leaves the register number in HERR; one that turns a window off waits for the accesses
through it, one of the Skiver's control for the atoms that run, and any for an older write to its register, held in a place of
the model's own (log entry 44); memory is read and written, and a store to WRIDX wakes a queue; an invalidation is performed at
once, and a report is asked for.
R408, R409, R412: the first notice that waits is posted where the notice queue has room; DONE is set when no body, write-back or
access that writes at an aperture is under way, which is the model's choice of the accesses that may hold a removed translation
(log entry 41); the report that was asked for is written to device memory, and ERR is set where it does not fit (the model's
reading, log entry 43). -/
def Obligations.HostEvents : Prop :=
  (∀ (s : State) (n : Nat) (v : BitVec 64),
    let answer (x : Option W64) (y : State) : Host.Outcome State Fault Refusal := .next (y.withNotes { y.notes with hostOut := x })
    let older : Prop := ∃ x ∈ s.notes.hostWrites, x.key = none ∧ x.num = n
    let busy : Prop := older ∨ (n = 0x40 ∧ ∃ e ∈ s.tasks, atomRuns e.2 = true) ∨ ∃ w, windowShut s n v = some w ∧ aliasBusy s w = true
    (crAssigned n = true → crOfTask n = false → n < 4096 →
      exec (.hostBar0Access false (8 * n) 8 v) s = answer (some (crRead s none {} n)) s ∧
      (crRefused s {} n v = false → ¬ busy →
        exec (.hostBar0Access true (8 * n) 8 v) s = .next (s.crApply none n v)) ∧
      (crRefused s {} n v = false → busy → exec (.hostBar0Access true (8 * n) 8 v) s =
        .next (({ s with nextId := s.nextId + 1 } : State).withNotes
          { s.notes with hostWrites := s.notes.hostWrites ++ [{ ident := s.nextId, key := none, uid := 0, num := n, value := v }] })) ∧
      (crRefused s {} n v = true → ¬ older →
        exec (.hostBar0Access true (8 * n) 8 v) s = .next (s.withRegs { s.regs with herr := BitVec.ofNat 64 n }))) ∧
    (crAssigned n = false → exec (.hostBar0Access false (8 * n) 8 v) s =
      answer (some 0) (s.withRegs { s.regs with herr := BitVec.ofNat 64 (2 + n % 256 * 2 ^ 32 + 5 * 2 ^ 40) })) ∧
    (∀ off size, size ≠ 8 ∨ off % 8 ≠ 0 → exec (.hostBar0Access false off size v) s = answer (some 0) s ∧
      exec (.hostBar0Access true off size v) s = .next s) ∧
    (∀ pa size, 0 < size → size ≤ 8 → pa + size ≤ usableSize s → s.chip.memOn = true →
      let seen := s.touchLines pa size
      (poisonAt s pa size = none → exec (.hostMemoryAccess false pa size v) s = answer (some (BitVec.ofNat 64 (memNat s.mem pa size))) seen) ∧
      (poisonAt s pa size ≠ none → exec (.hostMemoryAccess false pa size v) s = answer none seen) ∧
      (pa + size ≤ s.regs.qtbase.toNat →
        exec (.hostMemoryAccess true pa size v) s = .next ((s.store none pa size v.toNat).touchLines pa size))) ∧
    (∀ q, q < queueCount → queuePa s q 8 ≤ usableSize s → s.chip.memOn = true →
      exec (.hostMemoryAccess true (queuePa s q 0) 8 v) s =
        .next (((s.store none (queuePa s q 0) 8 v.toNat).touchLines (queuePa s q 0) 8).wakeQueue q)) ∧
    (v.toNat < 2 ^ 18 → s.regs.hinvctl.getLsbD 62 = true → (∀ x ∈ s.notes.hostWrites, x.key ≠ none ∨ x.num ≠ 0x507) → exec (.hostInvalidate v) s =
      .next (((s.withRegs { s.regs with hinvctl := v }).tlbInv (v.toNat / 2 ^ 16) (v.toNat % 2 ^ 16) s.regs.hinvaddr.toNat
        s.regs.hinvlen.toNat).wroteControl none 0x507)) ∧
    ((∀ x ∈ s.notes.hostWrites, x.key ≠ none ∨ x.num ≠ 0x524) → exec .attestationRequest s = .next ((s.withRegs { s.regs with attctl := 0 }).wroteControl none 0x524))) ∧
  (∀ (s : State),
    (∀ (r : Rec) (rest : List Rec), s.notes.nqWait = r :: rest →
      let size := 2 ^ (s.regs.nqctl.toNat / 2 ^ 4 % 2 ^ 4 + 4)
      let shut : Prop := s.regs.nqctl.getLsbD 0 = false ∨ size ≤ (s.regs.nqwr + 2 ^ 32 - s.regs.nqrd) % 2 ^ 32
      (shut → exec .noticeQueuePost s = .next s) ∧
      (¬ shut → exec .noticeQueuePost s = .next (((s.store none (s.regs.nqbase.toNat + 32 * (s.regs.nqwr % size)) 32
        (r.w0.toNat + r.w1.toNat * 2 ^ 64 + r.w2.toNat * 2 ^ 128 + r.w3.toNat * 2 ^ 192)).withRegs
          { s.regs with nqwr := (s.regs.nqwr + 1) % 2 ^ 32 }).withNotes
            { s.notes with nqWait := rest, msix1 := s.notes.msix1 + 1 }))) ∧
    (let under : Prop := bodiesMoving s ≠ [] ∨ rowsQueued s ≠ [] ∨ ∃ o ∈ s.nets.outside, o.store ≠ none ∨ o.atomic ≠ none;
      (s.regs.hinvctl.getLsbD 62 = false → ¬ under → exec .hostInvalidateDone s =
        .next (s.withRegs { s.regs with hinvctl := s.regs.hinvctl ||| 2 ^ 62 })) ∧
      (under → exec .hostInvalidateDone s = .next s)) ∧
    (s.regs.attctl.getLsbD 1 = false →
      (s.regs.attbuf.toNat + 0x1000 ≤ usableSize s → ∃ y body signature : List Byte, ∃ z : State,
        exec .attestationDone s = .next z ∧ y = body ++ signature ∧ body.length = 0x238 ∧ signature.length = 3309 ∧
        z.regs = { s.regs with attctl := 2 } ∧ z.chip.reports = s.chip.reports + 1 ∧
        (∀ a, memGet z.mem a = if s.regs.attbuf.toNat ≤ a ∧ a < s.regs.attbuf.toNat + y.length then
          y.getD (a - s.regs.attbuf.toNat) 0 else memGet s.mem a) ∧
        body.take 8 = [0x41, 0x54, 0x54, 0x31, 1, 0, 0, 0]) ∧
      (usableSize s < s.regs.attbuf.toNat + 0x1000 → exec .attestationDone s = .next (s.withRegs { s.regs with attctl := 6 }))))

-- Events of queues, groups and engines (chapters 11, 17, 24). ----------------------------------------------------

/-- R203, R206, R209, R216, R406, R407: a store to WRIDX wakes a queue; the next packet of a queue that is in order is taken,
and one that passes every check becomes a launch, while poison in what the dispatcher reads stops it with a record (R414); a
member of a graph waits for its predecessors; a launch whose groups have all finished writes its completion word.
R204, R205, R209, R210, R212, R217, R218, R223: a dispatcher admits the last group of its candidate against the deficit of the
queue; the first admitted group that can ever fit starts where it fits, with its banks, its near stores and its tasks before
their first bundles; a dispatcher with nothing to do takes a group from the nearest cluster of its die; a group whose tasks and
commands have ended gives back what it held, and the fences that its cadenced launch keeps off wait for the completion of the
launch.
Which places a group takes is the model's choice (log entry 24); so are from where a group is stolen and when a member of a
graph becomes a candidate (log entry 50), and the fences that a cadenced launch holds off (log entry 33). -/
def Obligations.QueueAndGroupEvents : Prop :=
  ((∀ (s : State) (q : Nat) (v : BitVec 64),
    let x := s.store none (queuePa s q 0) 8 v.toNat
    let used := (wrIdx x q + 2 ^ 64 - rdIdx x q) % 2 ^ 64
    (queueOn x q = false ∨ (queueBad x q = false ∧ used ≤ queueCap x q) → exec (.queueWridxWrite q v) s = .next x) ∧
    (queueOn x q = true → queueBad x q = false → queueCap x q < used →
      exec (.queueWridxWrite q v) s = .next (x.queueError q 0x40 (rdIdx x q) true))) ∧
  (∀ (s : State) (cluster q : Nat), q < queueCount → queueOn s q = true → queueBad s q = false → queueCluster s q = cluster →
    let used := (wrIdx s q + 2 ^ 64 - rdIdx s q) % 2 ^ 64
    let slot := rdIdx s q
    let raw := memNat s.mem (slotPa s q slot) 128
    let p := packetOf raw
    let reads := packetReads s q slot (ctxVals s q) raw
    let seen := s.sawPlaces s reads.2 reads.1
    let x : State := { seen with nextId := s.nextId + 1 }
    let sound : Prop := poisonFault s none reads.1 = none
    let l : Launch := { id := s.nextId, queue := q, cluster := cluster, slotPa := slotPa s q slot, pkt := p, ctx := ctxVals s q,
                        groups := groupCount p, since := s.chip.cycles }
    used ≤ queueCap s q → queueBusy s q = false →
    (wrIdx s q = rdIdx s q → exec (.packetTake cluster q) s = .next s) ∧
    (∀ e, wrIdx s q ≠ rdIdx s q → poisonFault s none reads.1 = some e → exec (.packetTake cluster q) s = .next (x.stopLaunch
      { id := s.nextId, queue := q, cluster := cluster, slotPa := slotPa s q slot, pkt := { kind := 1 }, groups := 1, phase := .taking } e)) ∧
    (wrIdx s q ≠ rdIdx s q → sound → p.kind = 1 → tileBad raw true = none → cplBad s (ctxVals s q) raw = false →
      (p.mode = 1 → p.depmask = 0 ∨ s.regs.tsc ≤ p.depmask.toNat) →
      placementBad s cluster p = false → exec (.packetTake cluster q) s = .next (x.setLaunch s.nextId
        { l with phase := if p.serial ∧ earlierRuns s q s.nextId then .waiting else .candidate })) ∧
    (wrIdx s q ≠ rdIdx s q → sound → p.kind = 1 → tileBad raw true = none → cplBad s (ctxVals s q) raw = false → p.mode = 1 → p.depmask ≠ 0 →
      p.depmask.toNat < s.regs.tsc →
      exec (.packetTake cluster q) s = .next ((x.failPacket { l with groups := 0 } 9 false slot).leaveQueue q)) ∧
    (∀ r, wrIdx s q ≠ rdIdx s q → sound → p.kind = 1 → tileBad raw true = some r → r < 7 → cplBad s (ctxVals s q) raw = false →
      exec (.packetTake cluster q) s = .next ((x.failPacket { l with groups := 0 } r false slot).leaveQueue q))) ∧
  (∀ (s : State) (id h j : Nat) (l : Launch), mapGet id s.launches = some l → l.parent = some (h, j) → l.phase = .waiting →
    let done : Prop := ∀ e ∈ s.launches, ∀ i, e.2.parent = some (h, i) → l.pkt.depmask.getLsbD i = true → e.2.phase = .done
    (done → (s.launch h).phase ≠ .waiting →
      exec (.graphMemberReady id) s = .next (s.setLaunch id { l with phase := .candidate, since := s.chip.cycles })) ∧
    (¬ done ∨ (s.launch h).phase = .waiting → exec (.graphMemberReady id) s = .next s)) ∧
  (∀ (s : State) (id : Nat) (l : Launch) (pa : Nat) (leaf : W64) (fills : List TlbEntry), mapGet id s.launches = some l → l.pkt.kind = 1 →
    l.phase = .candidate → l.stopped = none → l.admitted = l.groups →
    (l.finished = l.groups → launchStores s l = false → placeAll s (dispatchCtx l.ctx) .write [(l.pkt.cpladdr, 8)] = .ok ([(pa, 8, leaf)], fills) →
      peerFault s (some l.pkt.cpladdr) [(pa, 8, leaf)] = none → exec (.launchComplete id) s =
        .next (((s.cacheFills fills).writeOut none { uid := l.id } pa 8 (l.fail.getD l.pkt.cplval).toNat).launchDone id)) ∧
    (l.finished ≠ l.groups ∨ launchStores s l = true → exec (.launchComplete id) s = .next s))) ∧
  ((∀ (s : State) (cluster p q : Nat) (l : Launch),
    let qs := candidateQueues s cluster
    let mine (q : Nat) : Bool := match candidateOf s q with | some l => l.pkt.prio == p | none => false
    let d := (mapGet q (s.cluster cluster).deficits).getD 0 + 32 * queueWeight s q
    let e := l.pkt.ext.getD 0 1
    let s1 := s.updCluster cluster fun c => { c with last := some q, deficits := mapSet q d c.deficits }
    let s2 := (s1.admitGroup l).updCluster cluster fun c => { c with deficits := mapSet q (d - e) c.deficits }
    servedPrio s qs = some p → nextQueue (s.cluster cluster).last (qs.filter mine) = some q → candidateOf s q = some l → l.pkt.prio = p →
    (d < e → exec (.groupAdmit cluster) s = .next s1) ∧
    (e ≤ d → admissible s1 l = true → candidateOf s2 q = none → s2.takePacket cluster q = s2 →
      exec (.groupAdmit cluster) s = .next (s2.updCluster cluster fun c => { c with deficits := mapSet q 0 c.deficits }))) ∧
  (∀ (s : State) (cluster gid : Nat) (never rest cores slots : List Nat), (s.cluster cluster).waiting = never ++ gid :: rest →
    let fitsSome (k : Nat) : Bool := everFits s cluster (s.launch (s.group k).launch).pkt
    (∀ k ∈ never, fitsSome k = false) → fitsSome gid = true → gid ∉ never →
    let g := s.group gid
    let l := s.launch g.launch
    let n := l.pkt.ext.getD 0 0
    let banks := (freeBanks s cluster).take l.pkt.csn
    let g1 : Group := { g with phase := .started, cores := cores, nsBase := reserveNear s (l.pkt.nsb * 1024) cores.eraseDups,
                               banks := banks, barriers := List.replicate l.pkt.bars { target := n }, csmode := l.pkt.csmode, alive := n }
    let s1 := (s.updCluster cluster fun c => { c with waiting := never ++ rest }).setGroup gid g1
    (groupFits s g l.pkt cores slots = true → l.pkt.mode = 0 → exec (.groupStart cluster cores slots) s =
      .next (placeTasks l g1 (cores.zip slots) 0 (takeBanks gid cluster l.pkt.csmode.toNat banks 0 s1))) ∧
    (groupFits s g l.pkt cores slots = false → exec (.groupStart cluster cores slots) s = .next s)) ∧
  (∀ (s : State) (cluster : Nat) (cores slots : List Nat),
    (∀ k ∈ (s.cluster cluster).waiting, everFits s cluster (s.launch (s.group k).launch).pkt = false) →
    exec (.groupStart cluster cores slots) s = .next s) ∧
  (∀ (s : State) (cluster victim gid : Nat), cluster < 64 → victim < 64 → victim / 8 = cluster / 8 → victim ≠ cluster →
    stealable s victim = some gid →
    (∀ k, k < 64 → k / 8 = cluster / 8 → k ≠ cluster → k ≠ victim → stealable s k = none) → hasFreeContext s cluster = true →
    (servedPrio s (candidateQueues s cluster) = none → (s.cluster cluster).waiting = [] → exec (.groupSteal cluster victim) s =
      .next (((s.updCluster victim fun c => { c with waiting := c.waiting.erase gid }).updCluster cluster fun c =>
        { c with waiting := c.waiting ++ [gid] }).updGroup gid fun x => { x with cluster := cluster })) ∧
    ((s.cluster cluster).waiting ≠ [] → exec (.groupSteal cluster victim) s = .next s)) ∧
  (∀ (s : State) (gid : Nat) (g : Group), mapGet gid s.groups = some g → g.phase = .started →
    let back (b : BankSt) : BankSt := if b.owner = some gid then { b with owner := none, mode := 0, head := 0, tail := 0 } else b
    (g.alive = 0 → commandsOf s gid = false → exec (.groupRelease gid) s =
      .next ((((s.withChip { s.chip with fenceHold := s.chip.fenceHold ++ fencesHeld s g }).updCluster g.cluster
            fun c => { c with banks := c.banks.map back }).setGroup gid
            { g with phase := .finished, cores := [], nsBase := [], banks := [], barriers := [], sched := [] }).updLaunch g.launch
        fun l => { l with finished := l.finished + 1 })) ∧
    (g.alive ≠ 0 ∨ commandsOf s gid = true → exec (.groupRelease gid) s = .next s)))

/-- R297, R298, R302, R307 to R309, R315, R323, R396: an engine that is free starts the oldest command of a channel, whose body
reserves its place in its ring or stream and is read; a collective waits for its members; a body of a closed stream ends in
error. A body that is read lands, posts, and is followed by the next or by the end of its command, after the acknowledgement of
its stores to an aperture; a body that waits goes on; a collective whose members have all issued proceeds, or ends in error
where they do not agree. -/
def Obligations.EngineEvents : Prop :=
  (∀ (s : State) (core ch : Nat) (c : Cmd) (rest : List Cmd),
    let x := (s.core core).chan ch
    let runs (y : Channel) : Nat := (y.active.filter fun a => a.state != .meeting).length
    let started : Nat := ((List.range 8).map fun j => ((s.core (core / 8 * 8 + j)).ch.toList.map runs).sum).sum
    let y (a : Active) : State := s.updCore core fun k => k.setChan ch { queue := rest, active := x.active ++ [a] }
    let first : Active := { cmd := c, state := .moving }
    let free : Prop := (started < 16 ∨ c.op = 0x4C) ∧ ((s.launch (s.group c.gid).launch).pkt.mode = 1 → x.active = []) ∧
      ∀ a ∈ x.active, a.state ≠ .stopped
    ch < 2 → x.queue = c :: rest →
    (free →
      (c.op = 0x4C → exec (.engineCommandStart core ch) s = .next (y { cmd := c, state := .meeting })) ∧
      (c.op ≠ 0x4C → streamShut s c = true → exec (.engineCommandStart core ch) s = .next ((y first).endInError core ch first 2)) ∧
      (c.op ≠ 0x4C → streamShut s c = false → sideGone s c = true → exec (.engineCommandStart core ch) s =
        .next ((y first).setActive core ch x.active.length { first with state := .waiting })) ∧
      (c.op ≠ 0x4C → streamShut s c = false → sideGone s c = false → exec (.engineCommandStart core ch) s =
        let r := reserve (y first) c
        .next (readBody core ch x.active.length (3 * bodyElems c.desc + 1) r.1 { first with resvd := true, start := r.2 }))) ∧
    (¬ free → exec (.engineCommandStart core ch) s = .next s)) ∧
  (∀ (s : State) (core ch : Nat) (a : Active) (rest : List Active), ch < 2 → ((s.core core).chan ch).active = a :: rest →
    let c := a.cmd
    let y := (landBuf (cmdSource s ch c) (landSize c) a.buf.length s a.buf).updIssuer c fun t => t.lateFlags a.flags
    let simple : Prop := c.follow = none ∧ postOf c.desc = 0 ∧ closeOf c.desc = false ∧ bodies c.desc ≤ a.body + 1
    (a.state = .moving → a.resvd = true → a.elem = bodyElems c.desc → spaceOf (lBase c.desc) < 3 → a.push = [] → a.landed = 0 →
      (simple → cmdStoresOut y c.cid = false → exec (.engineBodyLanded core ch) s = .next (y.dropActive core ch 0)) ∧
      (cmdStoresOut y c.cid = true → exec (.engineBodyLanded core ch) s =
        .next (y.setActive core ch 0 { a with landed := a.buf.length, state := .acking }))) ∧
    (a.elem ≠ bodyElems c.desc → exec (.engineBodyLanded core ch) s = .next s) ∧
    (a.state = .acking →
      (simple → cmdStoresOut s c.cid = false → exec (.engineWaitRelease core ch) s = .next (s.dropActive core ch 0)) ∧
      (cmdStoresOut s c.cid = true → exec (.engineWaitRelease core ch) s = .next s)) ∧
    (a.state = .waiting → a.resvd = false → c.op ≠ 0x4C → streamShut s c = false →
      (sideGone s c = true → exec (.engineWaitRelease core ch) s = .next (s.setActive core ch 0 a)) ∧
      (sideGone s c = false → exec (.engineWaitRelease core ch) s =
        let r := reserve s c
        .next (readBody core ch 0 (3 * bodyElems c.desc + 1) r.1 { a with resvd := true, start := r.2, state := .moving })))) ∧
  (∀ (s : State) (gid : Nat) (mask : BitVec 32) (n : Nat) (p : Nat × Nat × Nat) (a : Active) (l : List ((Nat × Nat × Nat) × Active)),
    collMembers s gid 0 mask.toNat n = some ((p, a) :: l) → (∀ m, m ≠ n → collMembers s gid 0 mask.toNat m = none) →
    let same : Prop := ∀ q ∈ l, collOp q.2.cmd = collOp a.cmd ∧ collType q.2.cmd = collType a.cmd ∧
      bodyElems q.2.cmd.desc * dstSize q.2.cmd.desc = bodyElems a.cmd.desc * dstSize a.cmd.desc
    (same → exec (.collectiveProceed gid 0 mask) s = .next (collRun s ((p, a) :: l) a)) ∧
    (¬ same → exec (.collectiveProceed gid 0 mask) s = .next (s.collFail ((p, a) :: l) 1)))

-- Events of the networks and of other devices (chapter 23). ------------------------------------------------------

/-- R390 to R394: a table that STCTL asks for is loaded where its image breaks no condition, and the built-in table is always
valid; from then on no stitch leaves, and it comes into force at a revolution boundary when none is under way; the posts held
back leave by it; a post that has been on the dynamic network for 4096 cycles moves to the escape channel, and keeps its place
among the posts of its pair; an escape is counted. R395, R410: on a link that carries flits a flit with a bad CRC is counted and
replayed by its sender, and with it every later one of the link; a good one for this device is delivered in the order of its
flow, another goes on over a link of its destination's ROUTE; a link that has failed 16 replays in a row retrains, which is
counted, while its flits go over the others, and carries flits again when its training ends.
That a switch clears ERR, and what a receiver does with a bad flit, are the model's reading (log entries 37 and 39). -/
def Obligations.StitchAndLinkEvents : Prop :=
  ((∀ (s : State), s.nets.stitchReq = some true →
    (stitchFails (stitchImage s) = none → exec .stitchTableLoad s = .next (s.awaitSwitch (some (stitchImage s)))) ∧
    (∀ c r, stitchFails (stitchImage s) = some (c, r) → exec .stitchTableLoad s =
      .next ((s.withNets { s.nets with stitchReq := none }).withRegs
        { s.regs with ststat := BitVec.ofNat 64 ((if s.nets.stitch.isNone then 2 else 0) + c * 2 ^ 8 + r * 2 ^ 16) }))) ∧
  (∀ (s : State), exec .stitchTableDefault s = .next (if s.nets.stitchReq = some false then s.awaitSwitch none else s)) ∧
  (∀ (s : State) (x : Option (List Host.Cell)),
    let held (p : Post) : Post := { p with steps := none, held := true }
    (s.awaitSwitch x).nets.stitchReq = none ∧ (s.awaitSwitch x).nets.stitchNew = some x ∧
    (∀ l r : List Post, ∀ p : Post, s.nets.posts = l ++ p :: r →
      (s.awaitSwitch x).nets.posts[l.length]? = some (
        if p.net = .mesh ∧ ∃ u, p.steps = some u ∧ s.regs.tsc < u.1 then held p else p))) ∧
  (∀ (s : State) (x : Option (List Host.Cell)), s.nets.stitchNew = some x →
    let under : Prop := ∃ p ∈ s.nets.posts, p.net = .mesh ∧ p.held = false
    let y := (s.withNets { s.nets with stitch := x, stitchNew := none }).withRegs { s.regs with ststat := if x.isNone then 2 else 0 }
    (s.regs.tsc % 256 = 0 → ¬ under → (∀ p ∈ s.nets.posts, p.held = false) → exec .stitchTableSwitch s = .next y) ∧
    (∀ p : Post, s.regs.tsc % 256 = 0 → ¬ under → s.nets.posts = [p] → p.held = true → exec .stitchTableSwitch s =
      .next (y.withNets { y.nets with posts := [planPost y (max p.sent (s.regs.tsc - 1)) { p with held := false }] })) ∧
    (s.regs.tsc % 256 ≠ 0 ∨ under → exec .stitchTableSwitch s = .next s)) ∧
  (∀ (s : State) (src dst : Nat),
    let mine (p : Post) : Prop := p.src = src ∧ p.dst = dst ∧ p.net = .dynamic ∧ p.sent + 4096 ≤ s.regs.tsc
    let counted (x : State) : Host.Outcome State Fault Refusal :=
      .next ((x.withRegs { s.regs with esccnt := s.regs.esccnt + 1 }).lifeUp 0x4013)
    (s.chip.cycles < 4096 → exec (.packetEscape src dst) s = .next s) ∧
    (∀ l r p, 4096 ≤ s.chip.cycles → s.nets.posts = l ++ p :: r → mine p → (∀ x ∈ l, ¬ mine x) →
      exec (.packetEscape src dst) s = counted (s.withNets { s.nets with posts := l ++ { p with net := .escape } :: r })) ∧
    (4096 ≤ s.chip.cycles → (∀ p ∈ s.nets.posts, ¬ mine p) → exec (.packetEscape src dst) s = counted s))) ∧
  (∀ (s : State) (n : Nat) (f : Flit), n < 16 →
    let k := s.regs.links[n]?.getD {}
    let linkIs (x : Link) : State := s.withRegs { s.regs with links := s.regs.links.setIfInBounds n x }
    let mine (x : Flow) : Bool := x.src == f.src.toNat && x.flow == f.flow
    let old := (s.nets.flows.find? mine).getD { src := f.src.toNat, flow := f.flow, next := 0 }
    let good := linkIs { k with fails := 0, await := none }
    let name : BitVec 8 × Nat × BitVec 16 := (f.src, f.flow, f.seq)
    let due : Prop := ∀ w, k.await = some w → w = name
    let taken : Prop := f.crcOk = true ∧ due
    let mineDev : Prop := f.dst.toNat = s.regs.devid.toNat % 2 ^ 8
    let towards := routeLinks s f.dst none
    let onto (i : Nat) : State := good.updLink i fun x => { x with buffer := x.buffer ++ [f] }
    let flows (next : Nat) (early : List Flit) : List Flow := s.nets.flows.filter (fun x => !mine x) ++ [{ old with next := next, early := early }]
    (k.up = true → k.train = false →
      (¬ due → exec (.flitReceive n f) s = .next (linkIs { k with retry := min (k.retry + 1) (2 ^ 32 - 1) })) ∧
      (due → f.crcOk = false → exec (.flitReceive n f) s =
        .next (linkIs { k with retry := min (k.retry + 1) (2 ^ 32 - 1), fails := k.fails + 1, await := some name })) ∧
      (taken → mineDev → old.early = [] → f.seq.toNat = old.next → exec (.flitReceive n f) s =
        .next (good.withNets { s.nets with flows := flows ((old.next + 1) % 2 ^ 16) [], inbox := s.nets.inbox ++ [f] })) ∧
      (taken → mineDev → old.early = [] → f.seq.toNat ≠ old.next → exec (.flitReceive n f) s =
        .next (good.withNets { s.nets with flows := flows old.next [f] })) ∧
      (taken → ¬ mineDev →
        (towards = [] → exec (.flitReceive n f) s = .next good) ∧
        (∀ l i r, towards = l ++ i :: r → (∀ j ∈ l, (linkOf s j).up = false ∨ (linkOf s j).train = true) →
          (linkOf s i).up = true → (linkOf s i).train = false → exec (.flitReceive n f) s = .next (onto i)) ∧
        (∀ i r, towards = i :: r → (∀ j ∈ towards, (linkOf s j).up = false ∨ (linkOf s j).train = true) →
          exec (.flitReceive n f) s = .next (onto i)))) ∧
    (k.up = false ∨ k.train = true → exec (.flitReceive n f) s = .next s) ∧
    (16 ≤ k.fails → k.train = false →
      let elsewhere (x : Flit) : Bool := routeLinks s x.dst (some n) != []
      exec (.linkRetrain n) s = .next ((k.buffer.filter elsewhere).foldl (fun x g => x.forward (some n) g) ((linkIs
        { k with up := false, train := true, retrain := min (k.retrain + 1) (2 ^ 16 - 1), fails := 0, await := none,
                 buffer := k.buffer.filter fun x => !elsewhere x }).lifeUp (0x4002 + n)))) ∧
    (k.fails < 16 → exec (.linkRetrain n) s = .next s) ∧
    (k.up = false → exec (.linkTrainingEnd n) s =
      .next (linkIs { k with up := true, train := false, peer := (Config.farDevice n).toNat })))

/-- R267, R279, R396, R402: the answer to an access to an aperture acknowledges a store, which removes the hoisted loads of its
bytes (R92), or hands the data to the task, its operand fetcher or the engine command that asked, or the old value to an atomic;
a peer that has not answered for 2^24 cycles makes the access an *uncorrectable error* of its requester.
An access waits for those of its party to its bytes that it comes after.
R397 to R399, R413: a follower's first measurement moves its time-step counter by the offset from its leader; a later one
corrects an offset of one step, and more than that loses the alignment; a bubble begins where a die has measured more power than
its limit, no cadenced launch runs and the device is in no group, or when the counter reaches the start that the leader has
announced. The first measurement, the correction by one step and the start of a bubble are the model's reading (log entry 38);
where answers are kept and that a live bundle holds them off (log entries 14 and 15), and the cycle at which the time of an
access begins (log entry 48), are its choice. -/
def Obligations.ApertureAndCadenceEvents : Prop :=
  (∀ (s : State) (l r : List Outside) (o : Outside) (v : BitVec 64), s.nets.outside = l ++ o :: r → (∀ x ∈ l, x.ident ≠ o.ident) →
    let done := s.withNets { s.nets with outside := l ++ r }
    let given (a : Active) : Active := if a.cmd.cid = o.src.uid then { a with answers := mapSet o.pa v.toNat a.answers } else a
    let early : Prop := waitsBehind s o = true ∨ (regionOf s o.pa = .peer ∧ o.since + 2 ^ 24 ≤ s.chip.cycles)
    let own := done.unhoistOwn o.src.uid o.pa o.size
    let answered (i : Instr) : Prop :=
      (early → exec i s = .next s) ∧
      (¬ early → o.store ≠ none → exec i s = .next (done.withTasks (unhoist o.writer o.pa o.size s.tasks))) ∧
      (¬ early → o.store = none → o.atomic ≠ none → exec i s = .next (if s.bundle.live then s
        else (own.withTasks (unhoist o.writer o.pa o.size own.tasks)).atomicBack o.src.uid o.pa v.toNat)) ∧
      (¬ early → o.store = none → o.atomic = none →
        (∀ k t, keyOfUid s o.src.uid = some k → s.task k = some t → exec i s = .next (done.setTask k (
          if o.fetch then { t with fetched := mapSet o.pa v.toNat t.fetched } else { t with answers := mapSet o.pa v.toNat t.answers }))) ∧
        (keyOfUid s o.src.uid = none → (∃ g ∈ s.gone, g.uid = o.src.uid) → exec i s = .next { done with gone := s.gone.map fun g =>
          if g.uid = o.src.uid then { g with answers := mapSet o.pa v.toNat g.answers } else g }) ∧
        (keyOfUid s o.src.uid = none → (∀ g ∈ s.gone, g.uid ≠ o.src.uid) → (∃ e ∈ s.notes.hostWrites, e.ident = o.src.uid) →
          exec i s = .next (done.withNotes { s.notes with hostWrites := s.notes.hostWrites.map fun e =>
            if e.ident = o.src.uid then { e with answers := mapSet o.pa v.toNat e.answers } else e })) ∧
        (keyOfUid s o.src.uid = none → (∀ g ∈ s.gone, g.uid ≠ o.src.uid) → (∀ e ∈ s.notes.hostWrites, e.ident ≠ o.src.uid) →
          exec i s = .next (done.withCores (s.cores.map fun e =>
          (e.1, { e.2 with ch := e.2.ch.map fun h => { h with active := h.active.map given } })))))
    let reason : TrapInfo :=
      { cause := .uncorrectable, word := BitVec.ofNat 64 ((o.pa - 0x4000000000000) / 2 ^ 42 % 256 + 2 ^ 9) }
    (regionOf s o.pa = .peer → answered (.peerAnswer o.ident v)) ∧
    (regionOf s o.pa = .host → answered (.hostApertureAnswer o.ident v)) ∧
    (regionOf s o.pa = .peer → s.bundle.live = false →
      (s.chip.cycles < o.since + 2 ^ 24 → exec (.peerAccessTimeout o.ident) s = .next s) ∧
      (∀ k t, o.since + 2 ^ 24 ≤ s.chip.cycles → keyOfUid s o.src.uid = some k → s.task k = some t →
        (o.fetch = true → t.arrayStop = none → exec (.peerAccessTimeout o.ident) s =
          .next (done.stopFetch (k / 4) (k % 4) ((t.arrayQ.head?.map (·.addr)).getD t.pc) reason)) ∧
        (∀ st, o.fetch = false → t.run = .ready → t.stall = some st → s.cadenced t = false → exec (.peerAccessTimeout o.ident) s =
          .next (done.trap (k / 4) (k % 4) t reason st.mask 0 false st.bundle.addr st.bundle.addr)))))  ∧
  ((∀ (s : State) (t1 t2 tl turn : Nat), s.regs.cgctl.getLsbD 8 = true → s.regs.cgctl.toNat % 2 ^ 8 ≠ s.regs.devid.toNat % 2 ^ 8 →
    let ofs : Int := (2 * ((tl : Int) - t2) + ((t2 : Int) - t1 - turn)).tdiv 2
    let field : Nat := (ofs % 256).toNat * 2 ^ 8
    let moved : Nat := (((s.regs.tsc : Int) + ofs) % 2 ^ 64).toNat
    let lost := if s.regs.cgstat.getLsbD 1 then 2 else 0
    (s.chip.measured = false → cadencedRuns s = true → exec (.cadenceRemeasure t1 t2 tl turn) s = .next s) ∧
    (s.chip.measured = false → cadencedRuns s = false → exec (.cadenceRemeasure t1 t2 tl turn) s =
      .next ((s.withRegs { s.regs with tsc := moved, cgstat := BitVec.ofNat 64 (field + lost + 1) }).withChip
        { s.chip with lastMeasure := moved, measured := true }).stepReached) ∧
    (s.chip.measured = true → s.chip.lastMeasure + 2 ^ 16 ≤ s.regs.tsc →
      (ofs = 0 → exec (.cadenceRemeasure t1 t2 tl turn) s = .next ((s.withRegs { s.regs with cgstat := BitVec.ofNat 64 (lost + 1) }).withChip
        { s.chip with lastMeasure := s.regs.tsc, holdStep := false })) ∧
      (ofs = -1 → s.chip.lastCorrect + 1024 ≤ s.regs.tsc → exec (.cadenceRemeasure t1 t2 tl turn) s =
        .next ((s.withRegs { s.regs with cgstat := BitVec.ofNat 64 (field + lost + 1) }).withChip
          { s.chip with lastMeasure := s.regs.tsc, lastCorrect := s.regs.tsc, holdStep := true })) ∧
      (ofs = 1 → s.chip.lastCorrect + 1024 ≤ s.regs.tsc → exec (.cadenceRemeasure t1 t2 tl turn) s =
        .next ((s.withRegs { s.regs with tsc := (s.regs.tsc + 1) % 2 ^ 64, cgstat := BitVec.ofNat 64 (field + lost + 1) }).withChip
          { s.chip with lastMeasure := s.regs.tsc, lastCorrect := s.regs.tsc, holdStep := false }).stepReached) ∧
      (1 < ofs.natAbs → exec (.cadenceRemeasure t1 t2 tl turn) s =
        let x := ((s.withRegs { s.regs with cgstat := BitVec.ofNat 64 (field + 2) }).withChip
          { s.chip with lastMeasure := s.regs.tsc }).lifeUp 0x4017
        .next (x.notice 5 0x4017 (BitVec.ofNat 64 (lifeGet x 0x4017)) 0))) ∧
    (s.chip.measured = true → s.regs.tsc < s.chip.lastMeasure + 2 ^ 16 → exec (.cadenceRemeasure t1 t2 tl turn) s = .next s)) ∧
  (∀ (s : State) (start : BitVec 64) (n : Nat), s.regs.cgctl.getLsbD 8 = true → 0 < n → n ≤ 64 → exec (.bubbleNotice start n) s = .next (
    if start.toNat ≤ s.regs.tsc then s.withRegs { s.regs with cgstat := s.regs.cgstat ||| 2 }
    else s.withChip { s.chip with bubbles := s.chip.bubbles ++ [(start.toNat, n)] })) ∧
  (∀ (s : State) (start n : Nat) (l r : List (Nat × Nat)), s.chip.bubbles = l ++ (start, n) :: r →
    (s.chip.bubble = 0 → (∀ b ∈ l, s.regs.tsc < b.1) → start ≤ s.regs.tsc →
      s.stepReached = s.withChip { s.chip with bubble := n, bubbles := l ++ r }) ∧
    (l = [] → r = [] → s.chip.bubble = 0 → s.chip.holdStep = false → s.notes.hostWrites = [] → s.nets.posts = [] →
      start = (s.regs.tsc + 1) % 2 ^ 64 → s.clock.chip.bubble = n ∧ s.clock.chip.bubbles = [] ∧ s.clock.regs.tsc = start)) ∧
  (∀ (s : State) (n : Nat), s.chip.bubble = 0 →
    let exceeded : Prop := ∃ d, d < 8 ∧ (s.regs.pwr[d]?.getD 0).toNat % 2 ^ 16 < (s.regs.pwr[d]?.getD 0).toNat / 2 ^ 16 % 2 ^ 16
    (exceeded → (∀ e ∈ s.launches, e.2.pkt.mode = 0 ∨ e.2.phase = .done ∨ e.2.admitted = 0) → s.regs.cgctl.getLsbD 8 = false →
      exec (.wholeDeviceBubble n) s = .next (s.withChip { s.chip with bubble := n })) ∧
    (¬ exceeded ∨ (∃ e ∈ s.launches, e.2.pkt.mode = 1 ∧ e.2.phase ≠ .done ∧ 0 < e.2.admitted) ∨ s.regs.cgctl.getLsbD 8 = true →
      exec (.wholeDeviceBubble n) s = .next s)))

-- Events of the host and of the part (chapter 24). ---------------------------------------------------------------

/-- R410, R411, R417: a cold reset without a package leaves the reset state, with the life counters of the part, and takes the
steps of a boot: an image whose signature the vendor key does not verify fails the first, and a step that fails is named in
BOOTSTAT and leaves memory off; where none fails BOOTSTAT is 0xFF; M0 and M1 are measured as far as the steps have come. A
function-level reset ends every task, uninstalls microcode and gives the control registers but DEVID and CGCTL their reset
values; life counters outlast a loss of power only as they were last written.
The empty memory after a cold reset is the model's choice (log entries 2 and 3). What a reset keeps of fences, and BOOTSTAT
after a function-level reset, are its reading (log entry 34). -/
def Obligations.ResetEvents : Prop :=
  (∀ (s : State) (b : BootInput), b.package = [] → b.failStep ≤ 5 →
    let signed := Config.verifies 0 (natBytes (Config.shake256 b.image).toNat 64) b.sig
    let step := if b.failStep = 1 ∨ signed = false then 1 else b.failStep
    let none8 := Vector.replicate 8 (0 : BitVec 512)
    let m0 := none8.set 0 (Config.measured 0 (Config.shake256 b.image))
    ∃ y, exec (.coldReset b) s = .next y ∧
    y.mem = [] ∧ y.tasks = [] ∧ y.launches = [] ∧ y.groups = [] ∧ y.tlb = [] ∧ y.agenda = [] ∧ y.sky = State.reset.sky ∧
    y.regs = { State.reset.regs with bootstat := if step = 0 then 0xFF else BitVec.ofNat 64 step } ∧
    y.chip.life = s.chip.life ∧ y.chip.lifeNv = s.chip.lifeNv ∧
    y.chip.fences = (s.chip.fences ++ s.chip.fencing).filter (fun u => u.code == 5) ∧ y.chip.memOn = decide (step = 0) ∧
    y.chip.measure = if step = 1 then none8 else if step = 2 then m0 else m0.set 1 b.config) ∧
  (∀ (s : State), ∃ y, exec .functionLevelReset s = .next y ∧ y.tasks = [] ∧ y.gone = [] ∧ y.agenda = [] ∧ y.bundle = {} ∧
    y.regs = { State.reset.regs with
      devid := s.regs.devid, cgctl := s.regs.cgctl, bootstat := 0,
      cgstat := if s.regs.cgctl.getLsbD 8 = true ∧ s.regs.cgctl.toNat % 2 ^ 8 = s.regs.devid.toNat % 2 ^ 8 then 1 else 0 } ∧
    y.nets.stitch = none ∧ y.sky.uver = 0 ∧ y.sky.uents = [] ∧ y.sky.uslots = [] ∧ y.sky.pins = [] ∧ y.sky.xlat = []) ∧
  (∀ (s : State), exec .orderlyShutdown s = .next (s.withChip { s.chip with lifeNv := s.chip.life }) ∧
    exec .powerLoss s = .next { s.withChip { s.chip with life := s.chip.lifeNv } with power := false })

/-- R413, R414, R415, R417: the budget of a die from its measured power, at most once in 1024 cycles; 105 °C sets every budget
to 0 and is recorded once, 115 °C does so too and stops the issue of every core; below 105 °C budgets are published again, and
below 100 °C issue goes on; scrubbing and the writing of life counters come at their intervals.
R414, R415, R416: an uncorrectable error in device memory poisons its granule and is counted of its channel; a corrected one is
counted only; the 1024th of a unit asks for its fence, which takes effect when the unit is quiet and no cadenced launch holds it
off (R218). The steps of the budget and the unit that an error counts to are the model's reading (log entries 33 and 35). -/
def Obligations.UpkeepAndErrorEvents : Prop :=
  (∀ (s : State) (die temp : Nat) (meas : BitVec 16), die < 8 →
    let old := s.regs.pwr[die]?.getD 0
    let limit := old.toNat % 2 ^ 16
    (s.chip.cycles = s.chip.lastBudget ∨ s.chip.lastBudget + 1024 ≤ s.chip.cycles → 0 < limit → ∃ level,
      (s.chip.hot = true → level = 0) ∧
      (s.chip.hot = false → level ≤ 7 ∧ (level = 7 ↔ 100 * meas.toNat ≤ 70 * limit) ∧
        (level < 7 → (70 + 5 * (6 - level)) * limit < 100 * meas.toNat) ∧
        (0 < level → 100 * meas.toNat ≤ (70 + 5 * (7 - level)) * limit)) ∧
      exec (.budgetPublish die meas) s = .next ((s.withRegs { s.regs with
        pwr := s.regs.pwr.setIfInBounds die (BitVec.ofNat 64 (limit + meas.toNat * 2 ^ 16 + level * 2 ^ 32)) }).withChip
          { s.chip with lastBudget := s.chip.cycles })) ∧
    (s.chip.cycles ≠ s.chip.lastBudget → s.chip.cycles < s.chip.lastBudget + 1024 → exec (.budgetPublish die meas) s = .next s) ∧
    (105 ≤ temp → s.chip.hot = false → ∃ y, exec (.thermalExcursion temp) s = .next y ∧ y.chip.hot = true ∧
      (∀ d, d < 8 → (y.regs.pwr[d]?.getD 0).toNat = (s.regs.pwr[d]?.getD 0).toNat % 2 ^ 32) ∧
      lifeGet y 0x4001 = min (lifeGet s 0x4001 + 1) (2 ^ 64 - 1)) ∧
    (temp < 105 ∨ s.chip.hot = true → exec (.thermalExcursion temp) s = .next s) ∧
    (temp < 115 → exec (.thermalStop temp) s = .next s) ∧
    (115 ≤ temp → s.chip.hot = true → exec (.thermalStop temp) s = .next (s.withChip { s.chip with halted := true })) ∧
    (115 ≤ temp → s.chip.hot = false → ∃ y, exec (.thermalStop temp) s = .next y ∧ y.chip.halted = true ∧ y.chip.hot = true ∧
      (∀ d, d < 8 → (y.regs.pwr[d]?.getD 0).toNat = (s.regs.pwr[d]?.getD 0).toNat % 2 ^ 32) ∧
      lifeGet y 0x4001 = min (lifeGet s 0x4001 + 1) (2 ^ 64 - 1)) ∧
    exec (.thermalResume temp) s = .next (if temp < 105 then
      s.withChip { s.chip with hot := false, halted := if temp < 100 then false else s.chip.halted } else s) ∧
    exec .hbmScrub s = .next (if s.chip.lastScrub + 2 ^ 45 ≤ s.chip.cycles then s.withChip { s.chip with lastScrub := s.chip.cycles } else s) ∧
    exec .lifeCounterFlush s = .next (if s.chip.lastFlush + 2 ^ 30 ≤ s.chip.cycles then s.withChip { s.chip with
      lifeNv := s.chip.life, lastFlush := s.chip.cycles, errs := s.chip.errs.map fun e => (e.1, e.2.1, e.2.2.1, 0) } else s)) ∧
  ((∀ (s : State) (pa : Nat), regionOf s pa = .device →
    let unit : UnitFence := { code := 5, num := channelOf s pa }
    let old := (s.chip.errs.find? fun e => e.1 == 5 && e.2.1 == unit.num).map (·.2.2)
    let rest := s.chip.errs.filter fun e => !(e.1 == 5 && e.2.1 == unit.num)
    let granule := pa / 64 * 64
    (old = none → ∃ y, exec (.softError (.mem pa) true) s = .next y ∧
      y.chip.poison = (if granule ∈ s.chip.poison then s.chip.poison else s.chip.poison ++ [granule]) ∧
      lifeGet y 0x4000 = min (lifeGet s 0x4000 + 1) (2 ^ 64 - 1) ∧ y.chip.errs = rest ++ [(5, unit.num, 1, 0)] ∧ y.mem = s.mem ∧
      y.chip.fencing = s.chip.fencing) ∧
    (∀ x, old = some x → x.2 + 1 < 1024 → ∃ y, exec (.softError (.mem pa) false) s = .next y ∧ y.chip.poison = s.chip.poison ∧
      y.chip.errs = rest ++ [(5, unit.num, x.1, x.2 + 1)] ∧ y.mem = s.mem ∧ y.chip.fencing = s.chip.fencing) ∧
    (∀ x, old = some x → x.2 + 1 ≥ 1024 → unit ∉ s.chip.fences → unit ∉ s.chip.fencing → ∃ y,
      exec (.softError (.mem pa) false) s = .next y ∧ y.chip.fencing = s.chip.fencing ++ [unit])) ∧
  (∀ (s : State) (u : UnitFence), u ∈ s.chip.fencing →
    let y := s.withChip { s.chip with
      fencing := s.chip.fencing.erase u, fences := s.chip.fences ++ [u], fenceHold := s.chip.fenceHold.filter fun h => h.1 != u }
    let quiet : Prop := ∀ sl, sl < 4 → s.task (taskKey u.num sl) = none
    let held : Prop := ∃ h ∈ s.chip.fenceHold, h.1 = u ∧ (s.launch h.2).phase ≠ .done
    let bank := ((s.cluster (u.num / 32)).banks[u.num % 32]?).getD {}
    (held → exec (.unitFenceEffect u.code u.num) s = .next s) ∧
    (¬ held → quiet → u.code = 1 → exec (.unitFenceEffect u.code u.num) s = .next (y.updCore u.num fun c => { c with noI1 := true })) ∧
    (¬ held → quiet → u.code = 2 → exec (.unitFenceEffect u.code u.num) s = .next (y.updCore u.num fun c => { c with noV1 := true })) ∧
    (¬ held → quiet → u.code = 3 → (∀ e ∈ s.launches, e.2.pkt.mode = 0 ∨ e.2.phase = .done) →
      exec (.unitFenceEffect u.code u.num) s = .next (y.updCore u.num fun c => { c with fenced := true })) ∧
    (¬ held → u.code = 4 → bank.owner = none → (∀ e ∈ s.launches, e.2.pkt.mode = 0 ∨ e.2.phase = .done) →
      exec (.unitFenceEffect u.code u.num) s = .next (y.updCluster (u.num / 32) fun c =>
        { c with banks := c.banks.setIfInBounds (u.num % 32) { (c.banks[u.num % 32]?.getD {}) with fenced := true } })) ∧
    (¬ quiet → u.code = 1 ∨ u.code = 2 ∨ u.code = 3 → exec (.unitFenceEffect u.code u.num) s = .next s)))

-- The machine as a whole (chapters 01, 02, 19). ---------------------------------------------------------------------

/-- A STEP RUNS THE DECODED INSTRUCTION (R12, R30, R35). With power: a turn of a core whose bundle is live decodes the next word
of the bundle and runs it, or the failing checks of a word that is no instruction; where no bundle is live, the running task's
next bundle is fetched first, with no latch left (R360), and its first word runs; without a turn on the agenda the free value
(log entry 1, the model's choice) draws a core's turn, an event that may come about, or a clock cycle. Without power a step
answers the fault `powerLost`, which is the model's choice (log entry 49). -/
def Obligations.StepRunsDecoded : Prop :=
  (∀ (s : State) (c : Nat) (l : List Turn), s.power = true → s.agenda = .issue c :: l → s.bundle.live = true →
    let x : State := { s with draws := s.draws + 1, agenda := l }
    (∀ i, decode s.headWord = .ok i → step s = exec i x) ∧
    (∀ e, decode s.headWord = .error e → step s = finishBad s.headWord e x)) ∧
  (∀ (s : State) (c sl : Nat) (l : List Turn) (t u : Task) (y : State) (b : Bundle), s.power = true → s.agenda = .issue c :: l →
    s.bundle.live = false → s.chip.halted = false → s.chip.bubble = 0 → c < 512 → (s.core c).running = some sl →
    s.task (taskKey c sl) = some t → t.run = .ready → t.stall = none → t.preempt = false → s.cadenced t = false →
    fetchBundle { s with draws := s.draws + 1, agenda := l } c sl t = .ok (.inl (y, u, b)) → b.live = true →
    let noLatch (k : Core) : Core := { k with latches := Vector.replicate 8 0, holds := Vector.replicate 16 0 }
    let x : State := { ((y.setTask (taskKey c sl) u).updCore c noLatch).withBundle b with cur := c }
    (∀ i, decode (b.words.headD 0) = .ok i → step s = exec i x) ∧
    (∀ e, decode (b.words.headD 0) = .error e → step s = finishBad (b.words.headD 0) e x)) ∧
  (∀ (s : State) (i : Instr), s.power = true → s.agenda = [] →
    let x : State := { s with draws := s.draws + 1 }
    (Config.nextTurn s.draws = .event i → comesAbout i = true → step s = exec i x) ∧
    (Config.nextTurn s.draws = .event i → comesAbout i = false → step s = .next x) ∧
    (Config.nextTurn s.draws = .tick → step s = .next x.clock)) ∧
  (∀ s : State, s.power = false → step s = .fault .powerLost)

/-- R12, R30: the words of a bundle are those from its address on up to the first with S = 1, at most four; the code must hold
them. Each is read at 4 bytes behind the one before.
The word that `State.withFetchWord` places is the one the next step runs (the model's own, log entry 28): it stands alone
before the task of core 0, slot 0, with nothing executed. -/
def Obligations.FetchedWords : Prop :=
  (∀ (s : State) (core : Nat) (t : Task) (va : W64) (room n : Nat) (w pa : Nat → Nat) (p : Nat → List (Nat × Nat × W64))
    (f : Nat → List TlbEntry), n < 4 → 4 * n + 4 ≤ room →
    (∀ k, k ≤ n → codeRead s core t (va + BitVec.ofNat 64 (4 * k)) 4 = .ok (w k, p k, f k, []) ∧
      (p k).head?.map (·.1) = some (pa k)) →
    (∀ k, k < n → w k / 2 ^ 31 % 2 = 0) → (w n / 2 ^ 31 % 2 = 1 ∨ n = 3) →
    bundleWords s core t 4 va room =
      .ok (some ((List.range (n + 1)).map fun k => (w k, pa k)), (List.range (n + 1)).flatMap f, [])) ∧
  (∀ (w : Nat) (i : Instr), w < 2 ^ 32 → decode w = .ok i →
    ∃ y : State, step (State.reset.withFetchWord 32 w) = exec i y ∧ y.headWord = w ∧ y.cur = 0 ∧ y.bundle.slot = 0 ∧
      y.bundle.addr = 0x3080 ∧ y.bundle.staged = [] ∧ y.curTask.isSome = true)

/-- Words written out from the encoding of the spec (R30, R38 to R46) decode to the instructions they stand for. -/
def Obligations.WordsDecode : Prop :=
  decode 0x000C1080 = .ok (.add false 3 1 2) ∧
  decode 0x800C1080 = .ok (.add true 3 1 2) ∧
  decode 0x88104008 = .ok (.addi true 4 4 8) ∧
  decode 0x08145FFF = .ok (.addi false 5 5 (-1)) ∧
  decode 0x8E1BFFFE = .ok (.li true 6 (-2)) ∧
  decode 0x31144040 = .ok (.ldRi false 5 4 64) ∧
  decode 0x1043FFF4 = .ok (.brpLabel false 2 (-12)) ∧
  decode 0x96000000 = .ok (.exit true) ∧
  decode 0x97000000 = .ok (.nop true) ∧
  decodeTableWord 32 0x000C1080 = some (.add false 3 1 2)

/-- DECODE AND ENCODE AGREE (R30 to R47): every well-formed slot has a word of 32 bits, which decodes to it; every word that
decodes stands for a well-formed slot, whose word it is. No word is assigned twice and no field of a word is dropped. -/
def Obligations.EncodingRoundTrip : Prop :=
  (∀ i : Instr, i.isEvent = false → i.wf = true → ∃ w, encode i = some w ∧ w < 2 ^ 32 ∧ decode w = .ok i) ∧
  (∀ (w : Nat) (i : Instr), w < 2 ^ 32 → decode w = .ok i → i.isEvent = false ∧ i.wf = true ∧ encode i = some w)

/-- EVERY STEP KEEPS MEMORY IN ITS CANONICAL FORM: addresses rise and no zero byte is listed, whatever the step does. The form
is the model's (log entry 3). -/
def Obligations.MemoryStaysCanonical : Prop :=
  ∀ s s' : State, memWf s.mem = true → step s = .next s' → memWf s'.mem = true

/-- R9, R337, R338, R370, R391, R410, R418: the machine after reset, as far as the spec gives it: control registers at the reset
values of their tables, no task resident, no packet taken, power on. The first clause, that memory lists nothing, is the model's
choice (log entry 3); that BOOTSTAT reads 0xFF, as a boot that has succeeded leaves it, is its reading (log entry 2). -/
def Obligations.ResetValues : Prop :=
  let r := State.reset
  (r.mem = [] ∧ memWf r.mem = true) ∧ r.tasks = [] ∧ r.launches = [] ∧ r.gone = [] ∧ r.power = true ∧
  (∀ n, n ∈ [0x22, 0x23, 0x31, 0x32, 0x33, 0x34, 0x41, 0x300, 0x301, 0x304, 0x305, 0x306, 0x307, 0x308, 0x500, 0x501, 0x502, 0x503,
      0x504, 0x505, 0x506, 0x508, 0x50A, 0x520, 0x521, 0x522, 0x523, 0x525, 0x528] → crRead r none {} n = 0) ∧
  (∀ n, 0x100 ≤ n → n < 0x140 → crRead r none {} n = 0) ∧ (∀ n, 0x200 ≤ n → n < 0x300 → crRead r none {} n = 0) ∧
  (∀ n, 0x320 ≤ n → n < 0x330 → crRead r none {} n = 0) ∧ (∀ n, 0x400 ≤ n → n < 0x500 → crRead r none {} n = 0) ∧
  crRead r none {} 0x40 = 0x4002 ∧ crRead r none {} 0x303 = 2 ∧ crRead r none {} 0x507 = 0x4000000000000000 ∧
  crRead r none {} 0x509 = 0xFF ∧ crRead r none {} 0x524 = 2 ∧ (∀ n, 0x510 ≤ n → n < 0x518 → crRead r none {} n = 250)

/-- MEMORY (R30, R87): bytes are little-endian; a read of what has been written gives it; every other byte reads as before;
and memories in canonical form that read alike are equal. -/
def Obligations.MemoryReadsBack : Prop :=
  (∀ (m : List Host.Cell) (a v n : Nat), memWf m = true →
    memNat (memPut a v n m) a n = v % 256 ^ n ∧
    (∀ i, i < n → memGet (memPut a v n m) (a + i) = BitVec.ofNat 8 (v / 256 ^ i)) ∧
    (∀ b, b < a ∨ a + n ≤ b → memGet (memPut a v n m) b = memGet m b) ∧
    (∀ b, memGet (memZero a n m) b = if a ≤ b ∧ b < a + n then 0 else memGet m b)) ∧
  (∀ m m' : List Host.Cell, memWf m = true → memWf m' = true → (∀ a, memGet m a = memGet m' a) → m = m') ∧
  (∀ (s : State) (w : Option Nat) (pa n v : Nat), memWf s.mem = true →
    memNat (s.store w pa n v).mem pa n = v % 256 ^ n ∧
    (∀ b, b < pa ∨ pa + n ≤ b → memGet (s.store w pa n v).mem b = memGet s.mem b) ∧
    (∀ k t, s.task k = some t → ∃ u, (s.store w pa n v).task k = some u ∧ { u with atab := t.atab } = t))

/-- THE FRAME OF A BUNDLE THAT WRITES REGISTERS (R10, R13, R14, R18). `State.results` leaves memory, every other task, every
core but for the waiter of the task, and every control register as they were; of the task, a register is as it was unless this
bundle or one in flight writes it, and every other file and trap register is unchanged; a write with latency 1, or of an
interlocked bundle, is visible, a later one is in flight. -/
def Obligations.RegisterWriteFrame : Prop :=
  ∀ (s : State) (t : Task) (ws : List RegWrite) (flags : BitVec 8), s.task s.key = some t →
    let y := s.results t ws flags
    let kept (f : RegFile) (n : Nat) : Prop := (∀ p ∈ t.pending, ¬(p.file = f ∧ p.reg = n)) ∧ (∀ w ∈ ws, ¬(w.file = f ∧ w.reg = n));
    (y.mem = s.mem ∧ y.tlb = s.tlb ∧ y.regs = s.regs ∧ y.groups = s.groups ∧ y.clusters = s.clusters ∧ y.launches = s.launches ∧
      y.gone = s.gone ∧ y.notes = s.notes ∧ y.nets = s.nets ∧ y.chip = s.chip ∧ y.power = s.power ∧ y.nextId = s.nextId ∧
      { y.sky with heads := [] } = { s.sky with heads := [] }) ∧
    (∀ k, k ≠ s.key → y.task k = s.task k) ∧ (∀ c, c ≠ s.cur → y.core c = s.core c) ∧
    { y.core s.cur with waiters := [] } = { s.core s.cur with waiters := [] } ∧
    ∃ u, y.task s.key = some u ∧
      ((∀ n, kept .g n → u.gReg n = t.gReg n) ∧ (∀ n, kept .v n → u.vReg n = t.vReg n) ∧
        (∀ n, kept .k n → u.kReg n = t.kReg n) ∧ (∀ n, n < 8 → kept .c n → u.cReg n = t.cReg n)) ∧
      (u.t = t.t ∧ u.q = t.q ∧ u.y = t.y ∧ u.n = t.n ∧ u.z = t.z ∧ u.acc = t.acc ∧ u.scl = t.scl ∧ u.slv = t.slv ∧
        u.arrayQ = t.arrayQ ∧ u.chst = t.chst ∧ u.troot = t.troot ∧ u.tasid = t.tasid ∧ u.tvec = t.tvec ∧ u.saveptr = t.saveptr ∧
        u.epc = t.epc ∧ u.estat = t.estat ∧ u.deleg = t.deleg ∧ u.trec = t.trec ∧ u.held = t.held ∧ u.run = t.run ∧
        u.asw = aswOr t.asw flags ∧ u.cycle = t.cycle + 1) ∧
      (∀ w ∈ ws, w.soon t = true → w.file = .g → w.reg < 48 → (∀ x ∈ ws, x ≠ w → ¬(x.file = .g ∧ x.reg = w.reg)) →
        u.gReg w.reg = w.val.setWidth 64) ∧
      (∀ w ∈ ws, w.soon t = false →
        ({ file := w.file, reg := w.reg, mask := w.mask, val := w.val, left := w.lat - 1 } : Pend) ∈ u.pending)

/-- R18, R20, R22: a write in flight with `left` contract cycles to go is visible after exactly that many and not before; of two
that become visible at once the later-issued stays; and where the schedule mode changes, every write in flight becomes visible
before the next bundle reads.
R13, R14: TWO SLOTS OF A BUNDLE read the state before it and commit together; where both name one destination the bundle is
*undefined encoding* with reason 6, both slots marked, and nothing is written (R12). -/
def Obligations.BundleContract : Prop :=
  ((∀ (t : Task) (p : Pend), t.pending = [p] → p.file = .g → p.reg < 48 → 1 ≤ p.left →
    (∀ k, k < p.left → (Nat.repeat Task.tick k t).gReg p.reg = t.gReg p.reg ∧ (Nat.repeat Task.tick k t).pending ≠ []) ∧
    (Nat.repeat Task.tick p.left t).gReg p.reg = p.val.setWidth 64 ∧ (Nat.repeat Task.tick p.left t).pending = []) ∧
  (∀ (t : Task) (p q : Pend), t.pending = [p, q] → p.file = .g → q.file = .g → p.reg = q.reg → q.reg < 48 → 1 ≤ q.left →
    p.left ≤ q.left → (Nat.repeat Task.tick q.left t).gReg q.reg = q.val.setWidth 64) ∧
  (∀ (s : State) (t : Task) (slot : Nat) (pc o : W64) (e : XEntry) (p : Pend), e.exposed ≠ t.exposed → t.keepMode = false →
    t.pending = [p] → p.file = .g → p.reg < 48 →
    (startBundle s t slot pc o e).2.1.gReg p.reg = p.val.setWidth 64 ∧ (startBundle s t slot pc o e).2.1.pending = [])) ∧
  (∀ (s : State) (t : Task) (st : Bool) (d a e b : Code) (w : Nat) (l : List Nat), s.curTask = some t → s.bundle.staged = [] →
    s.bundle.exposed = t.exposed → t.poison = [] → s.cadenced t = false → s.bundle.words = w :: l → l ≠ [] →
    (st = true ∨ l.tail = []) → DstG d → DstG e → SrcG a → SrcG b →
    ∃ y, exec (.mov false d a) s = .next y ∧ y.agenda = .issue s.cur :: s.agenda ∧ y.tasks = s.tasks ∧ y.mem = s.mem ∧
      y.cores = s.cores ∧
      (d ≠ e ∨ d.toNat = 56 → exec (.mov st e b) { y with agenda := s.agenda } =
        .next (s.results t (toG d 1 (rdG s.cur t a) ++ toG e 1 (rdG s.cur t b)) 0)) ∧
      (d = e → d.toNat < 48 → exec (.mov st e b) { y with agenda := s.agenda } =
        .next (s.trap s.cur s.bundle.slot t (undefinedWith 6 2 7) 3 0 false s.bundle.addr s.bundle.addr)))

/-- R331, R333 to R335: TAKING A TRAP. The record names the cause, the bundle, the target and the cause-specific word. With a
handler, delegation and no trap under way, EPC, ESTAT and the record registers are written, the writes in flight and the loops
are held aside and the next bundle is the one at TVEC; in every other case the task is parked with its record on the way to the
fault queue, a double trap with DBL, and its trap registers keep their values. Registers and memory are as they were. -/
def Obligations.TrapEntry : Prop :=
  ∀ (s : State) (core slot : Nat) (t : Task) (i : TrapInfo) (mask req : Nat) (post : Bool) (addr resume : W64),
    s.cadenced t = false → core < 512 → slot < 4 → mask < 16 → req < 8 → i.subc < 256 → (∀ l, i.lane = some l → l < 32) →
    s.task (taskKey core slot) = some t →
    let r := recordOf t.tasid.toNat core slot req mask i t.inh false post addr
    let y := s.trap core slot t i mask req post addr resume
    let f (lo n : Nat) : Nat := bitsOf r.w0.toNat lo n;
    (f 0 8 = i.cause.code ∧ f 8 4 = mask ∧ f 12 1 = (if i.target.isSome then 1 else 0) ∧ f 13 1 = (if post then 1 else 0) ∧
      f 14 1 = 0 ∧ f 15 1 = (if t.inh then 1 else 0) ∧ f 16 3 = req ∧ f 19 1 = 0 ∧ f 20 2 = slot ∧ f 22 2 = 0 ∧ f 24 8 = i.subc ∧
      f 32 9 = core ∧ f 41 1 = 0 ∧ f 42 5 = i.lane.getD 0 ∧ f 47 1 = (if i.lane.isSome then 1 else 0) ∧
      f 48 16 = t.tasid.toNat % 2 ^ 16) ∧
    (r.w1 = addr ∧ r.w2 = i.target.getD 0 ∧ r.w3 = i.word) ∧
    y.mem = s.mem ∧ (∀ k, k ≠ taskKey core slot → y.task k = s.task k) ∧
    ∃ u, y.task (taskKey core slot) = some u ∧ u.g = t.g ∧ u.v = t.v ∧ u.k = t.k ∧ u.c = t.c ∧ u.t = t.t ∧ u.acc = t.acc ∧
      u.asw = t.asw ∧ u.atab = [] ∧
      (if t.tvec ≠ 0 ∧ t.deleg.getLsbD i.cause.code = true ∧ t.inh = false then
        u.epc = resume ∧ u.inh = true ∧ u.pprv = t.sup ∧ u.sup = true ∧ u.trec = r ∧ u.pc = t.tvec ∧ u.pending = [] ∧ u.loops = [] ∧
          u.held = some { pending := t.pending, loops := t.loops, cycle := t.cycle } ∧ u.run = t.run ∧ y.notes = s.notes
      else
        u.run = .parked r false ∧ u.pc = resume ∧ u.epc = t.epc ∧ u.estat = t.estat ∧ u.trec = t.trec ∧ u.held = t.held ∧
          u.pending = t.pending ∧ u.loops = t.loops ∧ (y.core core).running ≠ some slot ∧
          y.notes.fqWait = s.notes.fqWait ++ [{ record := r, unit := core, slot := slot, req := req }])

/-- R7, R32, R35, R36, R46: the traps of operand codes and of privilege, in their order: a reserved code, or 57 as a
destination, is *undefined encoding* with the code and its field; then a latch or held code is *physical-only operand*; then a
system slot at task privilege is *privilege*; a vector register beyond the group's count is reason 0x11. Nothing is written. -/
def Obligations.EncodingTraps : Prop :=
  ∀ (s : State) (t : Task) (st : Bool) (d a b : Code), Alone s st t →
    let bad (c : Code) : Prop := 58 ≤ c.toNat ∧ c.toNat ≠ 62
    let phys (c : Code) : Prop := (48 ≤ c.toNat ∧ c.toNat < 56) ∨ c.toNat = 62
    let undefined (c : Code) (n : Nat) : Host.Outcome State Fault Refusal := .next (s.trapsAlone t (undefinedWith 4 c.toNat n))
    let physicalOnly : Host.Outcome State Fault Refusal := .next (s.trapsAlone t { cause := .physicalOnly })
    ((bad d ∨ d.toNat = 57) → SrcG a ∨ phys a → SrcG b ∨ phys b → exec (.add st d a b) s = undefined d 1) ∧
    (DstG d ∨ phys d → bad a → SrcG b ∨ phys b → exec (.add st d a b) s = undefined a 2) ∧
    (DstG d ∨ phys d → SrcG a ∨ phys a → bad b → exec (.add st d a b) s = undefined b 3) ∧
    (DstG d ∨ phys d → SrcG a ∨ phys a → SrcG b ∨ phys b → phys d ∨ phys a ∨ phys b → exec (.add st d a b) s = physicalOnly) ∧
    (DstV t d → SrcV t a → t.vcnt ≤ b.toNat → b.toNat < 48 →
      exec (.vand st d a b) s = .next (s.trapsAlone t (undefinedWith 0x11 b.toNat 3))) ∧
    (t.sup = false → Idle t → SrcG a → SrcG b → ∀ i ∈ [Instr.tlbInv st a b, .tlbInvAsid st, .tlbInvAny st a b, .tlbInvAll st,
        .tlbSync st, .xltInval st a b, .xltPin st a b, .xltUnpin st a b, .ctxSave st a],
      exec i s = .next (s.trapsAlone t { cause := .privilege })) ∧
    (t.sup = false → t.inh = false → t.loops = [] → holdsControl s.bundle = false →
      exec (.rfe st) s = .next (s.trapsAlone t { cause := .privilege })) ∧
    (t.sup = true → t.inh = false → t.loops = [] → holdsControl s.bundle = false →
      exec (.rfe st) s = .next (s.trapsAlone t (undefinedWith 0x40 0x61 0)))
end

