-- ==== Sys2Proof/Laws/State.lean ====
section
/-! SUPPORT. What each update of the state leaves of each of its fields, and the laws of its maps. -/

namespace Sys2Proof.Machine

variable (s : State)

-- `withTasks`.
@[simp] theorem State.withTasks_agenda (x : List (Nat × Task)) : (s.withTasks x).agenda = s.agenda := rfl
@[simp] theorem State.withTasks_draws (x : List (Nat × Task)) : (s.withTasks x).draws = s.draws := rfl
@[simp] theorem State.withTasks_cur (x : List (Nat × Task)) : (s.withTasks x).cur = s.cur := rfl
@[simp] theorem State.withTasks_bundle (x : List (Nat × Task)) : (s.withTasks x).bundle = s.bundle := rfl
@[simp] theorem State.withTasks_mem (x : List (Nat × Task)) : (s.withTasks x).mem = s.mem := rfl
@[simp] theorem State.withTasks_tlb (x : List (Nat × Task)) : (s.withTasks x).tlb = s.tlb := rfl
@[simp] theorem State.withTasks_cores (x : List (Nat × Task)) : (s.withTasks x).cores = s.cores := rfl
@[simp] theorem State.withTasks_tasks (x : List (Nat × Task)) : (s.withTasks x).tasks = x := rfl
@[simp] theorem State.withTasks_clusters (x : List (Nat × Task)) : (s.withTasks x).clusters = s.clusters := rfl
@[simp] theorem State.withTasks_groups (x : List (Nat × Task)) : (s.withTasks x).groups = s.groups := rfl
@[simp] theorem State.withTasks_launches (x : List (Nat × Task)) : (s.withTasks x).launches = s.launches := rfl
@[simp] theorem State.withTasks_gone (x : List (Nat × Task)) : (s.withTasks x).gone = s.gone := rfl
@[simp] theorem State.withTasks_nextId (x : List (Nat × Task)) : (s.withTasks x).nextId = s.nextId := rfl
@[simp] theorem State.withTasks_sky (x : List (Nat × Task)) : (s.withTasks x).sky = s.sky := rfl
@[simp] theorem State.withTasks_regs (x : List (Nat × Task)) : (s.withTasks x).regs = s.regs := rfl
@[simp] theorem State.withTasks_notes (x : List (Nat × Task)) : (s.withTasks x).notes = s.notes := rfl
@[simp] theorem State.withTasks_nets (x : List (Nat × Task)) : (s.withTasks x).nets = s.nets := rfl
@[simp] theorem State.withTasks_chip (x : List (Nat × Task)) : (s.withTasks x).chip = s.chip := rfl
@[simp] theorem State.withTasks_power (x : List (Nat × Task)) : (s.withTasks x).power = s.power := rfl

-- `withCores`.
@[simp] theorem State.withCores_agenda (x : List (Nat × Core)) : (s.withCores x).agenda = s.agenda := rfl
@[simp] theorem State.withCores_draws (x : List (Nat × Core)) : (s.withCores x).draws = s.draws := rfl
@[simp] theorem State.withCores_cur (x : List (Nat × Core)) : (s.withCores x).cur = s.cur := rfl
@[simp] theorem State.withCores_bundle (x : List (Nat × Core)) : (s.withCores x).bundle = s.bundle := rfl
@[simp] theorem State.withCores_mem (x : List (Nat × Core)) : (s.withCores x).mem = s.mem := rfl
@[simp] theorem State.withCores_tlb (x : List (Nat × Core)) : (s.withCores x).tlb = s.tlb := rfl
@[simp] theorem State.withCores_cores (x : List (Nat × Core)) : (s.withCores x).cores = x := rfl
@[simp] theorem State.withCores_tasks (x : List (Nat × Core)) : (s.withCores x).tasks = s.tasks := rfl
@[simp] theorem State.withCores_clusters (x : List (Nat × Core)) : (s.withCores x).clusters = s.clusters := rfl
@[simp] theorem State.withCores_groups (x : List (Nat × Core)) : (s.withCores x).groups = s.groups := rfl
@[simp] theorem State.withCores_launches (x : List (Nat × Core)) : (s.withCores x).launches = s.launches := rfl
@[simp] theorem State.withCores_gone (x : List (Nat × Core)) : (s.withCores x).gone = s.gone := rfl
@[simp] theorem State.withCores_nextId (x : List (Nat × Core)) : (s.withCores x).nextId = s.nextId := rfl
@[simp] theorem State.withCores_sky (x : List (Nat × Core)) : (s.withCores x).sky = s.sky := rfl
@[simp] theorem State.withCores_regs (x : List (Nat × Core)) : (s.withCores x).regs = s.regs := rfl
@[simp] theorem State.withCores_notes (x : List (Nat × Core)) : (s.withCores x).notes = s.notes := rfl
@[simp] theorem State.withCores_nets (x : List (Nat × Core)) : (s.withCores x).nets = s.nets := rfl
@[simp] theorem State.withCores_chip (x : List (Nat × Core)) : (s.withCores x).chip = s.chip := rfl
@[simp] theorem State.withCores_power (x : List (Nat × Core)) : (s.withCores x).power = s.power := rfl

-- `withClusters`.
@[simp] theorem State.withClusters_agenda (x : List (Nat × Cluster)) : (s.withClusters x).agenda = s.agenda := rfl
@[simp] theorem State.withClusters_draws (x : List (Nat × Cluster)) : (s.withClusters x).draws = s.draws := rfl
@[simp] theorem State.withClusters_cur (x : List (Nat × Cluster)) : (s.withClusters x).cur = s.cur := rfl
@[simp] theorem State.withClusters_bundle (x : List (Nat × Cluster)) : (s.withClusters x).bundle = s.bundle := rfl
@[simp] theorem State.withClusters_mem (x : List (Nat × Cluster)) : (s.withClusters x).mem = s.mem := rfl
@[simp] theorem State.withClusters_tlb (x : List (Nat × Cluster)) : (s.withClusters x).tlb = s.tlb := rfl
@[simp] theorem State.withClusters_cores (x : List (Nat × Cluster)) : (s.withClusters x).cores = s.cores := rfl
@[simp] theorem State.withClusters_tasks (x : List (Nat × Cluster)) : (s.withClusters x).tasks = s.tasks := rfl
@[simp] theorem State.withClusters_clusters (x : List (Nat × Cluster)) : (s.withClusters x).clusters = x := rfl
@[simp] theorem State.withClusters_groups (x : List (Nat × Cluster)) : (s.withClusters x).groups = s.groups := rfl
@[simp] theorem State.withClusters_launches (x : List (Nat × Cluster)) : (s.withClusters x).launches = s.launches := rfl
@[simp] theorem State.withClusters_gone (x : List (Nat × Cluster)) : (s.withClusters x).gone = s.gone := rfl
@[simp] theorem State.withClusters_nextId (x : List (Nat × Cluster)) : (s.withClusters x).nextId = s.nextId := rfl
@[simp] theorem State.withClusters_sky (x : List (Nat × Cluster)) : (s.withClusters x).sky = s.sky := rfl
@[simp] theorem State.withClusters_regs (x : List (Nat × Cluster)) : (s.withClusters x).regs = s.regs := rfl
@[simp] theorem State.withClusters_notes (x : List (Nat × Cluster)) : (s.withClusters x).notes = s.notes := rfl
@[simp] theorem State.withClusters_nets (x : List (Nat × Cluster)) : (s.withClusters x).nets = s.nets := rfl
@[simp] theorem State.withClusters_chip (x : List (Nat × Cluster)) : (s.withClusters x).chip = s.chip := rfl
@[simp] theorem State.withClusters_power (x : List (Nat × Cluster)) : (s.withClusters x).power = s.power := rfl

-- `withGroups`.
@[simp] theorem State.withGroups_agenda (x : List (Nat × Group)) : (s.withGroups x).agenda = s.agenda := rfl
@[simp] theorem State.withGroups_draws (x : List (Nat × Group)) : (s.withGroups x).draws = s.draws := rfl
@[simp] theorem State.withGroups_cur (x : List (Nat × Group)) : (s.withGroups x).cur = s.cur := rfl
@[simp] theorem State.withGroups_bundle (x : List (Nat × Group)) : (s.withGroups x).bundle = s.bundle := rfl
@[simp] theorem State.withGroups_mem (x : List (Nat × Group)) : (s.withGroups x).mem = s.mem := rfl
@[simp] theorem State.withGroups_tlb (x : List (Nat × Group)) : (s.withGroups x).tlb = s.tlb := rfl
@[simp] theorem State.withGroups_cores (x : List (Nat × Group)) : (s.withGroups x).cores = s.cores := rfl
@[simp] theorem State.withGroups_tasks (x : List (Nat × Group)) : (s.withGroups x).tasks = s.tasks := rfl
@[simp] theorem State.withGroups_clusters (x : List (Nat × Group)) : (s.withGroups x).clusters = s.clusters := rfl
@[simp] theorem State.withGroups_groups (x : List (Nat × Group)) : (s.withGroups x).groups = x := rfl
@[simp] theorem State.withGroups_launches (x : List (Nat × Group)) : (s.withGroups x).launches = s.launches := rfl
@[simp] theorem State.withGroups_gone (x : List (Nat × Group)) : (s.withGroups x).gone = s.gone := rfl
@[simp] theorem State.withGroups_nextId (x : List (Nat × Group)) : (s.withGroups x).nextId = s.nextId := rfl
@[simp] theorem State.withGroups_sky (x : List (Nat × Group)) : (s.withGroups x).sky = s.sky := rfl
@[simp] theorem State.withGroups_regs (x : List (Nat × Group)) : (s.withGroups x).regs = s.regs := rfl
@[simp] theorem State.withGroups_notes (x : List (Nat × Group)) : (s.withGroups x).notes = s.notes := rfl
@[simp] theorem State.withGroups_nets (x : List (Nat × Group)) : (s.withGroups x).nets = s.nets := rfl
@[simp] theorem State.withGroups_chip (x : List (Nat × Group)) : (s.withGroups x).chip = s.chip := rfl
@[simp] theorem State.withGroups_power (x : List (Nat × Group)) : (s.withGroups x).power = s.power := rfl

-- `withLaunches`.
@[simp] theorem State.withLaunches_agenda (x : List (Nat × Launch)) : (s.withLaunches x).agenda = s.agenda := rfl
@[simp] theorem State.withLaunches_draws (x : List (Nat × Launch)) : (s.withLaunches x).draws = s.draws := rfl
@[simp] theorem State.withLaunches_cur (x : List (Nat × Launch)) : (s.withLaunches x).cur = s.cur := rfl
@[simp] theorem State.withLaunches_bundle (x : List (Nat × Launch)) : (s.withLaunches x).bundle = s.bundle := rfl
@[simp] theorem State.withLaunches_mem (x : List (Nat × Launch)) : (s.withLaunches x).mem = s.mem := rfl
@[simp] theorem State.withLaunches_tlb (x : List (Nat × Launch)) : (s.withLaunches x).tlb = s.tlb := rfl
@[simp] theorem State.withLaunches_cores (x : List (Nat × Launch)) : (s.withLaunches x).cores = s.cores := rfl
@[simp] theorem State.withLaunches_tasks (x : List (Nat × Launch)) : (s.withLaunches x).tasks = s.tasks := rfl
@[simp] theorem State.withLaunches_clusters (x : List (Nat × Launch)) : (s.withLaunches x).clusters = s.clusters := rfl
@[simp] theorem State.withLaunches_groups (x : List (Nat × Launch)) : (s.withLaunches x).groups = s.groups := rfl
@[simp] theorem State.withLaunches_launches (x : List (Nat × Launch)) : (s.withLaunches x).launches = x := rfl
@[simp] theorem State.withLaunches_gone (x : List (Nat × Launch)) : (s.withLaunches x).gone = s.gone := rfl
@[simp] theorem State.withLaunches_nextId (x : List (Nat × Launch)) : (s.withLaunches x).nextId = s.nextId := rfl
@[simp] theorem State.withLaunches_sky (x : List (Nat × Launch)) : (s.withLaunches x).sky = s.sky := rfl
@[simp] theorem State.withLaunches_regs (x : List (Nat × Launch)) : (s.withLaunches x).regs = s.regs := rfl
@[simp] theorem State.withLaunches_notes (x : List (Nat × Launch)) : (s.withLaunches x).notes = s.notes := rfl
@[simp] theorem State.withLaunches_nets (x : List (Nat × Launch)) : (s.withLaunches x).nets = s.nets := rfl
@[simp] theorem State.withLaunches_chip (x : List (Nat × Launch)) : (s.withLaunches x).chip = s.chip := rfl
@[simp] theorem State.withLaunches_power (x : List (Nat × Launch)) : (s.withLaunches x).power = s.power := rfl

-- `withMem`.
@[simp] theorem State.withMem_agenda (x : List Host.Cell) : (s.withMem x).agenda = s.agenda := rfl
@[simp] theorem State.withMem_draws (x : List Host.Cell) : (s.withMem x).draws = s.draws := rfl
@[simp] theorem State.withMem_cur (x : List Host.Cell) : (s.withMem x).cur = s.cur := rfl
@[simp] theorem State.withMem_bundle (x : List Host.Cell) : (s.withMem x).bundle = s.bundle := rfl
@[simp] theorem State.withMem_mem (x : List Host.Cell) : (s.withMem x).mem = x := rfl
@[simp] theorem State.withMem_tlb (x : List Host.Cell) : (s.withMem x).tlb = s.tlb := rfl
@[simp] theorem State.withMem_cores (x : List Host.Cell) : (s.withMem x).cores = s.cores := rfl
@[simp] theorem State.withMem_tasks (x : List Host.Cell) : (s.withMem x).tasks = s.tasks := rfl
@[simp] theorem State.withMem_clusters (x : List Host.Cell) : (s.withMem x).clusters = s.clusters := rfl
@[simp] theorem State.withMem_groups (x : List Host.Cell) : (s.withMem x).groups = s.groups := rfl
@[simp] theorem State.withMem_launches (x : List Host.Cell) : (s.withMem x).launches = s.launches := rfl
@[simp] theorem State.withMem_gone (x : List Host.Cell) : (s.withMem x).gone = s.gone := rfl
@[simp] theorem State.withMem_nextId (x : List Host.Cell) : (s.withMem x).nextId = s.nextId := rfl
@[simp] theorem State.withMem_sky (x : List Host.Cell) : (s.withMem x).sky = s.sky := rfl
@[simp] theorem State.withMem_regs (x : List Host.Cell) : (s.withMem x).regs = s.regs := rfl
@[simp] theorem State.withMem_notes (x : List Host.Cell) : (s.withMem x).notes = s.notes := rfl
@[simp] theorem State.withMem_nets (x : List Host.Cell) : (s.withMem x).nets = s.nets := rfl
@[simp] theorem State.withMem_chip (x : List Host.Cell) : (s.withMem x).chip = s.chip := rfl
@[simp] theorem State.withMem_power (x : List Host.Cell) : (s.withMem x).power = s.power := rfl

-- `withTlb`.
@[simp] theorem State.withTlb_agenda (x : List TlbEntry) : (s.withTlb x).agenda = s.agenda := rfl
@[simp] theorem State.withTlb_draws (x : List TlbEntry) : (s.withTlb x).draws = s.draws := rfl
@[simp] theorem State.withTlb_cur (x : List TlbEntry) : (s.withTlb x).cur = s.cur := rfl
@[simp] theorem State.withTlb_bundle (x : List TlbEntry) : (s.withTlb x).bundle = s.bundle := rfl
@[simp] theorem State.withTlb_mem (x : List TlbEntry) : (s.withTlb x).mem = s.mem := rfl
@[simp] theorem State.withTlb_tlb (x : List TlbEntry) : (s.withTlb x).tlb = x := rfl
@[simp] theorem State.withTlb_cores (x : List TlbEntry) : (s.withTlb x).cores = s.cores := rfl
@[simp] theorem State.withTlb_tasks (x : List TlbEntry) : (s.withTlb x).tasks = s.tasks := rfl
@[simp] theorem State.withTlb_clusters (x : List TlbEntry) : (s.withTlb x).clusters = s.clusters := rfl
@[simp] theorem State.withTlb_groups (x : List TlbEntry) : (s.withTlb x).groups = s.groups := rfl
@[simp] theorem State.withTlb_launches (x : List TlbEntry) : (s.withTlb x).launches = s.launches := rfl
@[simp] theorem State.withTlb_gone (x : List TlbEntry) : (s.withTlb x).gone = s.gone := rfl
@[simp] theorem State.withTlb_nextId (x : List TlbEntry) : (s.withTlb x).nextId = s.nextId := rfl
@[simp] theorem State.withTlb_sky (x : List TlbEntry) : (s.withTlb x).sky = s.sky := rfl
@[simp] theorem State.withTlb_regs (x : List TlbEntry) : (s.withTlb x).regs = s.regs := rfl
@[simp] theorem State.withTlb_notes (x : List TlbEntry) : (s.withTlb x).notes = s.notes := rfl
@[simp] theorem State.withTlb_nets (x : List TlbEntry) : (s.withTlb x).nets = s.nets := rfl
@[simp] theorem State.withTlb_chip (x : List TlbEntry) : (s.withTlb x).chip = s.chip := rfl
@[simp] theorem State.withTlb_power (x : List TlbEntry) : (s.withTlb x).power = s.power := rfl

-- `withBundle`.
@[simp] theorem State.withBundle_agenda (x : Bundle) : (s.withBundle x).agenda = s.agenda := rfl
@[simp] theorem State.withBundle_draws (x : Bundle) : (s.withBundle x).draws = s.draws := rfl
@[simp] theorem State.withBundle_cur (x : Bundle) : (s.withBundle x).cur = s.cur := rfl
@[simp] theorem State.withBundle_bundle (x : Bundle) : (s.withBundle x).bundle = x := rfl
@[simp] theorem State.withBundle_mem (x : Bundle) : (s.withBundle x).mem = s.mem := rfl
@[simp] theorem State.withBundle_tlb (x : Bundle) : (s.withBundle x).tlb = s.tlb := rfl
@[simp] theorem State.withBundle_cores (x : Bundle) : (s.withBundle x).cores = s.cores := rfl
@[simp] theorem State.withBundle_tasks (x : Bundle) : (s.withBundle x).tasks = s.tasks := rfl
@[simp] theorem State.withBundle_clusters (x : Bundle) : (s.withBundle x).clusters = s.clusters := rfl
@[simp] theorem State.withBundle_groups (x : Bundle) : (s.withBundle x).groups = s.groups := rfl
@[simp] theorem State.withBundle_launches (x : Bundle) : (s.withBundle x).launches = s.launches := rfl
@[simp] theorem State.withBundle_gone (x : Bundle) : (s.withBundle x).gone = s.gone := rfl
@[simp] theorem State.withBundle_nextId (x : Bundle) : (s.withBundle x).nextId = s.nextId := rfl
@[simp] theorem State.withBundle_sky (x : Bundle) : (s.withBundle x).sky = s.sky := rfl
@[simp] theorem State.withBundle_regs (x : Bundle) : (s.withBundle x).regs = s.regs := rfl
@[simp] theorem State.withBundle_notes (x : Bundle) : (s.withBundle x).notes = s.notes := rfl
@[simp] theorem State.withBundle_nets (x : Bundle) : (s.withBundle x).nets = s.nets := rfl
@[simp] theorem State.withBundle_chip (x : Bundle) : (s.withBundle x).chip = s.chip := rfl
@[simp] theorem State.withBundle_power (x : Bundle) : (s.withBundle x).power = s.power := rfl

-- `withSky`.
@[simp] theorem State.withSky_agenda (x : Skiver) : (s.withSky x).agenda = s.agenda := rfl
@[simp] theorem State.withSky_draws (x : Skiver) : (s.withSky x).draws = s.draws := rfl
@[simp] theorem State.withSky_cur (x : Skiver) : (s.withSky x).cur = s.cur := rfl
@[simp] theorem State.withSky_bundle (x : Skiver) : (s.withSky x).bundle = s.bundle := rfl
@[simp] theorem State.withSky_mem (x : Skiver) : (s.withSky x).mem = s.mem := rfl
@[simp] theorem State.withSky_tlb (x : Skiver) : (s.withSky x).tlb = s.tlb := rfl
@[simp] theorem State.withSky_cores (x : Skiver) : (s.withSky x).cores = s.cores := rfl
@[simp] theorem State.withSky_tasks (x : Skiver) : (s.withSky x).tasks = s.tasks := rfl
@[simp] theorem State.withSky_clusters (x : Skiver) : (s.withSky x).clusters = s.clusters := rfl
@[simp] theorem State.withSky_groups (x : Skiver) : (s.withSky x).groups = s.groups := rfl
@[simp] theorem State.withSky_launches (x : Skiver) : (s.withSky x).launches = s.launches := rfl
@[simp] theorem State.withSky_gone (x : Skiver) : (s.withSky x).gone = s.gone := rfl
@[simp] theorem State.withSky_nextId (x : Skiver) : (s.withSky x).nextId = s.nextId := rfl
@[simp] theorem State.withSky_sky (x : Skiver) : (s.withSky x).sky = x := rfl
@[simp] theorem State.withSky_regs (x : Skiver) : (s.withSky x).regs = s.regs := rfl
@[simp] theorem State.withSky_notes (x : Skiver) : (s.withSky x).notes = s.notes := rfl
@[simp] theorem State.withSky_nets (x : Skiver) : (s.withSky x).nets = s.nets := rfl
@[simp] theorem State.withSky_chip (x : Skiver) : (s.withSky x).chip = s.chip := rfl
@[simp] theorem State.withSky_power (x : Skiver) : (s.withSky x).power = s.power := rfl

-- `withRegs`.
@[simp] theorem State.withRegs_agenda (x : Regs) : (s.withRegs x).agenda = s.agenda := rfl
@[simp] theorem State.withRegs_draws (x : Regs) : (s.withRegs x).draws = s.draws := rfl
@[simp] theorem State.withRegs_cur (x : Regs) : (s.withRegs x).cur = s.cur := rfl
@[simp] theorem State.withRegs_bundle (x : Regs) : (s.withRegs x).bundle = s.bundle := rfl
@[simp] theorem State.withRegs_mem (x : Regs) : (s.withRegs x).mem = s.mem := rfl
@[simp] theorem State.withRegs_tlb (x : Regs) : (s.withRegs x).tlb = s.tlb := rfl
@[simp] theorem State.withRegs_cores (x : Regs) : (s.withRegs x).cores = s.cores := rfl
@[simp] theorem State.withRegs_tasks (x : Regs) : (s.withRegs x).tasks = s.tasks := rfl
@[simp] theorem State.withRegs_clusters (x : Regs) : (s.withRegs x).clusters = s.clusters := rfl
@[simp] theorem State.withRegs_groups (x : Regs) : (s.withRegs x).groups = s.groups := rfl
@[simp] theorem State.withRegs_launches (x : Regs) : (s.withRegs x).launches = s.launches := rfl
@[simp] theorem State.withRegs_gone (x : Regs) : (s.withRegs x).gone = s.gone := rfl
@[simp] theorem State.withRegs_nextId (x : Regs) : (s.withRegs x).nextId = s.nextId := rfl
@[simp] theorem State.withRegs_sky (x : Regs) : (s.withRegs x).sky = s.sky := rfl
@[simp] theorem State.withRegs_regs (x : Regs) : (s.withRegs x).regs = x := rfl
@[simp] theorem State.withRegs_notes (x : Regs) : (s.withRegs x).notes = s.notes := rfl
@[simp] theorem State.withRegs_nets (x : Regs) : (s.withRegs x).nets = s.nets := rfl
@[simp] theorem State.withRegs_chip (x : Regs) : (s.withRegs x).chip = s.chip := rfl
@[simp] theorem State.withRegs_power (x : Regs) : (s.withRegs x).power = s.power := rfl

-- `withNotes`.
@[simp] theorem State.withNotes_agenda (x : Notices) : (s.withNotes x).agenda = s.agenda := rfl
@[simp] theorem State.withNotes_draws (x : Notices) : (s.withNotes x).draws = s.draws := rfl
@[simp] theorem State.withNotes_cur (x : Notices) : (s.withNotes x).cur = s.cur := rfl
@[simp] theorem State.withNotes_bundle (x : Notices) : (s.withNotes x).bundle = s.bundle := rfl
@[simp] theorem State.withNotes_mem (x : Notices) : (s.withNotes x).mem = s.mem := rfl
@[simp] theorem State.withNotes_tlb (x : Notices) : (s.withNotes x).tlb = s.tlb := rfl
@[simp] theorem State.withNotes_cores (x : Notices) : (s.withNotes x).cores = s.cores := rfl
@[simp] theorem State.withNotes_tasks (x : Notices) : (s.withNotes x).tasks = s.tasks := rfl
@[simp] theorem State.withNotes_clusters (x : Notices) : (s.withNotes x).clusters = s.clusters := rfl
@[simp] theorem State.withNotes_groups (x : Notices) : (s.withNotes x).groups = s.groups := rfl
@[simp] theorem State.withNotes_launches (x : Notices) : (s.withNotes x).launches = s.launches := rfl
@[simp] theorem State.withNotes_gone (x : Notices) : (s.withNotes x).gone = s.gone := rfl
@[simp] theorem State.withNotes_nextId (x : Notices) : (s.withNotes x).nextId = s.nextId := rfl
@[simp] theorem State.withNotes_sky (x : Notices) : (s.withNotes x).sky = s.sky := rfl
@[simp] theorem State.withNotes_regs (x : Notices) : (s.withNotes x).regs = s.regs := rfl
@[simp] theorem State.withNotes_notes (x : Notices) : (s.withNotes x).notes = x := rfl
@[simp] theorem State.withNotes_nets (x : Notices) : (s.withNotes x).nets = s.nets := rfl
@[simp] theorem State.withNotes_chip (x : Notices) : (s.withNotes x).chip = s.chip := rfl
@[simp] theorem State.withNotes_power (x : Notices) : (s.withNotes x).power = s.power := rfl

-- `withNets`.
@[simp] theorem State.withNets_agenda (x : Nets) : (s.withNets x).agenda = s.agenda := rfl
@[simp] theorem State.withNets_draws (x : Nets) : (s.withNets x).draws = s.draws := rfl
@[simp] theorem State.withNets_cur (x : Nets) : (s.withNets x).cur = s.cur := rfl
@[simp] theorem State.withNets_bundle (x : Nets) : (s.withNets x).bundle = s.bundle := rfl
@[simp] theorem State.withNets_mem (x : Nets) : (s.withNets x).mem = s.mem := rfl
@[simp] theorem State.withNets_tlb (x : Nets) : (s.withNets x).tlb = s.tlb := rfl
@[simp] theorem State.withNets_cores (x : Nets) : (s.withNets x).cores = s.cores := rfl
@[simp] theorem State.withNets_tasks (x : Nets) : (s.withNets x).tasks = s.tasks := rfl
@[simp] theorem State.withNets_clusters (x : Nets) : (s.withNets x).clusters = s.clusters := rfl
@[simp] theorem State.withNets_groups (x : Nets) : (s.withNets x).groups = s.groups := rfl
@[simp] theorem State.withNets_launches (x : Nets) : (s.withNets x).launches = s.launches := rfl
@[simp] theorem State.withNets_gone (x : Nets) : (s.withNets x).gone = s.gone := rfl
@[simp] theorem State.withNets_nextId (x : Nets) : (s.withNets x).nextId = s.nextId := rfl
@[simp] theorem State.withNets_sky (x : Nets) : (s.withNets x).sky = s.sky := rfl
@[simp] theorem State.withNets_regs (x : Nets) : (s.withNets x).regs = s.regs := rfl
@[simp] theorem State.withNets_notes (x : Nets) : (s.withNets x).notes = s.notes := rfl
@[simp] theorem State.withNets_nets (x : Nets) : (s.withNets x).nets = x := rfl
@[simp] theorem State.withNets_chip (x : Nets) : (s.withNets x).chip = s.chip := rfl
@[simp] theorem State.withNets_power (x : Nets) : (s.withNets x).power = s.power := rfl

-- `withChip`.
@[simp] theorem State.withChip_agenda (x : Chip) : (s.withChip x).agenda = s.agenda := rfl
@[simp] theorem State.withChip_draws (x : Chip) : (s.withChip x).draws = s.draws := rfl
@[simp] theorem State.withChip_cur (x : Chip) : (s.withChip x).cur = s.cur := rfl
@[simp] theorem State.withChip_bundle (x : Chip) : (s.withChip x).bundle = s.bundle := rfl
@[simp] theorem State.withChip_mem (x : Chip) : (s.withChip x).mem = s.mem := rfl
@[simp] theorem State.withChip_tlb (x : Chip) : (s.withChip x).tlb = s.tlb := rfl
@[simp] theorem State.withChip_cores (x : Chip) : (s.withChip x).cores = s.cores := rfl
@[simp] theorem State.withChip_tasks (x : Chip) : (s.withChip x).tasks = s.tasks := rfl
@[simp] theorem State.withChip_clusters (x : Chip) : (s.withChip x).clusters = s.clusters := rfl
@[simp] theorem State.withChip_groups (x : Chip) : (s.withChip x).groups = s.groups := rfl
@[simp] theorem State.withChip_launches (x : Chip) : (s.withChip x).launches = s.launches := rfl
@[simp] theorem State.withChip_gone (x : Chip) : (s.withChip x).gone = s.gone := rfl
@[simp] theorem State.withChip_nextId (x : Chip) : (s.withChip x).nextId = s.nextId := rfl
@[simp] theorem State.withChip_sky (x : Chip) : (s.withChip x).sky = s.sky := rfl
@[simp] theorem State.withChip_regs (x : Chip) : (s.withChip x).regs = s.regs := rfl
@[simp] theorem State.withChip_notes (x : Chip) : (s.withChip x).notes = s.notes := rfl
@[simp] theorem State.withChip_nets (x : Chip) : (s.withChip x).nets = s.nets := rfl
@[simp] theorem State.withChip_chip (x : Chip) : (s.withChip x).chip = x := rfl
@[simp] theorem State.withChip_power (x : Chip) : (s.withChip x).power = s.power := rfl

-- Maps. ----------------------------------------------------------------------------------------------------------

variable {α : Type}

/-- Reading an entry after setting it. -/
@[simp] theorem mapGet_mapSet_self (k : Nat) (v : α) (l : List (Nat × α)) : mapGet k (mapSet k v l) = some v := by
  induction l with
  | nil => simp [mapSet, mapGet]
  | cons e l ih =>
    obtain ⟨j, w⟩ := e
    by_cases h1 : k < j
    · simp [mapSet, mapGet, h1]
    · by_cases h2 : j = k
      · simp [mapSet, mapGet, h2]
      · simp [mapSet, mapGet, h1, h2, ih]

/-- Reading another entry after setting one. -/
theorem mapGet_mapSet_ne {k j : Nat} (h : j ≠ k) (v : α) (l : List (Nat × α)) : mapGet j (mapSet k v l) = mapGet j l := by
  induction l with
  | nil => simp [mapSet, mapGet, Ne.symm h]
  | cons e l ih =>
    obtain ⟨i, w⟩ := e
    by_cases h1 : k < i
    · simp [mapSet, mapGet, h1, Ne.symm h]
    · by_cases h2 : i = k
      · subst h2; simp [mapSet, mapGet, Ne.symm h]
      · simp [mapSet, mapGet, h1, h2, ih]

/-- Of two settings of one entry the later stays. -/
@[simp] theorem mapSet_mapSet (k : Nat) (v w : α) (l : List (Nat × α)) : mapSet k v (mapSet k w l) = mapSet k v l := by
  induction l with
  | nil => simp [mapSet]
  | cons e l ih =>
    obtain ⟨j, x⟩ := e
    by_cases h1 : k < j
    · simp [mapSet, h1]
    · by_cases h2 : j = k
      · simp [mapSet, h2]
      · simp [mapSet, h1, h2, ih]

-- Accessors. -----------------------------------------------------------------------------------------------------

@[simp] theorem State.task_setTask_self (k : Nat) (t : Task) : (s.setTask k t).task k = some t := by
  simp [State.setTask, State.task]

theorem State.task_setTask_ne {k j : Nat} (h : j ≠ k) (t : Task) : (s.setTask k t).task j = s.task j := by
  simp [State.setTask, State.task, mapGet_mapSet_ne h]

@[simp] theorem State.task_withCores (x : List (Nat × Core)) (k : Nat) : (s.withCores x).task k = s.task k := rfl
@[simp] theorem State.task_withBundle (x : Bundle) (k : Nat) : (s.withBundle x).task k = s.task k := rfl
@[simp] theorem State.task_withTlb (x : List TlbEntry) (k : Nat) : (s.withTlb x).task k = s.task k := rfl
@[simp] theorem State.task_withSky (x : Skiver) (k : Nat) : (s.withSky x).task k = s.task k := rfl
@[simp] theorem State.task_withRegs (x : Regs) (k : Nat) : (s.withRegs x).task k = s.task k := rfl
@[simp] theorem State.task_withNets (x : Nets) (k : Nat) : (s.withNets x).task k = s.task k := rfl
@[simp] theorem State.task_withGroups (x : List (Nat × Group)) (k : Nat) : (s.withGroups x).task k = s.task k := rfl
@[simp] theorem State.task_withMem (x : List Host.Cell) (k : Nat) : (s.withMem x).task k = s.task k := rfl
@[simp] theorem State.task_setCore (c : Nat) (x : Core) (k : Nat) : (s.setCore c x).task k = s.task k := rfl
@[simp] theorem State.task_updCore (c : Nat) (f : Core → Core) (k : Nat) : (s.updCore c f).task k = s.task k := rfl
@[simp] theorem State.task_updGroup (g : Nat) (f : Group → Group) (k : Nat) : (s.updGroup g f).task k = s.task k := rfl
@[simp] theorem State.launch_updCore (c : Nat) (f : Core → Core) (l : Nat) : (s.updCore c f).launch l = s.launch l := rfl

@[simp] theorem State.core_setCore_self (c : Nat) (x : Core) : (s.setCore c x).core c = x := by
  simp [State.setCore, State.core]

@[simp] theorem State.setTask_setTask (k : Nat) (t u : Task) : (s.setTask k t).setTask k u = s.setTask k u := by
  simp [State.setTask, State.withTasks]

/-- A task changed where there is one. -/
theorem State.updTask_of_some {k : Nat} {t : Task} (h : s.task k = some t) (f : Task → Task) :
    s.updTask k f = s.setTask k (f t) := by
  simp [State.updTask, h]

@[simp] theorem State.updTask_setTask (k : Nat) (t : Task) (f : Task → Task) :
    (s.setTask k t).updTask k f = s.setTask k (f t) := by
  simp [State.updTask]

end Sys2Proof.Machine
end

