-- ==== Sys2Proof/Laws/Commit.lean ====
section
/-! SUPPORT. What a bundle of one slot comes to: it commits its effects, and a bundle whose effects are writes of registers
leaves `State.results`. -/

namespace Sys2Proof.Machine

variable {s : State} {t : Task} {st : Bool}

theorem Alone.taskAt (h : Alone s st t) : s.task s.key = some t := by
  have := h.task
  simp only [State.curTask, State.curKey] at this
  split at this
  · exact this
  · cases this

theorem Alone.live (h : Alone s st t) : s.bundle.live = true := by
  have := h.task
  simp only [State.curTask, State.curKey] at this
  split at this
  · assumption
  · cases this

theorem encFails_single {e : Bool} {x : Staged} (h0 : x.encs = [])
    (h : totalInFlight t e [x] ≤ 16 ∨ (countedLats e x).any (fun n => decide (n > 1)) = false) :
    encFails t e [x] 0 = [] := by
  have hb : breaksBundle [x] 0 = false := by
    simp only [breaksBundle, List.getElem?_cons_zero]
    have : classLimit x.cls ≠ 0 := by
      unfold classLimit; split <;> decide
    simp [List.zipIdx]
    omega
  simp only [encFails, List.getElem?_cons_zero, h0, hb]
  rcases h with h | h
  · simp [show ¬ (totalInFlight t e [x] > 16) by omega]
  · simp [h]

theorem encTrap_single {e : Bool} {x : Staged} (h0 : x.encs = [])
    (h : totalInFlight t e [x] ≤ 16 ∨ (countedLats e x).any (fun n => decide (n > 1)) = false) :
    encTrap t e [x] = none := by
  have h1 := encFails_single h0 h
  simp [encTrap, List.range_succ, h1]

theorem faultTrap_single {x : Staged} (h : x.fault = none) (hf : trapsFlag t.asw x.flags = false) : faultTrap t [x] = none := by
  simp [faultTrap, slotFault, h, hf]

theorem curTask_stagedAlone (h : Alone s st t) (x : Staged) : (s.stagedAlone x).curTask = some t := h.task

theorem room_total {x : Staged} (p : Passes s t x) (e : Bool) (he : e = t.exposed) :
    totalInFlight t e [x] ≤ 16 ∨ (countedLats e x).any (fun n => decide (n > 1)) = false := by
  have hr := p.room
  subst he
  cases hx : t.exposed
  · right; simp [countedLats]
  · by_cases ha : (countedLats true x).any (fun n => decide (n > 1)) = true
    · left
      simpa [totalInFlight] using hr hx ha
    · right; simpa using ha

/-- A bundle of one slot that passes its checks and waits for nothing commits. -/
theorem endBundle_alone (h : Alone s st t) {x : Staged} (p : Passes s t x) :
    (s.stagedAlone x).endBundle = (s.stagedAlone x).commit := by
  have he := encTrap_single p.encs (room_total p s.bundle.exposed h.mode)
  have hf := faultTrap_single p.fault p.flags
  have hw : (x.waits.all fun w => waitMet (s.stagedAlone x) s.cur s.bundle.slot t w) = true := by
    exact List.all_eq_true.2 (p.waits _)
  have hc : (s.stagedAlone x).cadenced t = false := h.single
  have hp : poisonStaged t (s.stagedAlone x).bundle = [x] := by simp [poisonStaged, h.sound, State.stagedAlone]
  simp only [State.endBundle, curTask_stagedAlone h x, hp]
  have hx : (s.stagedAlone x).bundle.exposed = s.bundle.exposed := rfl
  simp only [hx, he]
  have hfl : (s.stagedAlone x).cacheFills ([x].flatMap fun x => x.fills ++ faultFills x.fault ++ faultFills x.fetch) = s.stagedAlone x := by
    simp [State.cacheFills, p.fills, p.fault, p.fetch, faultFills]
  simp only [hfl, hf]
  have hi : placeSaves (s.stagedAlone x) t (s.stagedAlone x).bundle.staged = .ok [x] := by
    show placeSaves (s.stagedAlone x) t [x] = .ok [x]
    simp [placeSaves, p.image]
  have ho : outAtomics (s.stagedAlone x).bundle.staged = [] := p.inner
  have hall : (([x].zipIdx.flatMap fun p => p.1.waits.map fun w => (w, p.2)).all
      fun w => waitMet (s.stagedAlone x) (s.stagedAlone x).cur (s.stagedAlone x).bundle.slot t w.1) = true := by
    simp only [List.zipIdx, List.flatMap_cons, List.flatMap_nil, List.append_nil, List.all_map]
    exact hw
  rw [hall]
  have hsame : (s.stagedAlone x).withBundle { (s.stagedAlone x).bundle with staged := [x] } = s.stagedAlone x := rfl
  simp [p.fetch, p.fills, State.finishBundle, State.finishReady, hi, ho, hsame, hc, State.cacheFills]

/-- A slot that is its whole bundle, passes its checks and waits for nothing commits. -/
theorem finishSlot_alone {cls op : Nat} {f : Nat → State → Task → Staged} (h : Alone s st t)
    (p : Passes s t { f s.cur s t with cls := cls, op := op, stop := st }) :
    finishSlot cls op st f s = .next (s.stagedAlone { f s.cur s t with cls := cls, op := op, stop := st }).commit := by
  have hl := h.last
  simp only [finishSlot, h.task, h.none, List.nil_append]
  rw [if_pos hl]
  exact congrArg _ (endBundle_alone h p)

-- Writes of registers. -------------------------------------------------------------------------------------------

/-- The effect that a write of a register is staged as. -/
def RegWrite.effect (w : RegWrite) : Effect := .wr w.file w.reg w.mask w.val w.lat

/-- A write of a register in flight from its bundle on. -/
def RegWrite.pend (t : Task) (w : RegWrite) : Pend :=
  { file := w.file, reg := w.reg, mask := w.mask, val := w.val, left := if t.exposed then w.lat else 1 }

/-- The fields of a task that the end of a bundle sets. -/
def Task.ends (t : Task) (p : List Pend) (a : List ATEntry) (w pc : W64) (l : List Loop) (c : Nat) : Task :=
  { t with pending := p, atab := a, asw := w, pc := pc, loops := l, stall := none, answers := [], cycle := c }

theorem write_ends (t : Task) (p : List Pend) (a : List ATEntry) (w pc : W64) (l : List Loop) (c : Nat) (fl : RegFile) (n : Nat)
    (m : Pred) (v : VReg) : (t.ends p a w pc l c).write fl n m v = (t.write fl n m v).ends p a w pc l c := by
  by_cases h : t.poison = [] <;> by_cases hm : m = allLanes <;>
    cases fl <;> simp [Task.write, Task.clean, Task.ends, Task.vReg, h, hm]

theorem write_cycle (t : Task) (fl : RegFile) (n : Nat) (m : Pred) (v : VReg) : (t.write fl n m v).cycle = t.cycle := by
  by_cases h : t.poison = [] <;> by_cases hm : m = allLanes <;> cases fl <;> simp [Task.write, Task.clean, h, hm]

theorem writes_ends (ws : List RegWrite) (t : Task) (p : List Pend) (a : List ATEntry) (w pc : W64) (l : List Loop) (c : Nat) :
    ws.foldl (fun (u : Task) w => u.write w.file w.reg w.mask w.val) (t.ends p a w pc l c) =
      (ws.foldl (fun (u : Task) w => u.write w.file w.reg w.mask w.val) t).ends p a w pc l c := by
  induction ws generalizing t with
  | nil => rfl
  | cons e ws ih => rw [List.foldl_cons, write_ends, ih, List.foldl_cons]

theorem writes_cycle (ws : List RegWrite) (t : Task) :
    (ws.foldl (fun (u : Task) w => u.write w.file w.reg w.mask w.val) t).cycle = t.cycle := by
  induction ws generalizing t with
  | nil => rfl
  | cons e ws ih => rw [List.foldl_cons, ih, write_cycle]

theorem applyDue_ends (q : List Pend) (t : Task) (p : List Pend) (a : List ATEntry) (w pc : W64) (l : List Loop) (c : Nat) :
    applyDue q (t.ends p a w pc l c) = (applyDue q t).ends p a w pc l c := by
  induction q generalizing t with
  | nil => rfl
  | cons e q ih =>
    simp only [applyDue, List.foldl_cons] at ih ⊢
    split
    · rw [write_ends]; exact ih _
    · exact ih _

theorem dropHoisted_eq (vec : Bool) (w : RegWrite) (h : w.file = if vec then .v else .g) (l : List ATEntry) :
    dropHoisted vec w.reg l = l.filter fun e => !w.hits e := by
  apply List.filter_congr
  intro e _
  cases vec <;> cases hv : e.vec <;> simp [RegWrite.hits, h, hv]

theorem noHits (w : RegWrite) (h : w.file ≠ .g ∧ w.file ≠ .v) (l : List ATEntry) : l.filter (fun e => !w.hits e) = l := by
  apply List.filter_eq_self.2
  intro e _
  simp [RegWrite.hits, h.1, h.2]

theorem addWrite_eq (t : Task) (w : RegWrite) :
    t.addWrite false w.file w.reg w.mask w.val w.lat =
      { t with pending := t.pending ++ [w.pend t], atab := t.atab.filter fun e => !w.hits e } := by
  rcases w with ⟨fl, n, m, v, l⟩
  cases fl
  case g => rw [← dropHoisted_eq false _ rfl]; rfl
  case v => rw [← dropHoisted_eq true _ rfl]; rfl
  all_goals rw [noHits _ (by simp)]; rfl

theorem foldl_addWrite (ws : List RegWrite) (t : Task) :
    ws.foldl (fun u w => u.addWrite false w.file w.reg w.mask w.val w.lat) t =
      { t with pending := t.pending ++ ws.map (RegWrite.pend t), atab := t.atab.filter (fun e => !ws.any (RegWrite.hits e)) } := by
  induction ws generalizing t with
  | nil =>
    have h : t.atab.filter (fun e => !([] : List RegWrite).any (RegWrite.hits e)) = t.atab := List.filter_eq_self.2 (by simp)
    rw [h]
    simp
  | cons w ws ih =>
    rw [List.foldl_cons, ih, addWrite_eq]
    have : (RegWrite.pend { t with pending := t.pending ++ [w.pend t], atab := t.atab.filter fun e => !w.hits e }) = RegWrite.pend t := rfl
    simp only [this, List.map_cons, List.append_assoc, List.singleton_append, List.filter_filter, List.any_cons, Bool.not_or,
      Bool.and_comm]

theorem applyDue_append (p q : List Pend) (t : Task) : applyDue (p ++ q) t = applyDue q (applyDue p t) := by
  simp [applyDue]

theorem applyDue_new (ws : List RegWrite) (t u : Task) :
    applyDue ((ws.map (RegWrite.pend t)).map fun p => { p with left := p.left - 1 }) u =
      (ws.filter (RegWrite.soon t)).foldl (fun u w => u.write w.file w.reg w.mask w.val) u := by
  induction ws generalizing u with
  | nil => rfl
  | cons w ws ih =>
    have hs : RegWrite.soon t w = decide ((w.pend t).left - 1 = 0) := by
      cases h : t.exposed <;> simp [RegWrite.soon, RegWrite.pend, h]
      omega
    simp only [List.map_cons, List.filter_cons, hs]
    by_cases h0 : (w.pend t).left - 1 = 0
    · simp only [h0, decide_true, if_true, List.foldl_cons]
      exact ih _
    · simp only [h0, decide_false, Bool.false_eq_true, if_false]
      simp only [applyDue, List.foldl_cons, h0, if_false] at ih ⊢
      exact ih _

theorem late_new (ws : List RegWrite) (t : Task) :
    ((ws.map (RegWrite.pend t)).map fun p => { p with left := p.left - 1 }).filter (fun p => p.left != 0) =
      (ws.filter fun w => !w.soon t).map fun w =>
        ({ file := w.file, reg := w.reg, mask := w.mask, val := w.val, left := w.lat - 1 } : Pend) := by
  induction ws with
  | nil => rfl
  | cons w ws ih =>
    cases h : t.exposed
    · simpa [RegWrite.soon, RegWrite.pend, h] using ih
    · by_cases h0 : w.lat ≤ 1
      · have : w.lat - 1 = 0 := by omega
        simpa [RegWrite.soon, RegWrite.pend, h, h0, this] using ih
      · have : ¬ w.lat - 1 = 0 := by omega
        simpa [RegWrite.soon, RegWrite.pend, h, h0, this] using ih

/-- The writes of a bundle that ends, in one equation. -/
theorem finish_writes (t : Task) (ws : List RegWrite) (flags : BitVec 8) (pc : W64) (l : List Loop) :
    (ws.foldl (fun u w => u.addWrite false w.file w.reg w.mask w.val w.lat) t).finish flags pc l = t.after ws flags pc l := by
  have hc : (t.after ws flags pc l).cycle = t.cycle + 1 := by simp [Task.after, writes_cycle, Task.tick]
  have ha : t.after ws flags pc l = ((ws.filter (RegWrite.soon t)).foldl (fun (u : Task) w => u.write w.file w.reg w.mask w.val)
      t.tick).ends (t.after ws flags pc l).pending (t.after ws flags pc l).atab (aswOr t.asw flags) pc l (t.cycle + 1) := by
    rw [← hc]; rfl
  have ht : ∀ p a w, t.tick.ends p a w pc l (t.cycle + 1) =
      (applyDue (t.pending.map fun p => { p with left := p.left - 1 }) t).ends p a w pc l (t.cycle + 1) := fun _ _ _ => rfl
  rw [ha, ← writes_ends, foldl_addWrite, ht, ← applyDue_new, ← applyDue_ends, ← applyDue_append, ← List.map_append]
  have hp : (t.after ws flags pc l).pending =
      ((t.pending ++ ws.map (RegWrite.pend t)).map fun p => { p with left := p.left - 1 }).filter fun p => p.left != 0 := by
    rw [List.map_append, List.filter_append, late_new]; rfl
  have he : ∀ q : List Pend, ∀ a w,
      { applyDue q (t.ends (t.pending ++ ws.map (RegWrite.pend t)) a w pc l t.cycle) with
          pending := q.filter (fun p => p.left != 0), cycle := t.cycle + 1 } =
        applyDue q (t.ends (q.filter fun p => p.left != 0) a w pc l (t.cycle + 1)) := by
    intro q a w
    rw [applyDue_ends, applyDue_ends]; rfl
  rw [hp, ← he]
  have hu : ∀ q a w c, ({ applyDue q (t.ends (t.pending ++ ws.map (RegWrite.pend t)) a w pc l t.cycle) with
      pending := q.filter (fun p => p.left != 0), cycle := c } : Task) =
      { ({ applyDue q (t.ends (t.pending ++ ws.map (RegWrite.pend t)) a w pc l t.cycle) with
      pending := q.filter (fun p => p.left != 0), cycle := c } : Task) with pc := pc, loops := l } := by
    intro q a w c
    rw [applyDue_ends]; rfl
  rw [hu]
  rfl

-- A bundle that only writes registers. ---------------------------------------------------------------------------

/-- Effects that are no atomics stay as they are. -/
theorem resolve_none {es : List Effect} (h : ∀ e ∈ es, resolveAtomic s e = [e]) : es.flatMap (resolveAtomic s) = es := by
  induction es with
  | nil => rfl
  | cons e es ih =>
    rw [List.flatMap_cons, h e (by simp), ih fun x hx => h x (by simp [hx])]; rfl

/-- Effects among which there is no array operation stay as they are. -/
theorem besideStores_none {all es : List Effect} (h : ∀ e ∈ es, (∀ op, e ≠ .arr op)) : besideStores s all es = es := by
  induction es with
  | nil => rfl
  | cons e es ih =>
    have := h e (by simp)
    have hr := ih fun x hx => h x (by simp [hx])
    cases e <;> simp_all [besideStores]

/-- Effects of one phase stay in their order. -/
theorem inPhases_none {es : List Effect} {n : Nat} (hn : n < 4) (h : ∀ e ∈ es, phaseOf e = n) : inPhases es = es := by
  have hp : ∀ p, es.filter (fun e => phaseOf e == p) = if p = n then es else [] := by
    intro p
    split
    · rename_i hp; rw [List.filter_eq_self]; intro e he; simp [h e he, hp]
    · rename_i hp; rw [List.filter_eq_nil_iff]; intro e he; simp [h e he, Ne.symm hp]
  have h4 : n = 0 ∨ n = 1 ∨ n = 2 ∨ n = 3 := by omega
  rcases h4 with rfl | rfl | rfl | rfl <;> simp [inPhases, hp, List.range_succ]

/-- The effects of a bundle of one slot, among them no atomic, no array operation and nothing of another phase, in their order. -/
theorem ordered_plain (x : Staged)
    (h : ∀ e ∈ x.effects, resolveAtomic s e = [e] ∧ (∀ op, e ≠ .arr op) ∧ phaseOf e = 2) : orderedEffects s [x] = x.effects := by
  have h1 : ([x].flatMap (·.effects)).flatMap (resolveAtomic s) = x.effects := by
    simpa using resolve_none (s := s) fun e he => (h e he).1
  simp only [orderedEffects, h1]
  rw [besideStores_none fun e he => (h e he).2.1, inPhases_none (n := 2) (by decide) fun e he => (h e he).2.2]

theorem ordered_writes (ws : List RegWrite) (x : Staged) (hx : x.effects = ws.map RegWrite.effect) (s : State) :
    orderedEffects s [x] = ws.map RegWrite.effect := by
  rw [ordered_plain x, hx]
  intro e he
  rw [hx, List.mem_map] at he
  obtain ⟨w, -, rfl⟩ := he
  exact ⟨rfl, by simp [RegWrite.effect], rfl⟩

/-- What the entry of a loop head comes to after a bundle that opens no loop (R363). -/
theorem enterHead_eq {z : State} {u : Task} {target : W64 × List Loop} {es : List Effect} {b : Bundle} (hz : z.task s.key = some u)
    (hu : u.pc = target.1 ∧ u.loops = target.2) (hb : b.code = s.bundle.code ∧ b.addr = s.bundle.addr) (ho : es.any opensLoop = false)
    (hj : (es.all fun e => (jumpOf e).isNone) = true ∨ target.2 = []) :
    z.enterHead s.cur s.bundle.slot (t.objid.getD 0) b es =
      if (decide (target.1.toNat < s.bundle.addr.toNat) || target.2.any fun l => l.start == target.1) = true
      then (z.atomEnds s).counted s t target.1 else z.atomEnds s := by
  have hk : z.task (taskKey s.cur s.bundle.slot) = some u := hz
  have hs : ((es.all fun e => (jumpOf e).isNone) && target.2.any fun l => l.start == target.1) =
      target.2.any fun l => l.start == target.1 := by
    rcases hj with hj | hj
    · rw [hj, Bool.true_and]
    · rw [hj]; simp
  have he : entersHead b es u.loops target.1 =
      (decide (target.1.toNat < s.bundle.addr.toNat) || target.2.any fun l => l.start == target.1) := by
    simp only [entersHead, ho, hu.2, hb.2, Bool.false_or, hs]
  have ha : (if (u.tier1 != 0) = true then z.updTask (taskKey s.cur s.bundle.slot) (atomNext (b.code.any endsAtom) b.code.length)
      else z) = z.atomEnds s := by
    simp only [State.atomEnds, hz, hb.1]; rfl
  simp only [State.enterHead, hk, ha, hu.1, he, ho, Bool.false_eq_true, if_false]
  cases (decide (target.1.toNat < s.bundle.addr.toNat) || target.2.any fun l => l.start == target.1) <;> rfl

theorem foldl_effects (core slot : Nat) (ws : List RegWrite) (s : State) (t : Task) (h : s.task (taskKey core slot) = some t)
    (g : Task → Task) :
    ((ws.map RegWrite.effect).foldl (applyEffect core slot) s).updTask (taskKey core slot) g =
      s.setTask (taskKey core slot) (g (ws.foldl (fun u w => u.addWrite false w.file w.reg w.mask w.val w.lat) t)) := by
  induction ws generalizing s t with
  | nil => exact State.updTask_of_some s h g
  | cons w ws ih =>
    have h1 : applyEffect core slot s w.effect = s.setTask (taskKey core slot) (t.addWrite false w.file w.reg w.mask w.val w.lat) := by
      simp [applyEffect, RegWrite.effect, State.updTask, h, taskEffect]
    rw [List.map_cons, List.foldl_cons, h1, ih _ _ (State.task_setTask_self _ _ _)]
    simp

theorem noJump_writes (ws : List RegWrite) (b : Bundle) (l : List Loop) :
    nextPc b (ws.map RegWrite.effect) l = ((loopBack b.next l.reverse).1, (loopBack b.next l.reverse).2.reverse) := by
  have h1 : (ws.map RegWrite.effect).findSome? jumpOf = none := by
    simp [List.findSome?_eq_none_iff, RegWrite.effect, jumpOf]
  have h2 : (ws.map RegWrite.effect).findSome? skipOf = none := by
    simp [List.findSome?_eq_none_iff, RegWrite.effect, skipOf]
  simp only [nextPc, h1, h2]

theorem afterCommit_writes (ws : List RegWrite) (s : State) (core slot : Nat) (a : W64) (m : Nat) :
    s.afterCommit core slot a m (ws.map RegWrite.effect) = s := by
  have h1 : (ws.map RegWrite.effect).any isLeave = false := by simp [RegWrite.effect, isLeave]
  have h2 : (ws.map RegWrite.effect).any isRfe = false := by simp [RegWrite.effect, isRfe]
  have h3 : (ws.map RegWrite.effect).findSome? raiseOf = none := by
    simp [List.findSome?_eq_none_iff, RegWrite.effect, raiseOf]
  simp only [State.afterCommit, h1, h2, h3, Bool.false_eq_true, if_false]

/-- The commit of a bundle of one slot that only writes registers. -/
theorem commit_writes (h : Alone s st t) (x : Staged) (ws : List RegWrite) (hx : x.effects = ws.map RegWrite.effect) :
    (s.stagedAlone x).commit = s.results t ws x.flags := by
  have ht : (s.stagedAlone x).curTask = some t := h.task
  have ho := ordered_writes ws x hx (s.stagedAlone x)
  have hb : (s.stagedAlone x).bundle.staged = [x] := rfl
  have hk : ((s.stagedAlone x).updCore s.cur fun c => c.dropWaiter s.bundle.slot).task (taskKey s.cur s.bundle.slot) = some t :=
    h.taskAt
  have hopen : (ws.map RegWrite.effect).any opensLoop = false := by simp [RegWrite.effect, opensLoop]
  have hjump : ((ws.map RegWrite.effect).all fun e => (jumpOf e).isNone) = true := by
    simp [List.all_eq_true, RegWrite.effect, jumpOf]
  have hf : bundleFlags [x] = x.flags := by simp [bundleFlags]
  have hl : (ws.foldl (fun u w => u.addWrite false w.file w.reg w.mask w.val w.lat) t).loops = t.loops := by
    rw [foldl_addWrite]
  have hy : ((((ws.map RegWrite.effect).foldl (applyEffect s.cur s.bundle.slot)
      ((s.stagedAlone x).updCore s.cur fun c => c.dropWaiter s.bundle.slot)).updTask (taskKey s.cur s.bundle.slot) fun u =>
        u.finish x.flags (loopBack s.bundle.next u.loops.reverse).1 (loopBack s.bundle.next u.loops.reverse).2.reverse).withBundle {}) =
      (s.opened.updTask s.key fun u => u.after ws x.flags (s.onward t).1 (s.onward t).2).withBundle {} := by
    rw [foldl_effects _ _ ws _ t hk, hl, finish_writes, State.updTask_of_some _ (show s.opened.task s.key = some t from h.taskAt)]
    rfl
  have hpc : ((s.opened.updTask s.key fun u => u.after ws x.flags (s.onward t).1 (s.onward t).2).withBundle {}).task s.key =
      some (t.after ws x.flags (s.onward t).1 (s.onward t).2) := by
    rw [State.updTask_of_some _ (show s.opened.task s.key = some t from h.taskAt)]; simp
  simp only [State.commit, ht, hb, ho, hf, noJump_writes, afterCommit_writes]
  have hd : (s.stagedAlone x).cur = s.cur := rfl
  have hs : (s.stagedAlone x).bundle.slot = s.bundle.slot := rfl
  have hn : (s.stagedAlone x).bundle.next = s.bundle.next := rfl
  simp only [hd, hs, hn, hy]
  exact congrArg (fun z : State => z.goOn s.cur s.bundle.slot)
    (enterHead_eq (target := s.onward t) hpc ⟨rfl, rfl⟩ ⟨rfl, rfl⟩ hopen (.inl hjump))

/-- A SLOT THAT IS ITS WHOLE BUNDLE AND ONLY WRITES REGISTERS: where it passes its checks the next state is `State.results`. -/
theorem finishSlot_results {cls op : Nat} {f : Nat → State → Task → Staged} {ws : List RegWrite} (h : Alone s st t)
    (he : (f s.cur s t).encs = []) (hf : (f s.cur s t).fault = none) (hfl : trapsFlag t.asw (f s.cur s t).flags = false)
    (hfe : (f s.cur s t).fetch = none) (hw : (f s.cur s t).waits = []) (hfi : (f s.cur s t).fills = [])
    (hx : (f s.cur s t).effects = ws.map RegWrite.effect) (hr : Room t (ws.map (·.lat))) :
    finishSlot cls op st f s = .next (s.results t ws (f s.cur s t).flags) := by
  have hl : countedLats true { f s.cur s t with cls := cls, op := op, stop := st } = ws.map (·.lat) := by
    have : ∀ l : List RegWrite, (l.map RegWrite.effect).filterMap latOf = l.map (·.lat) := by
      intro l
      induction l with
      | nil => rfl
      | cons w l ih => simpa [RegWrite.effect, latOf, List.filterMap_map] using ih
    simp only [countedLats, hx, Bool.not_true, Bool.false_eq_true, if_false, this]
  have hs : (f s.cur s t).effects.findSome? savesTo = none := by
    simp [hx, List.findSome?_eq_none_iff, RegWrite.effect, savesTo]
  have hi : outAtomics [{ f s.cur s t with cls := cls, op := op, stop := st }] = [] := by
    simp [outAtomics, hx, List.filterMap_eq_nil_iff, RegWrite.effect]
  have hp : Passes s t { f s.cur s t with cls := cls, op := op, stop := st } :=
    { encs := he, fault := hf, flags := hfl, fetch := hfe, waits := by simp [hw], fills := hfi, room := hl ▸ hr, image := hs, inner := hi }
  exact (finishSlot_alone h hp).trans (congrArg _ (commit_writes h _ ws hx))

theorem wrG_eq {d : Code} {n : Nat} (h : dstG d n = []) (lat : Nat) (v : W64) : wrG d lat v = (toG d lat v).map RegWrite.effect := by
  unfold wrG toG
  split
  · rfl
  · have : latchOf d = none := by
      simp only [dstG, physical, undef] at h
      simp only [latchOf]
      rw [if_neg]
      split at h
      · omega
      · split at h
        · cases h
        · omega
    simp [this]

theorem wrV_eq {d : Code} {c n : Nat} (h : dstV c d n = []) (lat : Nat) (m : Pred) (v : VReg) :
    wrV d lat m v = (toV d lat m v).map RegWrite.effect := by
  unfold wrV toV
  split
  · rfl
  · have : latchOf d = none := by
      simp only [dstV, physical, undef] at h
      simp only [latchOf]
      rw [if_neg]
      split at h
      · omega
      · split at h
        · omega
        · split at h
          · cases h
          · omega
    simp [this]

theorem wrK_eq (d : Code) (lat : Nat) (v : Pred) : wrK d.toNat lat allLanes v = (toK d lat v).map RegWrite.effect := by
  unfold wrK toK; split <;> rfl

theorem wrC_eq (n lat : Nat) (b : Bool) : wrC n lat b = (toC n lat b).map RegWrite.effect := rfl

/-- No writes need no room. -/
theorem Room.nil (t : Task) : Room t [] := fun _ h => by simp at h

theorem Room.one (t : Task) {l : Nat} (h : l ≤ 1) : Room t [l] := fun _ h' => by simp at h'; omega

theorem room_toG {d : Code} {lat : Nat} {v : W64} (h : Room t [lat]) : Room t ((toG d lat v).map (·.lat)) := by
  unfold toG; split
  · exact h
  · exact Room.nil t

theorem room_toV {d : Code} {lat : Nat} {m : Pred} {v : VReg} (h : Room t [lat]) : Room t ((toV d lat m v).map (·.lat)) := by
  unfold toV; split
  · exact h
  · exact Room.nil t

theorem room_toK {d : Code} {lat : Nat} {v : Pred} (h : Room t [lat]) : Room t ((toK d lat v).map (·.lat)) := by
  unfold toK; split
  · exact Room.nil t
  · exact h

theorem DstG.ok {d : Code} (h : DstG d) (n : Nat) : dstG d n = [] := by
  simp only [dstG, DstG] at h ⊢; rw [if_pos h]

theorem SrcG.ok {d : Code} (h : SrcG d) (n : Nat) : srcG d n = [] := by
  simp only [srcG, SrcG] at h ⊢; rw [if_pos h]

theorem DstV.ok {d : Code} (h : DstV t d) (n : Nat) : dstV t.vcnt d n = [] := by
  simp only [dstV, DstV] at h ⊢
  rcases h with h | h
  · rw [if_pos h.1, if_pos h.2]
  · rw [if_neg (by omega), if_pos h]

theorem SrcV.ok {d : Code} (h : SrcV t d) (n : Nat) : srcV t.vcnt d n = [] := by
  simp only [srcV, SrcV] at h ⊢
  rcases h with h | h
  · rw [if_pos h.1, if_pos h.2]
  · rw [if_neg (by omega), if_pos h]

/-- A general result of two general operands. -/
theorem stageBin_results {cls op lat : Nat} {d a b : Code} {g : W64 → W64 → W64} {f : Nat → State → Task → Staged}
    (hf : f s.cur s t = stageBin lat d a b g s.cur t) (h : Alone s st t) (hd : DstG d) (ha : SrcG a) (hb : SrcG b)
    (hr : Room t [lat]) :
    finishSlot cls op st f s = .next (s.results t (toG d lat (g (rdG s.cur t a) (rdG s.cur t b))) 0) := by
  have := finishSlot_results (cls := cls) (op := op) (f := f) (ws := toG d lat (g (rdG s.cur t a) (rdG s.cur t b))) h
    (by simp [hf, stageBin, hd.ok, ha.ok, hb.ok]) (by simp [hf, stageBin]) (by simp [hf, stageBin, trapsFlag, newFlags])
    (by simp [hf, stageBin]) (by simp [hf, stageBin]) (by simp [hf, stageBin])
    (by rw [hf]; exact wrG_eq (hd.ok 1) _ _) (room_toG hr)
  rw [this, hf]; rfl

/-- A general result of one general operand. -/
theorem stageUn_results {cls op lat : Nat} {d a : Code} {g : W64 → W64} {f : Nat → State → Task → Staged}
    (hf : f s.cur s t = stageUn lat d a g s.cur t) (h : Alone s st t) (hd : DstG d) (ha : SrcG a) (hr : Room t [lat]) :
    finishSlot cls op st f s = .next (s.results t (toG d lat (g (rdG s.cur t a))) 0) := by
  have := finishSlot_results (cls := cls) (op := op) (f := f) (ws := toG d lat (g (rdG s.cur t a))) h
    (by simp [hf, stageUn, hd.ok, ha.ok]) (by simp [hf, stageUn]) (by simp [hf, stageUn, trapsFlag, newFlags])
    (by simp [hf, stageUn]) (by simp [hf, stageUn]) (by simp [hf, stageUn])
    (by rw [hf]; exact wrG_eq (hd.ok 1) _ _) (room_toG hr)
  rw [this, hf]; rfl

-- A bundle with any effects. -------------------------------------------------------------------------------------

/-- The end of a bundle without a register write, in one equation. -/
theorem finish_after (t : Task) (flags : BitVec 8) (pc : W64) (l : List Loop) : t.finish flags pc l = t.after [] flags pc l :=
  finish_writes t [] flags pc l

/-- THE COMMIT OF A BUNDLE OF ONE SLOT: `es` are its effects, `y` is what they make of the state, `u` its task then. It holds
for every effect but a loop opened, the end of the task, the return from the handler and a trap; a transfer leaves no loop active. -/
theorem commit_effects (h : Alone s st t) (x : Staged) {es : List Effect} {y : State} {u : Task}
    (hes : orderedEffects (s.stagedAlone x) [x] = es)
    (hy : es.foldl (applyEffect s.cur s.bundle.slot) ((s.stagedAlone x).updCore s.cur fun c => c.dropWaiter s.bundle.slot) = y)
    (hu : y.task s.key = some u) (hl : es.any isLeave = false) (hr : es.any isRfe = false) (ha : es.findSome? raiseOf = none)
    (ho : es.any opensLoop = false)
    (hj : (es.all fun e => (jumpOf e).isNone) = true ∨ (nextPc (s.stagedAlone x).bundle es u.loops).2 = []) :
    (s.stagedAlone x).commit = y.after s t [] x.flags (nextPc (s.stagedAlone x).bundle es u.loops) := by
  have ht : (s.stagedAlone x).curTask = some t := h.task
  have hb : (s.stagedAlone x).bundle.staged = [x] := rfl
  have hd : (s.stagedAlone x).cur = s.cur := rfl
  have hs : (s.stagedAlone x).bundle.slot = s.bundle.slot := rfl
  have hf : bundleFlags [x] = x.flags := by simp [bundleFlags]
  have hm : ∀ target : W64 × List Loop, (y.updTask s.key fun v => v.finish x.flags (nextPc (s.stagedAlone x).bundle es v.loops).1
      (nextPc (s.stagedAlone x).bundle es v.loops).2) = y.setTask s.key (u.finish x.flags
        (nextPc (s.stagedAlone x).bundle es u.loops).1 (nextPc (s.stagedAlone x).bundle es u.loops).2) := by
    intro _; exact State.updTask_of_some _ hu _
  have hz : y.moved s [] x.flags (nextPc (s.stagedAlone x).bundle es u.loops) =
      (y.setTask s.key (u.finish x.flags (nextPc (s.stagedAlone x).bundle es u.loops).1
        (nextPc (s.stagedAlone x).bundle es u.loops).2)).withBundle {} := by
    rw [State.moved, State.updTask_of_some _ hu, finish_after]
  have hk : taskKey s.cur s.bundle.slot = s.key := rfl
  simp only [State.commit, ht, hb, hes, hf, hd, hs, hy, hk, hm (0, [])]
  simp only [← hz]
  have hp : (y.moved s [] x.flags (nextPc (s.stagedAlone x).bundle es u.loops)).task s.key =
      some (u.after [] x.flags (nextPc (s.stagedAlone x).bundle es u.loops).1 (nextPc (s.stagedAlone x).bundle es u.loops).2) := by
    rw [State.moved, State.updTask_of_some _ hu]; simp
  have hc : (s.stagedAlone x).bundle.code = s.bundle.code ∧ (s.stagedAlone x).bundle.addr = s.bundle.addr := ⟨rfl, rfl⟩
  simp only [State.afterCommit, hl, hr, ha, Bool.false_eq_true, if_false]
  exact congrArg (fun z : State => z.goOn s.cur s.bundle.slot)
    (enterHead_eq (target := nextPc (s.stagedAlone x).bundle es u.loops) hp ⟨rfl, rfl⟩ hc ho hj)

-- Bundles that trap, and bundles that raise flags. ------------------------------------------------------------------

/-- A trap changes no launch. -/
theorem launches_trap (s : State) (core slot : Nat) (t : Task) (i : TrapInfo) (mask req : Nat) (post : Bool) (addr resume : W64) :
    (s.trap core slot t i mask req post addr resume).launches = s.launches := by
  unfold State.trap
  split
  · rfl
  · rfl

theorem trapsAlone_staged (x : Staged) (i : TrapInfo) : (s.stagedAlone x).trapsAlone t i = s.trapsAlone t i := by
  unfold State.trapsAlone State.cacheFills; split <;> rfl

theorem cacheFills_staged (x : Staged) (l : List TlbEntry) : (s.stagedAlone x).cacheFills l = (s.cacheFills l).stagedAlone x := by
  unfold State.cacheFills; split <;> rfl

/-- A bundle of one slot that traps when it ends: on a check of its encoding, or on a fault whose walks leave `i.fills` cached. -/
theorem endBundle_traps (h : Alone s st t) {x : Staged} {i : TrapInfo}
    (ht : (encTrap t t.exposed [x] = some (i, 1) ∧ i.fills = []) ∨ (encTrap t t.exposed [x] = none ∧ faultTrap t [x] = some (i, 1) ∧
      x.fills ++ faultFills x.fault ++ faultFills x.fetch = i.fills)) :
    (s.stagedAlone x).endBundle = s.trapsAlone t i := by
  have hc : (s.stagedAlone x).cadenced t = false := h.single
  have hp : poisonStaged t (s.stagedAlone x).bundle = [x] := by simp [poisonStaged, h.sound, State.stagedAlone]
  have hx : (s.stagedAlone x).bundle.exposed = t.exposed := h.mode
  have hn : ∀ y : State, y.launches = s.launches → y.stopWith t = y := by
    intro y hy
    have hy2 : y.cadenced t = s.cadenced t := by unfold State.cadenced State.launch; rw [hy]
    simp [State.stopWith, hy2, h.single]
  have hl : ∀ l, (s.cacheFills l).launches = s.launches ∧ (s.cacheFills l).curTask = s.curTask := by
    intro l; unfold State.cacheFills; split <;> exact ⟨rfl, rfl⟩
  have hk : ((s.cacheFills i.fills).stagedAlone x).trapBundle i 1 = s.trapsAlone t i := by
    have h1 : ((s.cacheFills i.fills).stagedAlone x).curTask = some t := (hl _).2.trans h.task
    have h2 : ((s.cacheFills i.fills).stagedAlone x).cadenced t = false := by
      have : ((s.cacheFills i.fills).stagedAlone x).launches = s.launches := (hl _).1
      rw [← h.single]; unfold State.cadenced State.launch; rw [this]
    simp only [State.trapBundle, h1, h2, Bool.false_and, Bool.false_eq_true, if_false]
    refine (hn _ ((launches_trap ..).trans (hl _).1)).trans ?_
    unfold State.trapsAlone State.cacheFills; split <;> rfl
  simp only [State.endBundle, curTask_stagedAlone h x, hp, hx]
  rcases ht with ⟨ht, h0⟩ | ⟨h1, h2, h3⟩
  · have : (s.cacheFills i.fills).stagedAlone x = s.stagedAlone x := by simp [h0, State.cacheFills]
    simp only [ht, ← this, hk]
  · have h4 : ([x].flatMap fun x => x.fills ++ faultFills x.fault ++ faultFills x.fetch) = i.fills := by simpa using h3
    simp only [h1, h4, cacheFills_staged, h2, hk]

theorem faultTrap_flags {x : Staged} (hf : x.fault = none) (hfl : trapsFlag t.asw x.flags = true) :
    faultTrap t [x] = some ({ cause := .arithmetic, word := (newFlags t.asw x.flags).setWidth 64 }, 1) := by
  have hb : bundleFlags [x] = x.flags := by simp [bundleFlags]
  simp [faultTrap, slotFault, hf, hfl, hb, maskOf]

theorem faultTrap_fault {x : Staged} {i : TrapInfo} (hf : x.fault = some i) : faultTrap t [x] = some (i, 1) := by
  simp [faultTrap, slotFault, hf, maskOf]

/-- A SLOT THAT IS ITS WHOLE BUNDLE, WRITES REGISTERS AND RAISES FLAGS. -/
theorem finishSlot_flagged {cls op : Nat} {f : Nat → State → Task → Staged} {ws : List RegWrite} (h : Alone s st t)
    (he : (f s.cur s t).encs = []) (hf : (f s.cur s t).fault = none)
    (hfe : (f s.cur s t).fetch = none) (hw : (f s.cur s t).waits = []) (hfi : (f s.cur s t).fills = [])
    (hx : (f s.cur s t).effects = ws.map RegWrite.effect) (hr : Room t (ws.map (·.lat))) :
    finishSlot cls op st f s = .next (s.flagged t ws (f s.cur s t).flags) := by
  cases hfl : trapsFlag t.asw (f s.cur s t).flags
  · rw [finishSlot_results h he hf hfl hfe hw hfi hx hr, State.flagged, hfl]; rfl
  · have hl := h.last
    have hlat : countedLats true { f s.cur s t with cls := cls, op := op, stop := st } = ws.map (·.lat) := by
      have : ∀ l : List RegWrite, (l.map RegWrite.effect).filterMap latOf = l.map (·.lat) := by
        intro l
        induction l with
        | nil => rfl
        | cons w l ih => simpa [RegWrite.effect, latOf, List.filterMap_map] using ih
      simp only [countedLats, hx, Bool.not_true, Bool.false_eq_true, if_false, this]
    have h0 : encTrap t t.exposed [{ f s.cur s t with cls := cls, op := op, stop := st }] = none := by
      refine encTrap_single (x := { f s.cur s t with cls := cls, op := op, stop := st }) he ?_
      cases hxx : t.exposed
      · right; simp [countedLats]
      · by_cases ha : (countedLats true { f s.cur s t with cls := cls, op := op, stop := st }).any (fun n => decide (n > 1)) = true
        · left
          have := hr hxx (hlat ▸ ha)
          simpa [totalInFlight, hlat] using this
        · right; simpa using ha
    have h1 := faultTrap_flags (t := t) (x := { f s.cur s t with cls := cls, op := op, stop := st }) hf hfl
    simp only [finishSlot, h.task, h.none, List.nil_append]
    rw [if_pos hl]
    have := endBundle_traps h (x := { f s.cur s t with cls := cls, op := op, stop := st })
      (i := { cause := .arithmetic, word := (newFlags t.asw (f s.cur s t).flags).setWidth 64 })
      (.inr ⟨h0, h1, by simp [hfi, hf, hfe, faultFills]⟩)
    rw [State.flagged, hfl]
    exact congrArg _ this

theorem stageLanes_elements {cls op lat e n : Nat} {p : BitVec 3} {d : Code} {encs : List EncFail} {f : Nat → State → Task → Staged}
    {g : Nat → Nat × BitVec 8} (hf : f s.cur s t = stageLanes lat e n p d encs t g) (h : Alone s st t) (hd : DstV t d) (he : encs = [])
    (hr : Room t [lat]) : finishSlot cls op st f s = .next (s.elements t d lat e n (t.kReg p.toNat) g) := by
  subst he
  have := finishSlot_flagged (cls := cls) (op := op) (f := f) h (by simp [hf, stageLanes, hd.ok]) (by simp [hf, stageLanes])
    (by simp [hf, stageLanes]) (by simp [hf, stageLanes]) (by simp [hf, stageLanes])
    (by rw [hf]; exact wrV_eq (hd.ok 1) _ _ _) (room_toV hr)
  rw [this, hf]; rfl

theorem lanes_calm (e : Nat) (p : Pred) (f : Nat → Nat) : ∀ n, (lanes e (onActive p e fun i => (f i, 0)) n).2.2 = 0
  | 0 => rfl
  | n + 1 => by
    simp only [lanes, onActive]
    split <;> rename_i h <;> have := lanes_calm e p f n
    · simpa [onActive] using this
    · split at h
      · cases h; simp [onActive] at this ⊢; simpa using this
      · cases h

theorem flagged_calm (t : Task) (ws : List RegWrite) : s.flagged t ws 0 = s.results t ws 0 := by
  simp [State.flagged, trapsFlag, newFlags]

theorem elements_calm (d : Code) (lat e n : Nat) (p : Pred) (f : Nat → Nat) :
    s.elements t d lat e n p (fun i => (f i, 0)) = s.results t (toLanes d lat e n p f) 0 := by
  have := lanes_calm e p f n
  have h2 : s.elements t d lat e n p (fun i => (f i, 0)) = s.flagged t (toLanes d lat e n p f) (lanes e (onActive p e fun i => (f i, 0)) n).2.2 := rfl
  rw [h2, this, flagged_calm]

-- Memory without poison (R414). ----------------------------------------------------------------------------------

/-- Where no granule is poisoned, no access meets poison. -/
theorem poisonFault_clean (h : s.chip.poison = []) (va : Option W64) (l : List (Nat × Nat × W64)) : poisonFault s va l = none := by
  induction l with
  | nil => rfl
  | cons p l ih => simp [poisonFault, poisonAt, h, ih]

theorem entryPoison_clean (h : s.chip.poison = []) (core : Nat) (r : Ring) (i n : Nat) : entryPoison s core t r i n = none := by
  unfold entryPoison
  split
  · exact poisonFault_clean h _ _
  · rfl

theorem streamPoison_clean (h : s.chip.poison = []) (core : Nat) (z : Stream) : streamPoison s core t z = none := by
  simp only [streamPoison, Option.or_eq_none_iff]
  constructor <;> split <;> first | exact poisonFault_clean h _ _ | rfl

end Sys2Proof.Machine
end

