-- ==== Sys2Proof/Laws/Memory.lean ====
section
/-! SUPPORT. Every operation on memory keeps its canonical form: rising addresses and no listed zero byte. -/

namespace Sys2Proof.Machine

/-- The canonical form, as a property of the list. -/
theorem memWf_iff (m : List Host.Cell) : memWf m = true ↔ m.Pairwise (fun a b => a.1 < b.1) ∧ ∀ c ∈ m, c.2 ≠ 0 := by
  induction m with
  | nil => simp [memWf]
  | cons c l ih =>
    cases l with
    | nil => simp [memWf]
    | cons d l =>
      simp only [memWf, Bool.and_eq_true, bne_iff_ne, decide_eq_true_eq, ih, List.pairwise_cons, List.mem_cons,
        forall_eq_or_imp]
      constructor
      · rintro ⟨⟨h1, h2⟩, ⟨h3, h4⟩, h5⟩
        exact ⟨⟨⟨h2, fun e he => Nat.lt_trans h2 (h3 e he)⟩, h3, h4⟩, h1, h5⟩
      · rintro ⟨⟨⟨h2, _⟩, h3, h4⟩, h1, h5⟩
        exact ⟨⟨h1, h2⟩, ⟨h3, h4⟩, h5⟩

theorem memWf_filter (p : Host.Cell → Bool) {m : List Host.Cell} (h : memWf m = true) : memWf (m.filter p) = true := by
  rw [memWf_iff] at *
  exact ⟨h.1.filter p, fun c hc => h.2 c (List.mem_filter.mp hc).1⟩

theorem mem_mapSet {k : Nat} {v : Byte} {m : List Host.Cell} {c : Host.Cell} (h : c ∈ mapSet k v m) : c = (k, v) ∨ c ∈ m := by
  induction m with
  | nil => simpa [mapSet] using h
  | cons d l ih =>
    obtain ⟨j, w⟩ := d
    simp only [mapSet] at h
    split at h
    · simpa [or_assoc] using h
    · split at h
      · rcases List.mem_cons.mp h with h | h
        · exact .inl h
        · exact .inr (List.mem_cons_of_mem _ h)
      · rcases List.mem_cons.mp h with h | h
        · exact .inr (h ▸ List.mem_cons_self)
        · rcases ih h with h | h
          · exact .inl h
          · exact .inr (List.mem_cons_of_mem _ h)

theorem memWf_mapSet (k : Nat) {v : Byte} (hv : v ≠ 0) {m : List Host.Cell} (h : memWf m = true) : memWf (mapSet k v m) = true := by
  rw [memWf_iff] at *
  refine ⟨?_, fun c hc => ?_⟩
  · obtain ⟨h, -⟩ := h
    induction m with
    | nil => simp [mapSet]
    | cons d l ih =>
      obtain ⟨j, w⟩ := d
      rw [List.pairwise_cons] at h
      simp only [mapSet]
      split
      · rename_i hk
        refine List.pairwise_cons.mpr ⟨fun c hc => ?_, List.pairwise_cons.mpr h⟩
        rcases List.mem_cons.mp hc with hc | hc
        · exact hc ▸ hk
        · exact Nat.lt_trans hk (h.1 c hc)
      · rename_i hk
        split
        · rename_i hj
          exact List.pairwise_cons.mpr ⟨fun c hc => hj ▸ h.1 c hc, h.2⟩
        · rename_i hj
          refine List.pairwise_cons.mpr ⟨fun c hc => ?_, ih h.2⟩
          rcases mem_mapSet hc with hc | hc
          · subst hc; exact Nat.lt_of_le_of_ne (Nat.not_lt.mp hk) hj
          · exact h.1 c hc
  · rcases mem_mapSet hc with hc | hc
    · exact hc ▸ hv
    · exact h.2 c hc

/-- A byte written. -/
theorem memWf_memSet (a : Nat) (b : Byte) {m : List Host.Cell} (h : memWf m = true) : memWf (memSet a b m) = true := by
  simp only [memSet]
  split
  · exact memWf_filter _ h
  · exact memWf_mapSet a ‹_› h

/-- A number written. -/
theorem memWf_memPut (n : Nat) : ∀ (a v : Nat) {m : List Host.Cell}, memWf m = true → memWf (memPut a v n m) = true := by
  induction n with
  | zero => exact fun _ _ _ h => h
  | succ n ih => exact fun a v m h => ih _ _ (memWf_memSet a _ h)

/-- Bytes written. -/
theorem memWf_memPutBytes (l : List Byte) : ∀ (a : Nat) {m : List Host.Cell}, memWf m = true → memWf (memPutBytes a l m) = true := by
  induction l with
  | nil => exact fun _ _ h => h
  | cons b l ih => exact fun a m h => ih _ (memWf_memSet a b h)

/-- Bytes cleared. -/
theorem memWf_memZero (a n : Nat) {m : List Host.Cell} (h : memWf m = true) : memWf (memZero a n m) = true := memWf_filter _ h

/-- The shared store of every slot and event. -/
theorem memWf_store (s : State) (w : Option Nat) (pa n v : Nat) (h : memWf s.mem = true) : memWf (s.store w pa n v).mem = true := by
  have : (s.store w pa n v).mem = memPut pa v n s.mem := by
    simp only [State.store]
    split <;> rfl
  rw [this]
  exact memWf_memPut n pa v h

/-- Bytes stored. -/
theorem memWf_storeBytes (s : State) (w : Option Nat) (pa : Nat) (l : List Byte) (h : memWf s.mem = true) :
    memWf (s.storeBytes w pa l).mem = true := memWf_store s w pa _ _ h

/-- An instruction placed where the next step fetches. -/
theorem memWf_placeMem (w : Nat) {m : List Host.Cell} (h : memWf m = true) : memWf (placeMem w m) = true := by
  simp only [placeMem]
  repeat refine memWf_memPut _ _ _ ?_
  exact memWf_memZero _ _ h

/-- Memory at reset. -/
theorem memWf_reset : memWf State.reset.mem = true := rfl

end Sys2Proof.Machine
end

