-- ==== Sys2Proof/Laws/PerInstr.lean ====
section
/-! SUPPORT. Per instruction: every word the encoder gives is a word of 32 bits; an event has none. -/

-- One theorem after the other: many at once need more threads than a small machine has.
set_option Elab.async false

namespace Sys2Proof.Laws.Word

/-- The word of an instruction, where it has one, is a word of 32 bits (R30). -/
def Statement (i : Instr) : Prop := ∀ w, encode i = some w → w < 2 ^ 32

theorem flag_le (b : Bool) : flag b ≤ 1 := by cases b <;> decide

theorem atomOp_code (x : AtomOp) : x.code ≤ 8 := by cases x <;> decide
theorem combine_code (x : Combine) : x.code ≤ 2 := by cases x <;> decide
theorem cond_code (x : Cond) : x.code ≤ 10 := by cases x <;> decide
theorem fTy_code (x : FTy) : x.code ≤ 3 := by cases x <;> decide
theorem fenceKind_code (x : FenceKind) : x.code ≤ 2 := by cases x <;> decide
theorem goMode_code (x : GoMode) : x.code ≤ 2 := by cases x <;> decide
theorem iTy_code (x : ITy) : x.code ≤ 3 := by cases x <;> decide
theorem immCond_code (x : ImmCond) : x.code ≤ 7 := by cases x <;> decide
theorem mmaFmt_code (x : MmaFmt) : x.code ≤ 7 := by cases x <;> decide
theorem narrowFmt_code (x : NarrowFmt) : x.code ≤ 15 := by cases x <;> decide
theorem pruneKind_code (x : PruneKind) : x.code ≤ 2 := by cases x <;> decide
theorem rounding_code (x : Rounding) : x.code ≤ 6 := by cases x <;> decide
theorem scope_code (x : Scope) : x.code ≤ 3 := by cases x <;> decide
theorem spFmt_code (x : SpFmt) : x.code ≤ 2 := by cases x <;> decide
theorem tier_code (x : Tier) : x.code ≤ 2 := by cases x <;> decide
theorem vAtomOp_code (x : VAtomOp) : x.code ≤ 7 := by cases x <;> decide
theorem vCond_code (x : VCond) : x.code ≤ 3 := by cases x <;> decide
theorem vTy_code (x : VTy) : x.code ≤ 7 := by cases x <;> decide
theorem wbFmt_code (x : WbFmt) : x.code ≤ 7 := by cases x <;> decide
theorem width_code (x : Width) : x.code ≤ 6 := by cases x <;> decide
theorem xFmt_code (x : XFmt) : x.code ≤ 3 := by cases x <;> decide

theorem add (s : Bool) (d : Code) (a : Code) (b : Code) : Statement (.add s d a b) := by
  intro w h; cases h; have := flag_le s; have := d.isLt; have := a.isLt; have := b.isLt; omega

theorem sub (s : Bool) (d : Code) (a : Code) (b : Code) : Statement (.sub s d a b) := by
  intro w h; cases h; have := flag_le s; have := d.isLt; have := a.isLt; have := b.isLt; omega

theorem mul (s : Bool) (d : Code) (a : Code) (b : Code) : Statement (.mul s d a b) := by
  intro w h; cases h; have := flag_le s; have := d.isLt; have := a.isLt; have := b.isLt; omega

theorem mulh (s : Bool) (d : Code) (a : Code) (b : Code) : Statement (.mulh s d a b) := by
  intro w h; cases h; have := flag_le s; have := d.isLt; have := a.isLt; have := b.isLt; omega

theorem mulhn (s : Bool) (d : Code) (a : Code) (b : Code) : Statement (.mulhn s d a b) := by
  intro w h; cases h; have := flag_le s; have := d.isLt; have := a.isLt; have := b.isLt; omega

theorem mad (s : Bool) (d : Code) (a : Code) (b : Code) : Statement (.mad s d a b) := by
  intro w h; cases h; have := flag_le s; have := d.isLt; have := a.isLt; have := b.isLt; omega

theorem div (s : Bool) (d : Code) (a : Code) (b : Code) : Statement (.div s d a b) := by
  intro w h; cases h; have := flag_le s; have := d.isLt; have := a.isLt; have := b.isLt; omega

theorem divn (s : Bool) (d : Code) (a : Code) (b : Code) : Statement (.divn s d a b) := by
  intro w h; cases h; have := flag_le s; have := d.isLt; have := a.isLt; have := b.isLt; omega

theorem rem (s : Bool) (d : Code) (a : Code) (b : Code) : Statement (.rem s d a b) := by
  intro w h; cases h; have := flag_le s; have := d.isLt; have := a.isLt; have := b.isLt; omega

theorem remn (s : Bool) (d : Code) (a : Code) (b : Code) : Statement (.remn s d a b) := by
  intro w h; cases h; have := flag_le s; have := d.isLt; have := a.isLt; have := b.isLt; omega

theorem and (s : Bool) (d : Code) (a : Code) (b : Code) : Statement (.and s d a b) := by
  intro w h; cases h; have := flag_le s; have := d.isLt; have := a.isLt; have := b.isLt; omega

theorem or (s : Bool) (d : Code) (a : Code) (b : Code) : Statement (.or s d a b) := by
  intro w h; cases h; have := flag_le s; have := d.isLt; have := a.isLt; have := b.isLt; omega

theorem xor (s : Bool) (d : Code) (a : Code) (b : Code) : Statement (.xor s d a b) := by
  intro w h; cases h; have := flag_le s; have := d.isLt; have := a.isLt; have := b.isLt; omega

theorem andn (s : Bool) (d : Code) (a : Code) (b : Code) : Statement (.andn s d a b) := by
  intro w h; cases h; have := flag_le s; have := d.isLt; have := a.isLt; have := b.isLt; omega

theorem shl (s : Bool) (d : Code) (a : Code) (b : Code) : Statement (.shl s d a b) := by
  intro w h; cases h; have := flag_le s; have := d.isLt; have := a.isLt; have := b.isLt; omega

theorem shr (s : Bool) (d : Code) (a : Code) (b : Code) : Statement (.shr s d a b) := by
  intro w h; cases h; have := flag_le s; have := d.isLt; have := a.isLt; have := b.isLt; omega

theorem sha (s : Bool) (d : Code) (a : Code) (b : Code) : Statement (.sha s d a b) := by
  intro w h; cases h; have := flag_le s; have := d.isLt; have := a.isLt; have := b.isLt; omega

theorem rot (s : Bool) (d : Code) (a : Code) (b : Code) : Statement (.rot s d a b) := by
  intro w h; cases h; have := flag_le s; have := d.isLt; have := a.isLt; have := b.isLt; omega

theorem clz (s : Bool) (d : Code) (a : Code) : Statement (.clz s d a) := by
  intro w h; cases h; have := flag_le s; have := d.isLt; have := a.isLt; omega

theorem ctz (s : Bool) (d : Code) (a : Code) : Statement (.ctz s d a) := by
  intro w h; cases h; have := flag_le s; have := d.isLt; have := a.isLt; omega

theorem popc (s : Bool) (d : Code) (a : Code) : Statement (.popc s d a) := by
  intro w h; cases h; have := flag_le s; have := d.isLt; have := a.isLt; omega

theorem min (s : Bool) (d : Code) (a : Code) (b : Code) : Statement (.min s d a b) := by
  intro w h; cases h; have := flag_le s; have := d.isLt; have := a.isLt; have := b.isLt; omega

theorem max (s : Bool) (d : Code) (a : Code) (b : Code) : Statement (.max s d a b) := by
  intro w h; cases h; have := flag_le s; have := d.isLt; have := a.isLt; have := b.isLt; omega

theorem minn (s : Bool) (d : Code) (a : Code) (b : Code) : Statement (.minn s d a b) := by
  intro w h; cases h; have := flag_le s; have := d.isLt; have := a.isLt; have := b.isLt; omega

theorem maxn (s : Bool) (d : Code) (a : Code) (b : Code) : Statement (.maxn s d a b) := by
  intro w h; cases h; have := flag_le s; have := d.isLt; have := a.isLt; have := b.isLt; omega

theorem mov (s : Bool) (d : Code) (a : Code) : Statement (.mov s d a) := by
  intro w h; cases h; have := flag_le s; have := d.isLt; have := a.isLt; omega

theorem leaRrScale12 (s : Bool) (d : Code) (a : Code) (b : Code) (x : Bool) : Statement (.leaRrScale12 s d a b x) := by
  intro w h; cases h; have := flag_le s; have := d.isLt; have := a.isLt; have := b.isLt; have := flag_le x; omega

theorem leaRrScale48 (s : Bool) (d : Code) (a : Code) (b : Code) (x : Bool) : Statement (.leaRrScale48 s d a b x) := by
  intro w h; cases h; have := flag_le s; have := d.isLt; have := a.isLt; have := b.isLt; have := flag_le x; omega

theorem cmp (s : Bool) (d : Code) (a : Code) (b : Code) (m : Combine) (c : Cond) : Statement (.cmp s d a b m c) := by
  intro w h; cases h; have := flag_le s; have := d.isLt; have := a.isLt; have := b.isLt; have := combine_code m; have := cond_code c; omega

theorem sel (s : Bool) (d : Code) (a : Code) (b : Code) (n : Bool) (c : BitVec 3) : Statement (.sel s d a b n c) := by
  intro w h; cases h; have := flag_le s; have := d.isLt; have := a.isLt; have := b.isLt; have := flag_le n; have := c.isLt; omega

theorem ext (s : Bool) (d : Code) (a : Code) (p : BitVec 6) (l : BitVec 6) : Statement (.ext s d a p l) := by
  intro w h; cases h; have := flag_le s; have := d.isLt; have := a.isLt; have := p.isLt; have := l.isLt; omega

theorem extn (s : Bool) (d : Code) (a : Code) (p : BitVec 6) (l : BitVec 6) : Statement (.extn s d a p l) := by
  intro w h; cases h; have := flag_le s; have := d.isLt; have := a.isLt; have := p.isLt; have := l.isLt; omega

theorem ins (s : Bool) (d : Code) (a : Code) (p : BitVec 6) (l : BitVec 6) : Statement (.ins s d a p l) := by
  intro w h; cases h; have := flag_le s; have := d.isLt; have := a.isLt; have := p.isLt; have := l.isLt; omega

theorem wid (s : Bool) (d : Code) (k : BitVec 12) : Statement (.wid s d k) := by
  intro w h; cases h; have := flag_le s; have := d.isLt; have := k.isLt; omega

theorem leaRi (s : Bool) (d : Code) (a : Code) (i : BitVec 12) : Statement (.leaRi s d a i) := by
  intro w h; cases h; have := flag_le s; have := d.isLt; have := a.isLt; have := i.isLt; omega

theorem addi (s : Bool) (d : Code) (a : Code) (i : BitVec 12) : Statement (.addi s d a i) := by
  intro w h; cases h; have := flag_le s; have := d.isLt; have := a.isLt; have := i.isLt; omega

theorem andi (s : Bool) (d : Code) (a : Code) (i : BitVec 12) : Statement (.andi s d a i) := by
  intro w h; cases h; have := flag_le s; have := d.isLt; have := a.isLt; have := i.isLt; omega

theorem ori (s : Bool) (d : Code) (a : Code) (i : BitVec 12) : Statement (.ori s d a i) := by
  intro w h; cases h; have := flag_le s; have := d.isLt; have := a.isLt; have := i.isLt; omega

theorem xori (s : Bool) (d : Code) (a : Code) (i : BitVec 12) : Statement (.xori s d a i) := by
  intro w h; cases h; have := flag_le s; have := d.isLt; have := a.isLt; have := i.isLt; omega

theorem cmpi (s : Bool) (k : ImmCond) (c : BitVec 3) (a : Code) (i : BitVec 12) : Statement (.cmpi s k c a i) := by
  intro w h; cases h; have := flag_le s; have := immCond_code k; have := c.isLt; have := a.isLt; have := i.isLt; omega

theorem shli (s : Bool) (d : Code) (a : Code) (n : BitVec 6) : Statement (.shli s d a n) := by
  intro w h; cases h; have := flag_le s; have := d.isLt; have := a.isLt; have := n.isLt; omega

theorem shri (s : Bool) (d : Code) (a : Code) (n : BitVec 6) : Statement (.shri s d a n) := by
  intro w h; cases h; have := flag_le s; have := d.isLt; have := a.isLt; have := n.isLt; omega

theorem shai (s : Bool) (d : Code) (a : Code) (n : BitVec 6) : Statement (.shai s d a n) := by
  intro w h; cases h; have := flag_le s; have := d.isLt; have := a.isLt; have := n.isLt; omega

theorem li (s : Bool) (d : Code) (i : BitVec 18) : Statement (.li s d i) := by
  intro w h; cases h; have := flag_le s; have := d.isLt; have := i.isLt; omega

theorem lih (s : Bool) (d : Code) (i : BitVec 18) : Statement (.lih s d i) := by
  intro w h; cases h; have := flag_le s; have := d.isLt; have := i.isLt; omega

theorem brpLabel (s : Bool) (t : BitVec 3) (i : BitVec 18) : Statement (.brpLabel s t i) := by
  intro w h; cases h; have := flag_le s; have := t.isLt; have := i.isLt; omega

theorem brpReg (s : Bool) (t : BitVec 3) (g : Code) : Statement (.brpReg s t g) := by
  intro w h; cases h; have := flag_le s; have := t.isLt; have := g.isLt; omega

theorem go (s : Bool) (t : BitVec 3) (c : BitVec 3) (m : GoMode) : Statement (.go s t c m) := by
  intro w h; cases h; have := flag_le s; have := t.isLt; have := c.isLt; have := goMode_code m; omega

theorem call (s : Bool) (t : BitVec 3) (g : Code) : Statement (.call s t g) := by
  intro w h; cases h; have := flag_le s; have := t.isLt; have := g.isLt; omega

theorem ret (s : Bool) (g : Code) : Statement (.ret s g) := by
  intro w h; cases h; have := flag_le s; have := g.isLt; omega

theorem lp (s : Bool) (g : Code) (n : BitVec 12) : Statement (.lp s g n) := by
  intro w h; cases h; have := flag_le s; have := g.isLt; have := n.isLt; omega

theorem exit (s : Bool) : Statement (.exit s) := by
  intro w h; cases h; have := flag_le s; omega

theorem nop (s : Bool) : Statement (.nop s) := by
  intro w h; cases h; have := flag_le s; omega

theorem brk (s : Bool) (k : BitVec 18) : Statement (.brk s k) := by
  intro w h; cases h; have := flag_le s; have := k.isLt; omega

theorem vadd (s : Bool) (d : Code) (a : Code) (b : Code) (t : VTy) (p : BitVec 3) : Statement (.vadd s d a b t p) := by
  intro w h; cases h; have := flag_le s; have := d.isLt; have := a.isLt; have := b.isLt; have := vTy_code t; have := p.isLt; omega

theorem vsub (s : Bool) (d : Code) (a : Code) (b : Code) (t : VTy) (p : BitVec 3) : Statement (.vsub s d a b t p) := by
  intro w h; cases h; have := flag_le s; have := d.isLt; have := a.isLt; have := b.isLt; have := vTy_code t; have := p.isLt; omega

theorem vmul (s : Bool) (d : Code) (a : Code) (b : Code) (t : VTy) (p : BitVec 3) : Statement (.vmul s d a b t p) := by
  intro w h; cases h; have := flag_le s; have := d.isLt; have := a.isLt; have := b.isLt; have := vTy_code t; have := p.isLt; omega

theorem vaddFtz (s : Bool) (d : Code) (a : Code) (b : Code) (t : FTy) (p : BitVec 3) : Statement (.vaddFtz s d a b t p) := by
  intro w h; cases h; have := flag_le s; have := d.isLt; have := a.isLt; have := b.isLt; have := fTy_code t; have := p.isLt; omega

theorem vaddSat (s : Bool) (d : Code) (a : Code) (b : Code) (t : ITy) (p : BitVec 3) : Statement (.vaddSat s d a b t p) := by
  intro w h; cases h; have := flag_le s; have := d.isLt; have := a.isLt; have := b.isLt; have := iTy_code t; have := p.isLt; omega

theorem vsubFtz (s : Bool) (d : Code) (a : Code) (b : Code) (t : FTy) (p : BitVec 3) : Statement (.vsubFtz s d a b t p) := by
  intro w h; cases h; have := flag_le s; have := d.isLt; have := a.isLt; have := b.isLt; have := fTy_code t; have := p.isLt; omega

theorem vsubSat (s : Bool) (d : Code) (a : Code) (b : Code) (t : ITy) (p : BitVec 3) : Statement (.vsubSat s d a b t p) := by
  intro w h; cases h; have := flag_le s; have := d.isLt; have := a.isLt; have := b.isLt; have := iTy_code t; have := p.isLt; omega

theorem vmulFtz (s : Bool) (d : Code) (a : Code) (b : Code) (t : FTy) (p : BitVec 3) : Statement (.vmulFtz s d a b t p) := by
  intro w h; cases h; have := flag_le s; have := d.isLt; have := a.isLt; have := b.isLt; have := fTy_code t; have := p.isLt; omega

theorem vmulSat (s : Bool) (d : Code) (a : Code) (b : Code) (t : ITy) (p : BitVec 3) : Statement (.vmulSat s d a b t p) := by
  intro w h; cases h; have := flag_le s; have := d.isLt; have := a.isLt; have := b.isLt; have := iTy_code t; have := p.isLt; omega

theorem vfma (s : Bool) (d : Code) (a : Code) (b : Code) (t : FTy) (p : BitVec 3) : Statement (.vfma s d a b t p) := by
  intro w h; cases h; have := flag_le s; have := d.isLt; have := a.isLt; have := b.isLt; have := fTy_code t; have := p.isLt; omega

theorem vfms (s : Bool) (d : Code) (a : Code) (b : Code) (t : FTy) (p : BitVec 3) : Statement (.vfms s d a b t p) := by
  intro w h; cases h; have := flag_le s; have := d.isLt; have := a.isLt; have := b.isLt; have := fTy_code t; have := p.isLt; omega

theorem vfnma (s : Bool) (d : Code) (a : Code) (b : Code) (t : FTy) (p : BitVec 3) : Statement (.vfnma s d a b t p) := by
  intro w h; cases h; have := flag_le s; have := d.isLt; have := a.isLt; have := b.isLt; have := fTy_code t; have := p.isLt; omega

theorem vsha (s : Bool) (d : Code) (a : Code) (b : Code) (t : ITy) (p : BitVec 3) : Statement (.vsha s d a b t p) := by
  intro w h; cases h; have := flag_le s; have := d.isLt; have := a.isLt; have := b.isLt; have := iTy_code t; have := p.isLt; omega

theorem vmin (s : Bool) (d : Code) (a : Code) (b : Code) (t : VTy) (p : BitVec 3) : Statement (.vmin s d a b t p) := by
  intro w h; cases h; have := flag_le s; have := d.isLt; have := a.isLt; have := b.isLt; have := vTy_code t; have := p.isLt; omega

theorem vmax (s : Bool) (d : Code) (a : Code) (b : Code) (t : VTy) (p : BitVec 3) : Statement (.vmax s d a b t p) := by
  intro w h; cases h; have := flag_le s; have := d.isLt; have := a.isLt; have := b.isLt; have := vTy_code t; have := p.isLt; omega

theorem vmaxn (s : Bool) (d : Code) (a : Code) (b : Code) (t : ITy) (p : BitVec 3) : Statement (.vmaxn s d a b t p) := by
  intro w h; cases h; have := flag_le s; have := d.isLt; have := a.isLt; have := b.isLt; have := iTy_code t; have := p.isLt; omega

theorem vminn (s : Bool) (d : Code) (a : Code) (b : Code) (t : ITy) (p : BitVec 3) : Statement (.vminn s d a b t p) := by
  intro w h; cases h; have := flag_le s; have := d.isLt; have := a.isLt; have := b.isLt; have := iTy_code t; have := p.isLt; omega

theorem vshr (s : Bool) (d : Code) (a : Code) (b : Code) (t : ITy) (p : BitVec 3) : Statement (.vshr s d a b t p) := by
  intro w h; cases h; have := flag_le s; have := d.isLt; have := a.isLt; have := b.isLt; have := iTy_code t; have := p.isLt; omega

theorem vshl (s : Bool) (d : Code) (a : Code) (b : Code) (t : ITy) (p : BitVec 3) : Statement (.vshl s d a b t p) := by
  intro w h; cases h; have := flag_le s; have := d.isLt; have := a.isLt; have := b.isLt; have := iTy_code t; have := p.isLt; omega

theorem vcmp (s : Bool) (c : VCond) (k : BitVec 4) (a : Code) (b : Code) (t : VTy) (p : BitVec 3) : Statement (.vcmp s c k a b t p) := by
  intro w h; cases h; have := flag_le s; have := vCond_code c; have := k.isLt; have := a.isLt; have := b.isLt; have := vTy_code t; have := p.isLt; omega

theorem vcvt (s : Bool) (d : Code) (a : Code) (e : VTy) (r : Rounding) (t : VTy) (p : BitVec 3) : Statement (.vcvt s d a e r t p) := by
  intro w h; cases h; have := flag_le s; have := d.isLt; have := a.isLt; have := vTy_code e; have := rounding_code r; have := vTy_code t; have := p.isLt; omega

theorem vabs (s : Bool) (d : Code) (a : Code) (t : VTy) (p : BitVec 3) : Statement (.vabs s d a t p) := by
  intro w h; cases h; have := flag_le s; have := d.isLt; have := a.isLt; have := vTy_code t; have := p.isLt; omega

theorem vneg (s : Bool) (d : Code) (a : Code) (t : VTy) (p : BitVec 3) : Statement (.vneg s d a t p) := by
  intro w h; cases h; have := flag_le s; have := d.isLt; have := a.isLt; have := vTy_code t; have := p.isLt; omega

theorem vnot (s : Bool) (d : Code) (a : Code) (t : VTy) (p : BitVec 3) : Statement (.vnot s d a t p) := by
  intro w h; cases h; have := flag_le s; have := d.isLt; have := a.isLt; have := vTy_code t; have := p.isLt; omega

theorem vmov (s : Bool) (d : Code) (a : Code) (t : VTy) (p : BitVec 3) : Statement (.vmov s d a t p) := by
  intro w h; cases h; have := flag_le s; have := d.isLt; have := a.isLt; have := vTy_code t; have := p.isLt; omega

theorem vrcp (s : Bool) (d : Code) (a : Code) (t : FTy) (p : BitVec 3) : Statement (.vrcp s d a t p) := by
  intro w h; cases h; have := flag_le s; have := d.isLt; have := a.isLt; have := fTy_code t; have := p.isLt; omega

theorem vrsqrt (s : Bool) (d : Code) (a : Code) (t : FTy) (p : BitVec 3) : Statement (.vrsqrt s d a t p) := by
  intro w h; cases h; have := flag_le s; have := d.isLt; have := a.isLt; have := fTy_code t; have := p.isLt; omega

theorem vsqrt (s : Bool) (d : Code) (a : Code) (t : FTy) (p : BitVec 3) : Statement (.vsqrt s d a t p) := by
  intro w h; cases h; have := flag_le s; have := d.isLt; have := a.isLt; have := fTy_code t; have := p.isLt; omega

theorem vexp2 (s : Bool) (d : Code) (a : Code) (t : FTy) (p : BitVec 3) : Statement (.vexp2 s d a t p) := by
  intro w h; cases h; have := flag_le s; have := d.isLt; have := a.isLt; have := fTy_code t; have := p.isLt; omega

theorem vlog2 (s : Bool) (d : Code) (a : Code) (t : FTy) (p : BitVec 3) : Statement (.vlog2 s d a t p) := by
  intro w h; cases h; have := flag_le s; have := d.isLt; have := a.isLt; have := fTy_code t; have := p.isLt; omega

theorem vbcast (s : Bool) (d : Code) (a : Code) (t : VTy) (p : BitVec 3) : Statement (.vbcast s d a t p) := by
  intro w h; cases h; have := flag_le s; have := d.isLt; have := a.isLt; have := vTy_code t; have := p.isLt; omega

theorem vli (s : Bool) (d : Code) (a : Code) (t : VTy) (p : BitVec 3) : Statement (.vli s d a t p) := by
  intro w h; cases h; have := flag_le s; have := d.isLt; have := a.isLt; have := vTy_code t; have := p.isLt; omega

theorem vcompress (s : Bool) (d : Code) (a : Code) (t : VTy) (p : BitVec 3) : Statement (.vcompress s d a t p) := by
  intro w h; cases h; have := flag_le s; have := d.isLt; have := a.isLt; have := vTy_code t; have := p.isLt; omega

theorem vexpand (s : Bool) (d : Code) (a : Code) (t : VTy) (p : BitVec 3) : Statement (.vexpand s d a t p) := by
  intro w h; cases h; have := flag_le s; have := d.isLt; have := a.isLt; have := vTy_code t; have := p.isLt; omega

theorem vredAdd (s : Bool) (d : Code) (a : Code) (t : VTy) (p : BitVec 3) : Statement (.vredAdd s d a t p) := by
  intro w h; cases h; have := flag_le s; have := d.isLt; have := a.isLt; have := vTy_code t; have := p.isLt; omega

theorem vredMin (s : Bool) (d : Code) (a : Code) (t : VTy) (p : BitVec 3) : Statement (.vredMin s d a t p) := by
  intro w h; cases h; have := flag_le s; have := d.isLt; have := a.isLt; have := vTy_code t; have := p.isLt; omega

theorem vredMax (s : Bool) (d : Code) (a : Code) (t : VTy) (p : BitVec 3) : Statement (.vredMax s d a t p) := by
  intro w h; cases h; have := flag_le s; have := d.isLt; have := a.isLt; have := vTy_code t; have := p.isLt; omega

theorem vredMinn (s : Bool) (d : Code) (a : Code) (t : ITy) (p : BitVec 3) : Statement (.vredMinn s d a t p) := by
  intro w h; cases h; have := flag_le s; have := d.isLt; have := a.isLt; have := iTy_code t; have := p.isLt; omega

theorem vredMaxn (s : Bool) (d : Code) (a : Code) (t : ITy) (p : BitVec 3) : Statement (.vredMaxn s d a t p) := by
  intro w h; cases h; have := flag_le s; have := d.isLt; have := a.isLt; have := iTy_code t; have := p.isLt; omega

theorem vredAnd (s : Bool) (d : Code) (a : Code) (t : ITy) (p : BitVec 3) : Statement (.vredAnd s d a t p) := by
  intro w h; cases h; have := flag_le s; have := d.isLt; have := a.isLt; have := iTy_code t; have := p.isLt; omega

theorem vredOr (s : Bool) (d : Code) (a : Code) (t : ITy) (p : BitVec 3) : Statement (.vredOr s d a t p) := by
  intro w h; cases h; have := flag_le s; have := d.isLt; have := a.isLt; have := iTy_code t; have := p.isLt; omega

theorem vredXor (s : Bool) (d : Code) (a : Code) (t : ITy) (p : BitVec 3) : Statement (.vredXor s d a t p) := by
  intro w h; cases h; have := flag_le s; have := d.isLt; have := a.isLt; have := iTy_code t; have := p.isLt; omega

theorem vscanAdd (s : Bool) (d : Code) (a : Code) (t : VTy) (p : BitVec 3) : Statement (.vscanAdd s d a t p) := by
  intro w h; cases h; have := flag_le s; have := d.isLt; have := a.isLt; have := vTy_code t; have := p.isLt; omega

theorem vscanMin (s : Bool) (d : Code) (a : Code) (t : VTy) (p : BitVec 3) : Statement (.vscanMin s d a t p) := by
  intro w h; cases h; have := flag_le s; have := d.isLt; have := a.isLt; have := vTy_code t; have := p.isLt; omega

theorem vscanMax (s : Bool) (d : Code) (a : Code) (t : VTy) (p : BitVec 3) : Statement (.vscanMax s d a t p) := by
  intro w h; cases h; have := flag_le s; have := d.isLt; have := a.isLt; have := vTy_code t; have := p.isLt; omega

theorem vcvtFormat (s : Bool) (d : Code) (a : Code) (t : VTy) (p : BitVec 3) (f : NarrowFmt) (n : Bool) : Statement (.vcvtFormat s d a t p f n) := by
  intro w h; cases h; have := flag_le s; have := d.isLt; have := a.isLt; have := vTy_code t; have := p.isLt; have := narrowFmt_code f; have := flag_le n; omega

theorem kand (s : Bool) (d : Code) (a : Code) (b : Code) : Statement (.kand s d a b) := by
  intro w h; cases h; have := flag_le s; have := d.isLt; have := a.isLt; have := b.isLt; omega

theorem kor (s : Bool) (d : Code) (a : Code) (b : Code) : Statement (.kor s d a b) := by
  intro w h; cases h; have := flag_le s; have := d.isLt; have := a.isLt; have := b.isLt; omega

theorem kxor (s : Bool) (d : Code) (a : Code) (b : Code) : Statement (.kxor s d a b) := by
  intro w h; cases h; have := flag_le s; have := d.isLt; have := a.isLt; have := b.isLt; omega

theorem knot (s : Bool) (d : Code) (a : Code) : Statement (.knot s d a) := by
  intro w h; cases h; have := flag_le s; have := d.isLt; have := a.isLt; omega

theorem kpop (s : Bool) (d : Code) (a : Code) : Statement (.kpop s d a) := by
  intro w h; cases h; have := flag_le s; have := d.isLt; have := a.isLt; omega

theorem vtoc (s : Bool) (d : Code) (a : Code) (b : Code) : Statement (.vtoc s d a b) := by
  intro w h; cases h; have := flag_le s; have := d.isLt; have := a.isLt; have := b.isLt; omega

theorem vany (s : Bool) (d : Code) (a : Code) (b : Code) : Statement (.vany s d a b) := by
  intro w h; cases h; have := flag_le s; have := d.isLt; have := a.isLt; have := b.isLt; omega

theorem vall (s : Bool) (d : Code) (a : Code) (b : Code) : Statement (.vall s d a b) := by
  intro w h; cases h; have := flag_le s; have := d.isLt; have := a.isLt; have := b.isLt; omega

theorem vext (s : Bool) (d : Code) (a : Code) (b : Code) (w : ITy) : Statement (.vext s d a b w) := by
  intro w h; cases h; have := flag_le s; have := d.isLt; have := a.isLt; have := b.isLt; have := iTy_code w; omega

theorem vins (s : Bool) (d : Code) (a : Code) (b : Code) (w : ITy) : Statement (.vins s d a b w) := by
  intro w h; cases h; have := flag_le s; have := d.isLt; have := a.isLt; have := b.isLt; have := iTy_code w; omega

theorem vperm (s : Bool) (d : Code) (a : Code) (b : Code) (w : ITy) : Statement (.vperm s d a b w) := by
  intro w h; cases h; have := flag_le s; have := d.isLt; have := a.isLt; have := b.isLt; have := iTy_code w; omega

theorem vclampInt (s : Bool) (d : Code) (a : Code) (b : Code) (t : ITy) : Statement (.vclampInt s d a b t) := by
  intro w h; cases h; have := flag_le s; have := d.isLt; have := a.isLt; have := b.isLt; have := iTy_code t; omega

theorem vclampFp (s : Bool) (d : Code) (a : Code) (b : Code) (t : FTy) : Statement (.vclampFp s d a b t) := by
  intro w h; cases h; have := flag_le s; have := d.isLt; have := a.isLt; have := b.isLt; have := fTy_code t; omega

theorem vand (s : Bool) (d : Code) (a : Code) (b : Code) : Statement (.vand s d a b) := by
  intro w h; cases h; have := flag_le s; have := d.isLt; have := a.isLt; have := b.isLt; omega

theorem vor (s : Bool) (d : Code) (a : Code) (b : Code) : Statement (.vor s d a b) := by
  intro w h; cases h; have := flag_le s; have := d.isLt; have := a.isLt; have := b.isLt; omega

theorem vxor (s : Bool) (d : Code) (a : Code) (b : Code) : Statement (.vxor s d a b) := by
  intro w h; cases h; have := flag_le s; have := d.isLt; have := a.isLt; have := b.isLt; omega

theorem vsel (s : Bool) (d : Code) (a : Code) (b : Code) (w : ITy) (k : BitVec 3) : Statement (.vsel s d a b w k) := by
  intro w h; cases h; have := flag_le s; have := d.isLt; have := a.isLt; have := b.isLt; have := iTy_code w; have := k.isLt; omega

theorem ldRr (s : Bool) (d : Code) (a : Code) (b : Code) (w : Width) (x : BitVec 2) : Statement (.ldRr s d a b w x) := by
  intro w h; cases h; have := flag_le s; have := d.isLt; have := a.isLt; have := b.isLt; have := width_code w; have := x.isLt; omega

theorem ldA (s : Bool) (d : Code) (a : Code) (b : Code) (w : Width) (x : BitVec 2) : Statement (.ldA s d a b w x) := by
  intro w h; cases h; have := flag_le s; have := d.isLt; have := a.isLt; have := b.isLt; have := width_code w; have := x.isLt; omega

theorem ldRi (s : Bool) (d : Code) (a : Code) (i : BitVec 12) : Statement (.ldRi s d a i) := by
  intro w h; cases h; have := flag_le s; have := d.isLt; have := a.isLt; have := i.isLt; omega

theorem stRr (s : Bool) (d : Code) (a : Code) (b : Code) (w : ITy) (x : BitVec 2) : Statement (.stRr s d a b w x) := by
  intro w h; cases h; have := flag_le s; have := d.isLt; have := a.isLt; have := b.isLt; have := iTy_code w; have := x.isLt; omega

theorem stRi (s : Bool) (d : Code) (a : Code) (i : BitVec 12) : Statement (.stRi s d a i) := by
  intro w h; cases h; have := flag_le s; have := d.isLt; have := a.isLt; have := i.isLt; omega

theorem chkA (s : Bool) (d : Code) (a : Code) (b : Code) (w : Width) (x : BitVec 2) : Statement (.chkA s d a b w x) := by
  intro w h; cases h; have := flag_le s; have := d.isLt; have := a.isLt; have := b.isLt; have := width_code w; have := x.isLt; omega

theorem ydesc (s : Bool) (d : Code) (a : Code) (i : BitVec 12) : Statement (.ydesc s d a i) := by
  intro w h; cases h; have := flag_le s; have := d.isLt; have := a.isLt; have := i.isLt; omega

theorem vldRr (s : Bool) (d : Code) (a : Code) (b : Code) (x : BitVec 2) (p : BitVec 3) : Statement (.vldRr s d a b x p) := by
  intro w h; cases h; have := flag_le s; have := d.isLt; have := a.isLt; have := b.isLt; have := x.isLt; have := p.isLt; omega

theorem vldA (s : Bool) (d : Code) (a : Code) (b : Code) (x : BitVec 2) (p : BitVec 3) : Statement (.vldA s d a b x p) := by
  intro w h; cases h; have := flag_le s; have := d.isLt; have := a.isLt; have := b.isLt; have := x.isLt; have := p.isLt; omega

theorem vldRi (s : Bool) (d : Code) (a : Code) (i : BitVec 12) : Statement (.vldRi s d a i) := by
  intro w h; cases h; have := flag_le s; have := d.isLt; have := a.isLt; have := i.isLt; omega

theorem vstRr (s : Bool) (d : Code) (a : Code) (b : Code) (x : BitVec 2) (p : BitVec 3) : Statement (.vstRr s d a b x p) := by
  intro w h; cases h; have := flag_le s; have := d.isLt; have := a.isLt; have := b.isLt; have := x.isLt; have := p.isLt; omega

theorem vstRi (s : Bool) (d : Code) (a : Code) (i : BitVec 12) : Statement (.vstRi s d a i) := by
  intro w h; cases h; have := flag_le s; have := d.isLt; have := a.isLt; have := i.isLt; omega

theorem fifoStallRelease (x0 : Nat) (x1 : Nat) : Statement (.fifoStallRelease x0 x1) :=
  fun _ h => by cases h

theorem vldg (s : Bool) (d : Code) (a : Code) (b : Code) (w : ITy) (c : Bool) (p : BitVec 3) : Statement (.vldg s d a b w c p) := by
  intro w h; cases h; have := flag_le s; have := d.isLt; have := a.isLt; have := b.isLt; have := iTy_code w; have := flag_le c; have := p.isLt; omega

theorem vsts (s : Bool) (d : Code) (a : Code) (b : Code) (w : ITy) (c : Bool) (p : BitVec 3) : Statement (.vsts s d a b w c p) := by
  intro w h; cases h; have := flag_le s; have := d.isLt; have := a.isLt; have := b.isLt; have := iTy_code w; have := flag_le c; have := p.isLt; omega

theorem vldb (s : Bool) (d : Code) (a : Code) (b : Code) (w : ITy) (p : BitVec 3) : Statement (.vldb s d a b w p) := by
  intro w h; cases h; have := flag_le s; have := d.isLt; have := a.isLt; have := b.isLt; have := iTy_code w; have := p.isLt; omega

theorem zpop (s : Bool) (d : Code) (a : Code) (p : BitVec 3) : Statement (.zpop s d a p) := by
  intro w h; cases h; have := flag_le s; have := d.isLt; have := a.isLt; have := p.isLt; omega

theorem zpopRelease (x0 : Nat) (x1 : Nat) : Statement (.zpopRelease x0 x1) :=
  fun _ h => by cases h

theorem vchkA (s : Bool) (d : Code) (a : Code) (b : Code) (p : BitVec 3) : Statement (.vchkA s d a b p) := by
  intro w h; cases h; have := flag_le s; have := d.isLt; have := a.isLt; have := b.isLt; have := p.isLt; omega

theorem vldy (s : Bool) (d : Code) (a : Code) (b : Code) (y : BitVec 4) : Statement (.vldy s d a b y) := by
  intro w h; cases h; have := flag_le s; have := d.isLt; have := a.isLt; have := b.isLt; have := y.isLt; omega

theorem vsty (s : Bool) (d : Code) (a : Code) (b : Code) (y : BitVec 4) (z : Bool) : Statement (.vsty s d a b y z) := by
  intro w h; cases h; have := flag_le s; have := d.isLt; have := a.isLt; have := b.isLt; have := y.isLt; have := flag_le z; omega

theorem atom (s : Bool) (d : Code) (a : Code) (b : Code) (c : Scope) (o : AtomOp) : Statement (.atom s d a b c o) := by
  intro w h; cases h; have := flag_le s; have := d.isLt; have := a.isLt; have := b.isLt; have := scope_code c; have := atomOp_code o; omega

theorem vatom (s : Bool) (d : Code) (a : Code) (b : Code) (o : VAtomOp) (p : BitVec 3) : Statement (.vatom s d a b o p) := by
  intro w h; cases h; have := flag_le s; have := d.isLt; have := a.isLt; have := b.isLt; have := vAtomOp_code o; have := p.isLt; omega

theorem accAlloc (s : Bool) (d : Code) (a : Code) (b : Code) : Statement (.accAlloc s d a b) := by
  intro w h; cases h; have := flag_le s; have := d.isLt; have := a.isLt; have := b.isLt; omega

theorem accAllocT (s : Bool) (d : Code) (a : Code) : Statement (.accAllocT s d a) := by
  intro w h; cases h; have := flag_le s; have := d.isLt; have := a.isLt; omega

theorem accFree (s : Bool) (a : Code) (b : Code) : Statement (.accFree s a b) := by
  intro w h; cases h; have := flag_le s; have := a.isLt; have := b.isLt; omega

theorem accFreeRelease (x0 : Nat) (x1 : Nat) : Statement (.accFreeRelease x0 x1) :=
  fun _ h => by cases h

theorem accZero (s : Bool) (d : Code) : Statement (.accZero s d) := by
  intro w h; cases h; have := flag_le s; have := d.isLt; omega

theorem accRd (s : Bool) (d : Code) (a : Code) (b : Code) : Statement (.accRd s d a b) := by
  intro w h; cases h; have := flag_le s; have := d.isLt; have := a.isLt; have := b.isLt; omega

theorem accWr (s : Bool) (d : Code) (a : Code) (b : Code) : Statement (.accWr s d a b) := by
  intro w h; cases h; have := flag_le s; have := d.isLt; have := a.isLt; have := b.isLt; omega

theorem mma (s : Bool) (d : Code) (a : Code) (b : Code) (f : MmaFmt) (x : Bool) (y : Bool) (z : Bool) : Statement (.mma s d a b f x y z) := by
  intro w h; cases h; have := flag_le s; have := d.isLt; have := a.isLt; have := b.isLt; have := mmaFmt_code f; have := flag_le x; have := flag_le y; have := flag_le z; omega

theorem mmaSp (s : Bool) (d : Code) (a : Code) (b : Code) (f : SpFmt) (q : BitVec 3) (k : Bool) : Statement (.mmaSp s d a b f q k) := by
  intro w h; cases h; have := flag_le s; have := d.isLt; have := a.isLt; have := b.isLt; have := spFmt_code f; have := q.isLt; have := flag_le k; omega

theorem mmaT3 (s : Bool) (d : Code) (a : Code) (b : Code) (z : Bool) (k : Bool) : Statement (.mmaT3 s d a b z k) := by
  intro w h; cases h; have := flag_le s; have := d.isLt; have := a.isLt; have := b.isLt; have := flag_le z; have := flag_le k; omega

theorem mmaX (s : Bool) (d : Code) (a : Code) (b : Code) (f : XFmt) (x : Bool) (y : Bool) (z : Bool) : Statement (.mmaX s d a b f x y z) := by
  intro w h; cases h; have := flag_le s; have := d.isLt; have := a.isLt; have := b.isLt; have := xFmt_code f; have := flag_le x; have := flag_le y; have := flag_le z; omega

theorem scl (s : Bool) (a : Code) (b : Code) : Statement (.scl s a b) := by
  intro w h; cases h; have := flag_le s; have := a.isLt; have := b.isLt; omega

theorem selLd (s : Bool) (d : Code) (i : BitVec 18) : Statement (.selLd s d i) := by
  intro w h; cases h; have := flag_le s; have := d.isLt; have := i.isLt; omega

theorem rdesc (s : Bool) (d : Code) (a : Code) (b : Code) : Statement (.rdesc s d a b) := by
  intro w h; cases h; have := flag_le s; have := d.isLt; have := a.isLt; have := b.isLt; omega

theorem rpop (s : Bool) (d : Code) : Statement (.rpop s d) := by
  intro w h; cases h; have := flag_le s; have := d.isLt; omega

theorem rstat (s : Bool) (d : Code) (a : Code) : Statement (.rstat s d a) := by
  intro w h; cases h; have := flag_le s; have := d.isLt; have := a.isLt; omega

theorem zdesc (s : Bool) (d : Code) (a : Code) (b : Code) : Statement (.zdesc s d a b) := by
  intro w h; cases h; have := flag_le s; have := d.isLt; have := a.isLt; have := b.isLt; omega

theorem wb (s : Bool) (d : Code) (a : Code) (b : Code) (f : WbFmt) (p : Bool) (r : PruneKind) : Statement (.wb s d a b f p r) := by
  intro w h; cases h; have := flag_le s; have := d.isLt; have := a.isLt; have := b.isLt; have := wbFmt_code f; have := flag_le p; have := pruneKind_code r; omega

theorem arrayOperationFinish (x0 : Nat) (x1 : Nat) : Statement (.arrayOperationFinish x0 x1) :=
  fun _ h => by cases h

theorem cpy (s : Bool) (a : Code) (b : Code) (k : Bool) : Statement (.cpy s a b k) := by
  intro w h; cases h; have := flag_le s; have := a.isLt; have := b.isLt; have := flag_le k; omega

theorem cpyMm (s : Bool) (d : Code) (a : Code) (b : Code) (k : Bool) : Statement (.cpyMm s d a b k) := by
  intro w h; cases h; have := flag_le s; have := d.isLt; have := a.isLt; have := b.isLt; have := flag_le k; omega

theorem cpyb (s : Bool) (a : Code) (b : Code) (k : Bool) : Statement (.cpyb s a b k) := by
  intro w h; cases h; have := flag_le s; have := a.isLt; have := b.isLt; have := flag_le k; omega

theorem coll (s : Bool) (a : Code) (b : Code) (k : Bool) : Statement (.coll s a b k) := by
  intro w h; cases h; have := flag_le s; have := a.isLt; have := b.isLt; have := flag_le k; omega

theorem drain (s : Bool) (k : Bool) : Statement (.drain s k) := by
  intro w h; cases h; have := flag_le s; have := flag_le k; omega

theorem drainComplete (x0 : Nat) (x1 : Nat) : Statement (.drainComplete x0 x1) :=
  fun _ h => by cases h

theorem pub (s : Bool) (a : Code) : Statement (.pub s a) := by
  intro w h; cases h; have := flag_le s; have := a.isLt; omega

theorem pubComplete (x0 : Nat) (x1 : Nat) : Statement (.pubComplete x0 x1) :=
  fun _ h => by cases h

theorem ecan (s : Bool) (a : Code) (k : Bool) : Statement (.ecan s a k) := by
  intro w h; cases h; have := flag_le s; have := a.isLt; have := flag_le k; omega

theorem estat (s : Bool) (d : Code) (k : Bool) : Statement (.estat s d k) := by
  intro w h; cases h; have := flag_le s; have := d.isLt; have := flag_le k; omega

theorem sctr (s : Bool) (d : Code) (a : Code) (b : Code) (v : Bool) : Statement (.sctr s d a b v) := by
  intro w h; cases h; have := flag_le s; have := d.isLt; have := a.isLt; have := b.isLt; have := flag_le v; omega

theorem yidx (s : Bool) (d : Code) (a : Code) (y : BitVec 4) : Statement (.yidx s d a y) := by
  intro w h; cases h; have := flag_le s; have := d.isLt; have := a.isLt; have := y.isLt; omega

theorem ychk (s : Bool) (d : Code) (a : Code) (y : BitVec 4) : Statement (.ychk s d a y) := by
  intro w h; cases h; have := flag_le s; have := d.isLt; have := a.isLt; have := y.isLt; omega

theorem fwait (s : Bool) (d : Code) (a : Code) (i : BitVec 12) : Statement (.fwait s d a i) := by
  intro w h; cases h; have := flag_le s; have := d.isLt; have := a.isLt; have := i.isLt; omega

theorem fwaitSatisfied (x0 : Nat) (x1 : Nat) : Statement (.fwaitSatisfied x0 x1) :=
  fun _ h => by cases h

theorem fpost (s : Bool) (d : Code) (a : Code) (i : BitVec 12) : Statement (.fpost s d a i) := by
  intro w h; cases h; have := flag_le s; have := d.isLt; have := a.isLt; have := i.isLt; omega

theorem fpostr (s : Bool) (d : Code) (a : Code) (b : Code) : Statement (.fpostr s d a b) := by
  intro w h; cases h; have := flag_le s; have := d.isLt; have := a.isLt; have := b.isLt; omega

theorem remotePostArrival (x0 : Nat) (x1 : Nat) : Statement (.remotePostArrival x0 x1) :=
  fun _ h => by cases h

theorem barInit (s : Bool) (a : Code) (b : Code) : Statement (.barInit s a b) := by
  intro w h; cases h; have := flag_le s; have := a.isLt; have := b.isLt; omega

theorem barArrive (s : Bool) (d : Code) (a : Code) (b : Code) : Statement (.barArrive s d a b) := by
  intro w h; cases h; have := flag_le s; have := d.isLt; have := a.isLt; have := b.isLt; omega

theorem barExpect (s : Bool) (d : Code) (a : Code) (b : Code) : Statement (.barExpect s d a b) := by
  intro w h; cases h; have := flag_le s; have := d.isLt; have := a.isLt; have := b.isLt; omega

theorem barWait (s : Bool) (a : Code) (b : Code) : Statement (.barWait s a b) := by
  intro w h; cases h; have := flag_le s; have := a.isLt; have := b.isLt; omega

theorem barWaitSatisfied (x0 : Nat) (x1 : Nat) : Statement (.barWaitSatisfied x0 x1) :=
  fun _ h => by cases h

theorem barTest (s : Bool) (d : Code) (a : Code) (b : Code) : Statement (.barTest s d a b) := by
  intro w h; cases h; have := flag_le s; have := d.isLt; have := a.isLt; have := b.isLt; omega

theorem slvCfg (s : Bool) (d : Code) (a : Code) (b : Code) : Statement (.slvCfg s d a b) := by
  intro w h; cases h; have := flag_le s; have := d.isLt; have := a.isLt; have := b.isLt; omega

theorem slvCfgStoreFree (x0 : Nat) (x1 : Nat) : Statement (.slvCfgStoreFree x0 x1) :=
  fun _ h => by cases h

theorem slvBeg (s : Bool) : Statement (.slvBeg s) := by
  intro w h; cases h; have := flag_le s; omega

theorem slvEnd (s : Bool) (d : Code) (n : Bool) : Statement (.slvEnd s d n) := by
  intro w h; cases h; have := flag_le s; have := d.isLt; have := flag_le n; omega

theorem gangRootsComplete (x0 : Nat) : Statement (.gangRootsComplete x0) :=
  fun _ h => by cases h

theorem slvNorm (s : Bool) (d : Code) (a : Code) : Statement (.slvNorm s d a) := by
  intro w h; cases h; have := flag_le s; have := d.isLt; have := a.isLt; omega

theorem slvHist (s : Bool) (d : Code) (a : Code) (b : Code) : Statement (.slvHist s d a b) := by
  intro w h; cases h; have := flag_le s; have := d.isLt; have := a.isLt; have := b.isLt; omega

theorem slvAbort (s : Bool) : Statement (.slvAbort s) := by
  intro w h; cases h; have := flag_le s; omega

theorem fence (s : Bool) (k : FenceKind) (c : Scope) : Statement (.fence s k c) := by
  intro w h; cases h; have := flag_le s; have := fenceKind_code k; have := scope_code c; omega

theorem ldAcq (s : Bool) (d : Code) (a : Code) (b : Code) (w : Width) (c : Scope) : Statement (.ldAcq s d a b w c) := by
  intro w h; cases h; have := flag_le s; have := d.isLt; have := a.isLt; have := b.isLt; have := width_code w; have := scope_code c; omega

theorem stRel (s : Bool) (d : Code) (a : Code) (b : Code) (w : ITy) (c : Scope) : Statement (.stRel s d a b w c) := by
  intro w h; cases h; have := flag_le s; have := d.isLt; have := a.isLt; have := b.isLt; have := iTy_code w; have := scope_code c; omega

theorem cwait (s : Bool) (a : Code) (i : BitVec 12) : Statement (.cwait s a i) := by
  intro w h; cases h; have := flag_le s; have := a.isLt; have := i.isLt; omega

theorem cwaitRelease (x0 : Nat) (x1 : Nat) : Statement (.cwaitRelease x0 x1) :=
  fun _ h => by cases h

theorem lnch (s : Bool) (a : Code) (b : Code) : Statement (.lnch s a b) := by
  intro w h; cases h; have := flag_le s; have := a.isLt; have := b.isLt; omega

theorem lnchQueueRoom (x0 : Nat) (x1 : Nat) : Statement (.lnchQueueRoom x0 x1) :=
  fun _ h => by cases h

theorem trap (s : Bool) (k : BitVec 18) : Statement (.trap s k) := by
  intro w h; cases h; have := flag_le s; have := k.isLt; omega

theorem rfe (s : Bool) : Statement (.rfe s) := by
  intro w h; cases h; have := flag_le s; omega

theorem ctxSave (s : Bool) (a : Code) : Statement (.ctxSave s a) := by
  intro w h; cases h; have := flag_le s; have := a.isLt; omega

theorem ctxLoad (s : Bool) (a : Code) : Statement (.ctxLoad s a) := by
  intro w h; cases h; have := flag_le s; have := a.isLt; omega

theorem ctxLoadNew (s : Bool) (a : Code) (b : Code) : Statement (.ctxLoadNew s a b) := by
  intro w h; cases h; have := flag_le s; have := a.isLt; have := b.isLt; omega

theorem crRd (s : Bool) (d : Code) (n : BitVec 12) : Statement (.crRd s d n) := by
  intro w h; cases h; have := flag_le s; have := d.isLt; have := n.isLt; omega

theorem crWr (s : Bool) (d : Code) (n : BitVec 12) : Statement (.crWr s d n) := by
  intro w h; cases h; have := flag_le s; have := d.isLt; have := n.isLt; omega

theorem controlRegisterWrite (x0 : Party) (x1 : BitVec 12) (x2 : BitVec 64) : Statement (.controlRegisterWrite x0 x1 x2) :=
  fun _ h => by cases h

theorem tlbInv (s : Bool) (a : Code) (b : Code) : Statement (.tlbInv s a b) := by
  intro w h; cases h; have := flag_le s; have := a.isLt; have := b.isLt; omega

theorem tlbInvAsid (s : Bool) : Statement (.tlbInvAsid s) := by
  intro w h; cases h; have := flag_le s; omega

theorem tlbInvAny (s : Bool) (a : Code) (b : Code) : Statement (.tlbInvAny s a b) := by
  intro w h; cases h; have := flag_le s; have := a.isLt; have := b.isLt; omega

theorem tlbInvAll (s : Bool) : Statement (.tlbInvAll s) := by
  intro w h; cases h; have := flag_le s; omega

theorem tlbSync (s : Bool) : Statement (.tlbSync s) := by
  intro w h; cases h; have := flag_le s; omega

theorem ctrRd (s : Bool) (d : Code) (a : Code) (c : Bool) : Statement (.ctrRd s d a c) := by
  intro w h; cases h; have := flag_le s; have := d.isLt; have := a.isLt; have := flag_le c; omega

theorem xltInval (s : Bool) (a : Code) (b : Code) : Statement (.xltInval s a b) := by
  intro w h; cases h; have := flag_le s; have := a.isLt; have := b.isLt; omega

theorem xltPin (s : Bool) (a : Code) (b : Code) : Statement (.xltPin s a b) := by
  intro w h; cases h; have := flag_le s; have := a.isLt; have := b.isLt; omega

theorem xltUnpin (s : Bool) (a : Code) (b : Code) : Statement (.xltUnpin s a b) := by
  intro w h; cases h; have := flag_le s; have := a.isLt; have := b.isLt; omega

theorem xltHint (s : Bool) (a : Code) (b : Code) (m : Tier) : Statement (.xltHint s a b m) := by
  intro w h; cases h; have := flag_le s; have := a.isLt; have := b.isLt; have := tier_code m; omega

theorem mcLd (s : Bool) (a : Code) : Statement (.mcLd s a) := by
  intro w h; cases h; have := flag_le s; have := a.isLt; omega

theorem microcodeSlot (s : Bool) (e : BitVec 4) (d : Code) (a : Code) (b : Code) (f : BitVec 6) : Statement (.microcodeSlot s e d a b f) := by
  intro w h; cases h; have := flag_le s; have := e.isLt; have := d.isLt; have := a.isLt; have := b.isLt; have := f.isLt; omega

theorem tier1Promotion (x0 : Nat) (x1 : BitVec 64) : Statement (.tier1Promotion x0 x1) :=
  fun _ h => by cases h

theorem atomCommit (x0 : Nat) : Statement (.atomCommit x0) :=
  fun _ h => by cases h

theorem atomConflictDiscard (x0 : Nat) : Statement (.atomConflictDiscard x0) :=
  fun _ h => by cases h

theorem quantumExpiry (x0 : Nat) : Statement (.quantumExpiry x0) :=
  fun _ h => by cases h

theorem waitTimeout (x0 : Nat) (x1 : Nat) : Statement (.waitTimeout x0 x1) :=
  fun _ h => by cases h

theorem csmodeWrite (x0 : Party) (x1 : BitVec 64) : Statement (.csmodeWrite x0 x1) :=
  fun _ h => by cases h

theorem evcntWrite (x0 : Party) (x1 : BitVec 64) : Statement (.evcntWrite x0 x1) :=
  fun _ h => by cases h

theorem formatWindowEnable (x0 : Party) (x1 : Nat) (x2 : BitVec 64) : Statement (.formatWindowEnable x0 x1 x2) :=
  fun _ h => by cases h

theorem formatWindowDisable (x0 : Party) (x1 : Nat) (x2 : BitVec 64) : Statement (.formatWindowDisable x0 x1 x2) :=
  fun _ h => by cases h

theorem publishEntryEnable (x0 : Party) (x1 : Nat) (x2 : BitVec 64) : Statement (.publishEntryEnable x0 x1 x2) :=
  fun _ h => by cases h

theorem fqrdWrite (x0 : Party) (x1 : BitVec 64) : Statement (.fqrdWrite x0 x1) :=
  fun _ h => by cases h

theorem faultQueuePost : Statement (.faultQueuePost) :=
  fun _ h => by cases h

theorem replayResume (x0 : Nat) (x1 : Nat) (x2 : Nat) : Statement (.replayResume x0 x1 x2) :=
  fun _ h => by cases h

theorem replayDeliver (x0 : Nat) (x1 : Nat) (x2 : Nat) : Statement (.replayDeliver x0 x1 x2) :=
  fun _ h => by cases h

theorem replayTerminate (x0 : Nat) (x1 : Nat) (x2 : Nat) : Statement (.replayTerminate x0 x1 x2) :=
  fun _ h => by cases h

theorem preemptRequest (x0 : Nat) (x1 : Nat) (x2 : Bool) : Statement (.preemptRequest x0 x1 x2) :=
  fun _ h => by cases h

theorem preemptSave (x0 : Nat) (x1 : Nat) : Statement (.preemptSave x0 x1) :=
  fun _ h => by cases h

theorem contextReload (x0 : Nat) : Statement (.contextReload x0) :=
  fun _ h => by cases h

theorem xltctlWrite (x0 : Party) (x1 : BitVec 64) : Statement (.xltctlWrite x0 x1) :=
  fun _ h => by cases h

theorem queueWridxWrite (x0 : Nat) (x1 : BitVec 64) : Statement (.queueWridxWrite x0 x1) :=
  fun _ h => by cases h

theorem packetTake (x0 : Nat) (x1 : Nat) : Statement (.packetTake x0 x1) :=
  fun _ h => by cases h

theorem groupAdmit (x0 : Nat) : Statement (.groupAdmit x0) :=
  fun _ h => by cases h

theorem groupStart (x0 : Nat) (x1 : List Nat) (x2 : List Nat) : Statement (.groupStart x0 x1 x2) :=
  fun _ h => by cases h

theorem groupSteal (x0 : Nat) (x1 : Nat) : Statement (.groupSteal x0 x1) :=
  fun _ h => by cases h

theorem groupRelease (x0 : Nat) : Statement (.groupRelease x0) :=
  fun _ h => by cases h

theorem launchComplete (x0 : Nat) : Statement (.launchComplete x0) :=
  fun _ h => by cases h

theorem graphMemberReady (x0 : Nat) : Statement (.graphMemberReady x0) :=
  fun _ h => by cases h

theorem cadencedStart (x0 : Nat) : Statement (.cadencedStart x0) :=
  fun _ h => by cases h

theorem budgetPublish (x0 : Nat) (x1 : BitVec 16) : Statement (.budgetPublish x0 x1) :=
  fun _ h => by cases h

theorem engineCommandStart (x0 : Nat) (x1 : Nat) : Statement (.engineCommandStart x0 x1) :=
  fun _ h => by cases h

theorem engineQueueRoom (x0 : Nat) (x1 : Nat) : Statement (.engineQueueRoom x0 x1) :=
  fun _ h => by cases h

theorem engineBodyLanded (x0 : Nat) (x1 : Nat) : Statement (.engineBodyLanded x0 x1) :=
  fun _ h => by cases h

theorem engineWaitRelease (x0 : Nat) (x1 : Nat) : Statement (.engineWaitRelease x0 x1) :=
  fun _ h => by cases h

theorem collectiveProceed (x0 : Nat) (x1 : Nat) (x2 : BitVec 32) : Statement (.collectiveProceed x0 x1 x2) :=
  fun _ h => by cases h

theorem stitchTableLoad : Statement (.stitchTableLoad) :=
  fun _ h => by cases h

theorem stitchTableDefault : Statement (.stitchTableDefault) :=
  fun _ h => by cases h

theorem stitchTableSwitch : Statement (.stitchTableSwitch) :=
  fun _ h => by cases h

theorem packetEscape (x0 : Nat) (x1 : Nat) : Statement (.packetEscape x0 x1) :=
  fun _ h => by cases h

theorem flitReceive (x0 : Nat) (x1 : Flit) : Statement (.flitReceive x0 x1) :=
  fun _ h => by cases h

theorem linkRetrain (x0 : Nat) : Statement (.linkRetrain x0) :=
  fun _ h => by cases h

theorem peerAnswer (x0 : Nat) (x1 : BitVec 64) : Statement (.peerAnswer x0 x1) :=
  fun _ h => by cases h

theorem peerAccessTimeout (x0 : Nat) : Statement (.peerAccessTimeout x0) :=
  fun _ h => by cases h

theorem cgctlWrite (x0 : Party) (x1 : BitVec 64) : Statement (.cgctlWrite x0 x1) :=
  fun _ h => by cases h

theorem cadenceRemeasure (x0 : Nat) (x1 : Nat) (x2 : Nat) (x3 : Nat) : Statement (.cadenceRemeasure x0 x1 x2 x3) :=
  fun _ h => by cases h

theorem bubbleNotice (x0 : BitVec 64) (x1 : Nat) : Statement (.bubbleNotice x0 x1) :=
  fun _ h => by cases h

theorem wholeDeviceBubble (x0 : Nat) : Statement (.wholeDeviceBubble x0) :=
  fun _ h => by cases h

theorem hostBar0Access (x0 : Bool) (x1 : Nat) (x2 : Nat) (x3 : BitVec 64) : Statement (.hostBar0Access x0 x1 x2 x3) :=
  fun _ h => by cases h

theorem hostMemoryAccess (x0 : Bool) (x1 : Nat) (x2 : Nat) (x3 : BitVec 64) : Statement (.hostMemoryAccess x0 x1 x2 x3) :=
  fun _ h => by cases h

theorem noticeQueuePost : Statement (.noticeQueuePost) :=
  fun _ h => by cases h

theorem hostInvalidate (x0 : BitVec 64) : Statement (.hostInvalidate x0) :=
  fun _ h => by cases h

theorem hostInvalidateDone : Statement (.hostInvalidateDone) :=
  fun _ h => by cases h

theorem attestationRequest : Statement (.attestationRequest) :=
  fun _ h => by cases h

theorem attestationDone : Statement (.attestationDone) :=
  fun _ h => by cases h

theorem coldReset (x0 : BootInput) : Statement (.coldReset x0) :=
  fun _ h => by cases h

theorem functionLevelReset : Statement (.functionLevelReset) :=
  fun _ h => by cases h

theorem thermalExcursion (x0 : Nat) : Statement (.thermalExcursion x0) :=
  fun _ h => by cases h

theorem thermalStop (x0 : Nat) : Statement (.thermalStop x0) :=
  fun _ h => by cases h

theorem thermalResume (x0 : Nat) : Statement (.thermalResume x0) :=
  fun _ h => by cases h

theorem unitFenceEffect (x0 : Nat) (x1 : Nat) : Statement (.unitFenceEffect x0 x1) :=
  fun _ h => by cases h

theorem hbmScrub : Statement (.hbmScrub) :=
  fun _ h => by cases h

theorem lifeCounterFlush : Statement (.lifeCounterFlush) :=
  fun _ h => by cases h

theorem orderlyShutdown : Statement (.orderlyShutdown) :=
  fun _ h => by cases h

theorem linkTrainingEnd (x0 : Nat) : Statement (.linkTrainingEnd x0) :=
  fun _ h => by cases h

theorem softError (x0 : ErrTarget) (x1 : Bool) : Statement (.softError x0 x1) :=
  fun _ h => by cases h

theorem powerLoss : Statement (.powerLoss) :=
  fun _ h => by cases h

theorem hostApertureAnswer (x0 : Nat) (x1 : BitVec 64) : Statement (.hostApertureAnswer x0 x1) :=
  fun _ h => by cases h

end Sys2Proof.Laws.Word
end

