-- ==== Sys2Proof/Tests/Slice0.lean ====
section
/-! SUPPORT. Tests: words written out from the encoding tables of the spec, ill-formed instructions that the check refuses, steps of
single instructions with results from the spec, and for every statement with hypotheses a state and operands that meet them. -/

-- One theorem after the other: many at once need more threads than a small machine has.
set_option Elab.async false

namespace Sys2Proof.Tests

open Sys2Proof Sys2Proof.Machine

-- Decoding (R30 to R47). ------------------------------------------------------------------------------------------

/-- Each word decodes to its instruction. -/
def decodes (l : List (Nat × Instr)) : Bool := l.all fun e => match decode e.1 with | .ok i => decide (i = e.2) | .error _ => false

theorem test_decode_integer1 : decodes [
   (0x000C1080, .add false 3 1 2),
   (0x000C1081, .sub false 3 1 2),
   (0x000C1082, .mul false 3 1 2),
   (0x000C1083, .mulh false 3 1 2),
   (0x000C1084, .mulhn false 3 1 2),
   (0x000C1085, .mad false 3 1 2),
   (0x000C1086, .div false 3 1 2),
   (0x000C1087, .divn false 3 1 2),
   (0x000C1088, .rem false 3 1 2),
   (0x000C1089, .remn false 3 1 2),
   (0x000C108A, .and false 3 1 2),
   (0x000C108B, .or false 3 1 2)] = true := by decide

theorem test_decode_integer2 : decodes [
   (0x000C108C, .xor false 3 1 2),
   (0x000C108D, .andn false 3 1 2),
   (0x000C108E, .shl false 3 1 2),
   (0x000C108F, .shr false 3 1 2),
   (0x000C1090, .sha false 3 1 2),
   (0x000C1091, .rot false 3 1 2),
   (0x000C1095, .min false 3 1 2),
   (0x000C1096, .max false 3 1 2),
   (0x000C1097, .minn false 3 1 2),
   (0x000C1098, .maxn false 3 1 2),
   (0x800C1E12, .clz true 3 1),
   (0x800C1E13, .ctz true 3 1)] = true := by decide

theorem test_decode_integer3 : decodes [
   (0x800C1E14, .popc true 3 1),
   (0x800C1E19, .mov true 3 1),
   (0x000C109A, .leaRrScale12 false 3 1 2 false),
   (0x000C109B, .leaRrScale12 false 3 1 2 true),
   (0x000C109C, .leaRrScale48 false 3 1 2 false),
   (0x000C109D, .leaRrScale48 false 3 1 2 true),
   (0x01081082, .cmp false 2 1 2 .set .lt),
   (0x011C10AA, .cmp false 7 1 2 .disj .tst),
   (0x020C108D, .sel false 3 1 2 true 5),
   (0x030C1FC0, .ext false 3 1 63 0),
   (0x040C1107, .extn false 3 1 4 7),
   (0x050C103F, .ins false 3 1 0 63)] = true := by decide

theorem test_decode_integer4 : decodes [
   (0x060F8006, .wid false 3 6),
   (0x070C1FF8, .leaRi false 3 1 (-8)),
   (0x080C17FF, .addi false 3 1 2047),
   (0x090C17FF, .andi false 3 1 2047),
   (0x0A0C17FF, .ori false 3 1 2047),
   (0x0B0C17FF, .xori false 3 1 2047),
   (0x0CF41FFF, .cmpi false .gen 5 1 (-1)),
   (0x0D0C103F, .shli false 3 1 63),
   (0x0D0C107F, .shri false 3 1 63),
   (0x0D0C1081, .shai false 3 1 1),
   (0x0E0E0000, .li false 3 (-131072)),
   (0x0F0FFFFF, .lih false 3 262143)] = true := by decide

theorem test_decode_control1 : decodes [
   (0x1043FFF4, .brpLabel false 2 (-12)),
   (0x11409000, .brpReg false 2 9),
   (0x924C0002, .go true 2 3 .ifClear),
   (0x12E00000, .go false 7 0 .always),
   (0x13409000, .call false 2 9),
   (0x94009000, .ret true 9),
   (0x15007003, .lp false 7 3),
   (0x96000000, .exit true),
   (0x97000000, .nop true),
   (0x1803FFFF, .brk false 262143)] = true := by decide

theorem test_decode_vector1 : decodes [
   (0x200C10BD, .vadd false 3 1 2 .f64 5),
   (0x210C10BD, .vsub false 3 1 2 .f64 5),
   (0x220C10BD, .vmul false 3 1 2 .f64 5),
   (0x280C10BD, .vmin false 3 1 2 .f64 5),
   (0x290C10BD, .vmax false 3 1 2 .f64 5),
   (0x230C10AD, .vaddFtz false 3 1 2 .bf16 5),
   (0x240C10AD, .vsubFtz false 3 1 2 .bf16 5),
   (0x250C10AD, .vmulFtz false 3 1 2 .bf16 5),
   (0x260C10AD, .vfma false 3 1 2 .bf16 5),
   (0x270C10AD, .vfnma false 3 1 2 .bf16 5),
   (0x230C108D, .vaddSat false 3 1 2 .i16 5),
   (0x240C108D, .vsubSat false 3 1 2 .i16 5)] = true := by decide

theorem test_decode_vector2 : decodes [
   (0x250C108D, .vmulSat false 3 1 2 .i16 5),
   (0x270C108D, .vsha false 3 1 2 .i16 5),
   (0x2A0C108D, .vminn false 3 1 2 .i16 5),
   (0x2B0C108D, .vshl false 3 1 2 .i16 5),
   (0x260C108D, .vfms false 3 1 2 .bf16 5),
   (0x2A0C10AD, .vmaxn false 3 1 2 .i16 5),
   (0x2B0C10AD, .vshr false 3 1 2 .i16 5),
   (0x2CFC10B7, .vcmp false .le 15 1 2 .f32 7),
   (0x2D0C17A2, .vcvt false 3 1 .i64 .rzSat .f16 2),
   (0x2E0C1940, .vabs false 3 1 .f16 5),
   (0x2E0C1941, .vneg false 3 1 .f16 5),
   (0x2E0C1942, .vnot false 3 1 .f16 5)] = true := by decide

theorem test_decode_vector3 : decodes [
   (0x2E0C1943, .vmov false 3 1 .f16 5),
   (0x2E0C1949, .vbcast false 3 1 .f16 5),
   (0x2E0C194A, .vli false 3 1 .f16 5),
   (0x2E0C194B, .vcompress false 3 1 .f16 5),
   (0x2E0C194C, .vexpand false 3 1 .f16 5),
   (0x2E0C1950, .vredAdd false 3 1 .f16 5),
   (0x2E0C1951, .vredMin false 3 1 .f16 5),
   (0x2E0C1952, .vredMax false 3 1 .f16 5),
   (0x2E0C1958, .vscanAdd false 3 1 .f16 5),
   (0x2E0C1959, .vscanMin false 3 1 .f16 5),
   (0x2E0C195A, .vscanMax false 3 1 .f16 5),
   (0x2E0C1F44, .vrcp false 3 1 .f64 5)] = true := by decide

theorem test_decode_vector4 : decodes [
   (0x2E0C1F45, .vrsqrt false 3 1 .f64 5),
   (0x2E0C1F46, .vsqrt false 3 1 .f64 5),
   (0x2E0C1F47, .vexp2 false 3 1 .f64 5),
   (0x2E0C1F48, .vlog2 false 3 1 .f64 5),
   (0x2E0C1753, .vredMinn false 3 1 .i64 5),
   (0x2E0C1754, .vredMaxn false 3 1 .i64 5),
   (0x2E0C1755, .vredAnd false 3 1 .i64 5),
   (0x2E0C1756, .vredOr false 3 1 .i64 5),
   (0x2E0C1757, .vredXor false 3 1 .i64 5),
   (0x2E0C1D7F, .vcvtFormat false 3 1 .f32 5 .n64Sat true),
   (0x2E0C1D6E, .vcvtFormat false 3 1 .f32 5 .ternary false),
   (0x2F0C1080, .kand false 3 1 2)] = true := by decide

theorem test_decode_vector5 : decodes [
   (0x2F0C1081, .kor false 3 1 2),
   (0x2F0C1082, .kxor false 3 1 2),
   (0x2F0C1085, .vtoc false 3 1 2),
   (0x2F0C1086, .vany false 3 1 2),
   (0x2F0C1087, .vall false 3 1 2),
   (0x2F0C109C, .vand false 3 1 2),
   (0x2F0C109D, .vor false 3 1 2),
   (0x2F0C109E, .vxor false 3 1 2),
   (0x2F0C1E03, .knot false 3 1),
   (0x2F0C1E04, .kpop false 3 1),
   (0x2F0C108B, .vext false 3 1 2 .i64),
   (0x2F0C108C, .vins false 3 1 2 .i8)] = true := by decide

theorem test_decode_vector6 : decodes [
   (0x2F0C1091, .vperm false 3 1 2 .i16),
   (0x2F0C1097, .vclampInt false 3 1 2 .i64),
   (0x2F0C1098, .vclampFp false 3 1 2 .f16),
   (0x2F0C10B7, .vsel false 3 1 2 .i32 7)] = true := by decide

theorem test_decode_memory1 : decodes [
   (0x3014418D, .ldRr false 5 4 6 .i16 1),
   (0x301441BB, .ldA false 5 4 6 .w64 3),
   (0x31144040, .ldRi false 5 4 64),
   (0x32144192, .stRr false 5 4 6 .i32 2),
   (0x33144FF8, .stRi false 5 4 (-8)),
   (0x34144190, .chkA false 5 4 6 .n32 0),
   (0x353C4040, .ydesc false 15 4 64),
   (0x361441B7, .vldRr false 5 4 6 3 7),
   (0x3614419F, .vldA false 5 4 6 1 7),
   (0x37144100, .vldRi false 5 4 256),
   (0x381441A1, .vstRr false 5 4 6 2 1),
   (0x39144F00, .vstRi false 5 4 (-256))] = true := by decide

theorem test_decode_memory2 : decodes [
   (0x3A1441BA, .vldg false 5 4 6 .i64 true 2),
   (0x3B144182, .vsts false 5 4 6 .i8 false 2),
   (0x3C1441A2, .vldb false 5 4 6 .i32 2),
   (0x3C14FE0A, .zpop false 5 15 2),
   (0x3C14419A, .vchkA false 5 4 6 2),
   (0x3D1441A4, .vldy false 5 4 6 9),
   (0x3D1441A7, .vsty false 5 4 6 9 true),
   (0x3E1441B8, .atom false 5 4 6 .system .cas),
   (0x3F1441BB, .vatom false 5 4 6 .xchg 3)] = true := by decide

theorem test_decode_tensor1 : decodes [
   (0x400C1080, .accAlloc false 3 1 2),
   (0x400C1E01, .accAllocT false 3 1),
   (0x40E01082, .accFree false 1 2),
   (0x40FF8E03, .accZero false 63),
   (0x400FE084, .accRd false 3 62 2),
   (0x40F83085, .accWr false 62 3 2),
   (0x4114007D, .mma false 5 0 1 .f64 true false true),
   (0x42140069, .mmaSp false 5 0 1 .i8 4 true),
   (0x43140042, .mmaT3 false 5 0 1 true false),
   (0x44200050, .mmaX false 8 0 1 .e2m1 false false false),
   (0x45E01080, .scl false 1 2),
   (0x461FFFFC, .selLd false 7 (-4))] = true := by decide

theorem test_decode_tensor2 : decodes [
   (0x470C1080, .rdesc false 3 1 2),
   (0x470F8E01, .rpop false 3),
   (0x470CFE02, .rstat false 3 15),
   (0x470C1083, .zdesc false 3 1 2),
   (0x481410BE, .wb false 5 1 2 .f64 true .p4m8),
   (0x48141098, .wb false 5 1 2 .i32 false .p2m4),
   (0x49E01081, .cpy false 1 2 true),
   (0x4A141080, .cpyMm false 5 1 2 false),
   (0x4BE01081, .cpyb false 1 2 true),
   (0x4CE01080, .coll false 1 2 false),
   (0x4DE38E01, .drain false true),
   (0x4DE01E10, .pub false 1)] = true := by decide

theorem test_decode_tensor3 : decodes [
   (0x4DE01E21, .ecan false 1 true),
   (0x4D0F8E30, .estat false 3 false),
   (0x4E141081, .sctr false 5 1 2 true),
   (0x4F0C1E3C, .yidx false 3 1 15),
   (0x4F0C1E3D, .ychk false 3 1 15)] = true := by decide

theorem test_decode_sync1 : decodes [
   (0x507F87FF, .fwait false 31 56 2047),
   (0x517C1000, .fpost false 31 1 0),
   (0x527C1080, .fpostr false 31 1 2),
   (0x53E01080, .barInit false 1 2),
   (0x530C1081, .barArrive false 3 1 2),
   (0x53E01082, .barExpect false 56 1 2),
   (0x53E01083, .barWait false 1 2),
   (0x531C1084, .barTest false 7 1 2),
   (0x540C1080, .slvCfg false 3 1 2),
   (0x54E38E01, .slvBeg false),
   (0x541F8E0A, .slvEnd false 7 true),
   (0x540C1E03, .slvNorm false 3 1)] = true := by decide

theorem test_decode_sync2 : decodes [
   (0x540C1084, .slvHist false 3 1 2),
   (0x54E38E05, .slvAbort false),
   (0x55E38E0B, .fence false .release .system),
   (0x560C1086, .ldAcq false 3 1 2 .i8 .device),
   (0x570C1099, .stRel false 3 1 2 .i64 .cluster),
   (0x58E01005, .cwait false 1 5),
   (0x59E01080, .lnch false 1 2)] = true := by decide

theorem test_decode_system1 : decodes [
   (0x6003FFFF, .trap false 262143),
   (0x61E38E00, .rfe false),
   (0x62E38E00, .ctxSave false 56),
   (0x63E01E00, .ctxLoad false 1),
   (0x63E01081, .ctxLoadNew false 1 2),
   (0x640F8500, .crRd false 3 1280),
   (0x650F8FFF, .crWr false 3 4095),
   (0x66E01080, .tlbInv false 1 2),
   (0x66E38E01, .tlbInvAsid false),
   (0x66E01082, .tlbInvAny false 1 2),
   (0x66E38E03, .tlbInvAll false),
   (0x67E38E00, .tlbSync false)] = true := by decide

theorem test_decode_system2 : decodes [
   (0x68146E01, .ctrRd false 5 6 true),
   (0x69E01080, .xltInval false 1 2),
   (0x6AE01081, .xltPin false 1 2),
   (0x6AE01080, .xltUnpin false 1 2),
   (0x6BE01082, .xltHint false 1 2 .tier1),
   (0x6CE01E00, .mcLd false 1)] = true := by decide

theorem test_decode_microcode1 : decodes [
   (0x7F0C10BF, .microcodeSlot false 15 3 1 2 63)] = true := by decide
-- Words that no instruction has (R34 to R36), and ill-formed instructions. -----------------------------------------

/-- The reason, value and field that a word is refused with. -/
def refused (w : Nat) : Option (Nat × Nat × Nat) := match decode w with | .ok _ => none | .error e => some (e.reason.code, e.value, e.field)

theorem test_refused : [(0x19000000, (1, 0x19, 0)), (0x5A000000, (1, 0x5A, 0)), (0x6D000000, (1, 0x6D, 0)), (0x000C109E, (2, 0x1E, 4)),
    (0x030C1FC1, (2, 1, 4)), (0x000C1092, (3, 2, 3)), (0x96000001, (3, 1, 5)), (0x15007000, (2, 0, 5))].all
    (fun e => refused e.1 == some e.2) = true := by decide

/-- Instructions that the check of well-formedness refuses: one for each check of a slot. -/
theorem test_illFormed_slots : [Instr.ext true 1 2 63 1, .extn true 1 2 32 32, .ins true 1 2 1 63, .wid true 1 7, .go true 0 1 .always,
    .lp true 1 0, .vcvtFormat true 1 2 .f32 0 .n8Sat false, .mmaSp true 1 2 3 .i8 6 false, .wb true 1 2 3 .f32 false .p1m4,
    .fwait true 0 1 2048, .fpost true 0 1 2048, .cwait true 1 2048, .ctxLoadNew true 1 56].all (fun i => !i.wf) = true := by decide

/-- And one for each number of an event. -/
theorem test_illFormed_events : [Instr.fifoStallRelease 512 0, .fifoStallRelease 0 4, .remotePostArrival 512 0, .remotePostArrival 0 512,
    .tier1Promotion 8 0, .atomCommit 512, .formatWindowEnable .host 8 0, .publishEntryEnable .host 64 0, .replayResume 0 0 8,
    .contextReload 512, .queueWridxWrite 131072 0, .packetTake 64 0, .groupSteal 0 64, .budgetPublish 8 0, .engineCommandStart 0 2,
    .linkRetrain 16].all (fun i => !i.wf) = true := by decide

-- Steps of single instructions: results from the rules and the worked examples of the spec. -------------------------

/-- A word run as the first instruction after reset, by a task that `f` has prepared. -/
def run (f : Task → Task) (w : Nat) : Host.Outcome State Fault Refusal := step ((State.reset.withFetchWord 32 w).updTask 0 f)

/-- What an outcome leaves in the task. -/
def left {α : Type} (g : Task → α) (o : Host.Outcome State Fault Refusal) : Option α :=
  match o with
  | .next s => (s.task 0).map g
  | _ => none

/-- A task with two general registers set. -/
def two (x y : W64) (t : Task) : Task := { t with g := (t.g.set 1 x).set 2 y }

theorem test_add_wraps : left (·.gReg 3) (run (two (-1) 2) 0x800C1080) = some 1 := by decide +kernel
theorem test_sub_wraps : left (·.gReg 3) (run (two 1 2) 0x800C1081) = some (-1) := by decide +kernel
theorem test_mulh_signed : left (·.gReg 3) (run (two (-1) 2) 0x800C1083) = some (-1) := by decide +kernel
theorem test_mulhn_unsigned : left (·.gReg 3) (run (two (-1) 2) 0x800C1084) = some 1 := by decide +kernel
theorem test_div_byZero : left (·.gReg 3) (run (two 7 0) 0x800C1086) = some (-1) := by decide +kernel
theorem test_div_mostNegative : left (·.gReg 3) (run (two 0x8000000000000000 (-1)) 0x800C1086) = some 0x8000000000000000 := by decide +kernel
theorem test_rem_byZero : left (·.gReg 3) (run (two 7 0) 0x800C1088) = some 7 := by decide +kernel
theorem test_rem_sign : left (·.gReg 3) (run (two (-7) 2) 0x800C1088) = some (-1) := by decide +kernel
theorem test_sha_sign : left (·.gReg 3) (run (two (-8) 65) 0x800C1090) = some (-4) := by decide +kernel
theorem test_rot_right : left (·.gReg 3) (run (two 1 1) 0x800C1091) = some 0x8000000000000000 := by decide +kernel
theorem test_clz_zero : left (·.gReg 3) (run (two 0 0) 0x800C1E12) = some 64 := by decide +kernel
theorem test_addi_sameRegister : left (·.gReg 4) (run (fun t => { t with g := t.g.set 4 0x7FF8 }) 0x88104008) = some 0x8000 := by decide +kernel
theorem test_li_sign : left (·.gReg 6) (run id 0x8E1BFFFE) = some (-2) := by decide +kernel
theorem test_lih_shifts : left (·.gReg 5) (run (fun t => { t with g := t.g.set 5 0x10000 }) 0x8F140003) = some 0x400000003 := by decide +kernel
theorem test_cmp_signed : left (·.cReg 2) (run (two (-1) 1) 0x81081082) = some true := by decide +kernel
theorem test_coreNumber : left (·.gReg 3) (run id 0x800F9E80) = some 0 := by decide +kernel
theorem test_exit_frees : (match run id 0x96000000 with | .next s => (s.task 0).isNone | _ => false) = true := by decide +kernel
theorem test_nop_goesOn : left (·.pc) (run id 0x97000000) = some 0x3084 := by decide +kernel
theorem test_brp_back : left (fun t => t.tReg 2) (run id 0x9043FFF4) = some { addr := 0x3050, valid := true } := by decide +kernel
theorem test_go_taken : left (·.pc) (run (fun t => { t with c := 8, t := t.t.set 2 { addr := 0x4000, valid := true } }) 0x924C0001) =
    some 0x4000 := by decide +kernel

/-- Code 49 in LPF (R32): *physical-only operand*; the task is parked with cause 0x02 and slot mask 1. -/
theorem test_latch_traps : left (fun t => match t.run with | .parked r _ => r.w0 | _ => 0) (run id 0x800F1080) = some 0x0000000000000102 := by
  decide +kernel

/-- An unassigned OP (R36): *undefined encoding* with reason 1, the OP and field 0. -/
theorem test_unassigned_traps : left (fun t => match t.run with | .parked r _ => (r.w0, r.w3) | _ => (0, 0)) (run id 0x99000000) =
    some (0x101, 0x1900000001) := by decide +kernel

/-- A system slot at task privilege (R46): *privilege*, here with a handler and the reset value of DELEG, which sends it there. -/
theorem test_privilege_handler : left (fun t => (t.pc, t.epc, t.estat, t.trec.w0))
    (run (fun t => { t with tvec := 0x5000, deleg := 0x0007071F0F09037E }) 0xE1E38E00) = some (0x5000, 0x3080, 5, 0x104) := by decide +kernel

/-- The first store of a line, little-endian (R30, R89). -/
theorem test_st_bytes : (match run (fun t => { t with g := (t.g.set 4 0x8000008000).set 5 0x1122334455667788 }) 0xB3144000 with
    | .next s => memBytes s.mem 0x8000 8 | _ => []) = [0x88, 0x77, 0x66, 0x55, 0x44, 0x33, 0x22, 0x11] := by decide +kernel

-- Witnesses: for every statement with hypotheses a state and operands that meet them. -------------------------------

/-- A state in which task `t` of core 0, slot 0, is about to execute the only slot of its bundle. Memory holds page tables that map the
half of the address space from 2^39 on to physical address 0 on. -/
def lone (t : Task) : State :=
  { tasks := [(0, t)], mem := placeMem 0 [],
    bundle := { live := true, addr := 0x3080, next := 0x3084, exposed := t.exposed, words := [0x97000000], code := [0x97000000] } }

theorem lone_alone (t : Task) (h : t.poison = []) : Alone (lone t) true t := ⟨rfl, rfl, rfl, rfl, h, rfl⟩

/-- An exposed task with 15 writes in flight: one more is allowed (R23). -/
def busy : Task :=
  { exposed := true, vcnt := 48, pending := List.replicate 15 { file := .g, reg := 1, mask := 0xFF, val := 0, left := 2 } }

theorem busy_room (n : Nat) (h : n ∈ [3, 4, 5, 6, 8]) : Room busy [n] := fun _ _ => by
  revert n; decide

theorem g47 : DstG 47 ∧ SrcG 47 := ⟨.inl (by decide), .inl (by decide)⟩
theorem g56 : DstG 56 ∧ SrcG 56 := ⟨.inr rfl, .inr (.inl rfl)⟩
theorem g57 : SrcG 57 := .inr (.inr rfl)
theorem v47 : DstV busy 47 ∧ SrcV busy 47 := ⟨.inl (by decide), .inl (by decide)⟩
theorem v57 : SrcV busy 57 := .inr (.inr rfl)
theorem v56 (t : Task) : DstV t 56 ∧ SrcV t 56 := ⟨.inr rfl, .inr (.inl rfl)⟩

theorem witness_IntegerArithmeticResults : ∃ s t st d a b, Alone s st t ∧ DstG d ∧ SrcG a ∧ SrcG b ∧ Room t [3] :=
  ⟨lone busy, busy, true, 47, 56, 57, lone_alone _ rfl, g47.1, g56.2, g57, busy_room 3 (by decide)⟩

theorem witness_ShiftAndImmediateResults : ∃ s t st d a b, Alone s st t ∧ DstG d ∧ SrcG a ∧ SrcG b :=
  ⟨lone busy, busy, true, 56, 47, 57, lone_alone _ rfl, g56.1, g47.2, g57⟩

theorem witness_BitAndFieldResults : ∃ (s : State) (t : Task) (st : Bool) (d a : Code) (p l : BitVec 6) (k : BitVec 12),
    Alone s st t ∧ DstG d ∧ SrcG a ∧ p.toNat + l.toNat + 1 ≤ 64 ∧ k.toNat ≤ 6 :=
  ⟨lone busy, busy, true, 47, 57, 63, 0, 6, lone_alone _ rfl, g47.1, g57, by decide, by decide⟩

theorem witness_ConditionResults : ∃ (s : State) (t : Task) (st : Bool) (d a b : Code), Alone s st t ∧ SrcG a ∧ SrcG b ∧
    d.toNat < 8 ∧ DstG d :=
  ⟨lone busy, busy, true, 7, 57, 47, lone_alone _ rfl, g57, g47.2, by decide, .inl (by decide)⟩

/-- A task with a valid entry `t2`, and one in a loop whose body ends after its bundle. -/
def ready : Task := { t := (Vector.replicate 8 {}).set 2 { addr := 0x3050, valid := true } }
def looping : Task := { ready with loops := [{ start := 0x3080, stop := 0x3084, left := 1 }] }

theorem witness_TransferResults :
    (∃ (s : State) (t : Task) (st : Bool) (g : Code), Alone s st t ∧ SrcG g ∧ (rdG s.cur t g).toNat % 4 = 0) ∧
    (∃ (s : State) (t : Task) (st : Bool) (n : BitVec 3) (g : Code), Alone s st t ∧ t.loops = [] ∧ DstG g ∧ (t.tReg n.toNat).valid = true ∧
      SrcG g ∧ (rdG s.cur t g).toNat % 4 = 0) ∧
    (∃ (s : State) (t : Task) (st : Bool) (n : BitVec 3) (g : Code), Alone s st t ∧ DstG g ∧ SrcG g ∧ t.loops = [] ∧
      (t.tReg n.toNat).valid = false) ∧
    (∃ (s : State) (t : Task) (st : Bool) (n : BitVec 3) (g : Code), Alone s st t ∧ DstG g ∧ SrcG g ∧ t.loops ≠ [] ∧
      (rdG s.cur t g).toNat % 4 = 0 ∧ (t.tReg n.toNat).valid = true) :=
  ⟨⟨lone ready, ready, true, 47, lone_alone _ rfl, g47.2, by decide⟩,
   ⟨lone ready, ready, true, 2, 47, lone_alone _ rfl, rfl, g47.1, by decide, g47.2, by decide⟩,
   ⟨lone ready, ready, true, 7, 47, lone_alone _ rfl, g47.1, g47.2, rfl, by decide⟩,
   ⟨lone looping, looping, true, 2, 47, lone_alone _ rfl, g47.1, g47.2, by decide, by decide, by decide⟩⟩

/-- The code object of `placeMem`, its task, and four slots after its header. -/
def coded : Task := { code := 0x3000, troot := 0x1000, objid := some 0, pc := 0x3080 }

/-- A loop that ends at an address, and tasks at the end of a body inside one or two others. -/
def nestLoop (stop : W64) (left : Nat) : Loop := { start := 0x3080, stop := stop, left := left }
def nested (three : Bool) : Task :=
  { ready with loops := nestLoop 0x3088 3 :: (if three then [nestLoop 0x3084 1] else []) ++ [nestLoop 0x3084 0] }

theorem witness_LoopResults :
    (∃ (s : State) (t : Task) (st : Bool) (g : Code) (n : BitVec 12) (r : Nat × Nat) (stop : W64), Alone s st t ∧ SrcG g ∧ n ≠ 0 ∧
      t.loops.length < 4 ∧ bodyRegion s s.cur t = .ok (.inl (some r)) ∧ bodyEnd s s.cur t r.2 n.toNat s.bundle.next = .ok (.inl (some stop)) ∧
      stop ≠ s.bundle.next ∧ (∀ l, t.loops.getLast? = some l → stop.toNat ≤ l.stop.toNat)) ∧
    (∃ s t st outer ended, Alone s st t ∧ (∀ l ∈ ended, l.stop = s.bundle.next ∧ l.left = 0) ∧ t.loops = outer ++ ended ∧
      (∀ l, outer.getLast? = some l → l.stop ≠ s.bundle.next) ∧ outer ≠ [] ∧ ended ≠ []) ∧
    (∃ s t st outer ended, ∃ m : Loop, Alone s st t ∧ (∀ l ∈ ended, l.stop = s.bundle.next ∧ l.left = 0) ∧ t.loops = outer ++ m :: ended ∧
      m.stop = s.bundle.next ∧ 0 < m.left ∧ outer ≠ [] ∧ ended ≠ []) := by
  have last (f : Bool) : ∀ l ∈ [nestLoop 0x3084 0], l.stop = (lone (nested f)).bundle.next ∧ l.left = 0 := by
    intro l h
    rw [List.mem_singleton] at h
    subst h
    exact ⟨rfl, rfl⟩
  refine ⟨?_, ⟨lone (nested false), _, true, [nestLoop 0x3088 3], [nestLoop 0x3084 0], lone_alone _ rfl, last false, rfl, ?_, nofun, nofun⟩,
    ⟨lone (nested true), _, true, [nestLoop 0x3088 3], [nestLoop 0x3084 0], nestLoop 0x3084 1, lone_alone _ rfl, last true, rfl, rfl, by decide, nofun,
      nofun⟩⟩
  rotate_left
  · intro l h
    cases h
    decide
  let s : State := { lone coded with mem := memPut 0x3084 0x97000000 4 (placeMem 0x95000001 []),
                                     bundle := { (lone coded).bundle with region := some (0x3080, 0x3090) } }
  refine ⟨s, coded, true, 57, 1, (0x3080, 0x3090), 0x3088, ⟨rfl, rfl, rfl, rfl, rfl, rfl⟩, g57, by decide, by decide, rfl, ?_,
    by decide, fun l h => by cases h⟩
  have h : (match bodyEnd s s.cur coded 0x3090 1 s.bundle.next with | .ok (.inl (some x)) => decide (x = 0x3088) | _ => false) = true := by
    decide +kernel
  revert h
  show (match bodyEnd s s.cur coded 0x3090 1 s.bundle.next with | .ok (.inl (some x)) => decide (x = 0x3088) | _ => false) = true →
    bodyEnd s s.cur coded 0x3090 1 s.bundle.next = .ok (.inl (some 0x3088))
  intro h
  split at h
  · simp_all
  · cases h

/-- A task in its handler. -/
def handler : Task := { estat := 5 }

theorem witness_ExitTrapAndReturnResults :
    (∃ s t st, Alone s st t ∧ t.slv.code ≠ .opened ∧ t.slv.code ≠ .looping ∧ ∀ b, b < 64 → t.acc[b]? = some none) ∧
    (∃ s t st, Alone s st t ∧ t.slv.code ≠ .opened ∧ t.slv.code ≠ .looping ∧ t.banks ≠ []) ∧
    (∃ s t st, Alone s st t ∧ t.slv.code = .opened) ∧ (∃ s t st, Alone s st t ∧ t.slv.code = .looping) ∧
    (∃ s t st, ∃ h : Held, Alone s st t ∧ t.sup = true ∧ t.inh = true ∧ t.loops = [] ∧ holdsControl s.bundle = false ∧ t.held = some h) :=
  ⟨⟨lone {}, {}, true, lone_alone _ rfl, by decide, by decide, by decide⟩,
   ⟨lone { acc := (Vector.replicate 64 none).set 63 (some 0) }, _, true, lone_alone _ rfl, by decide, by decide, by decide +kernel⟩,
   ⟨lone { slv := { code := .opened } }, _, true, lone_alone _ rfl, rfl⟩,
   ⟨lone { slv := { code := .looping } }, _, true, lone_alone _ rfl, rfl⟩,
   ⟨{ lone { handler with held := some { pending := [], loops := [] } } with
        bundle := { (lone {}).bundle with words := [0xE1E38E00], code := [0xE1E38E00] } }, _, true, _,
      ⟨rfl, rfl, rfl, rfl, rfl, rfl⟩, by decide, by decide, rfl, by decide, rfl⟩⟩

theorem witness_VectorIntegerResults : ∃ s t st d a b g, Alone s st t ∧ DstV t d ∧ SrcV t a ∧ SrcV t b ∧ SrcG g ∧ Room t [3] ∧ Room t [5] :=
  ⟨lone busy, busy, true, 47, 57, 56, 57, lone_alone _ rfl, v47.1, v57, (v56 _).2, g57, busy_room 3 (by decide), busy_room 5 (by decide)⟩

theorem witness_VectorFloatResults : ∃ s t st d a b g, Alone s st t ∧ DstV t d ∧ SrcV t a ∧ SrcV t b ∧ SrcG g ∧ Room t [3] ∧
    Room t [5] ∧ Room t [8] :=
  ⟨lone busy, busy, true, 56, 47, 57, 57, lone_alone _ rfl, (v56 _).1, v47.2, v57, g57, busy_room 3 (by decide), busy_room 5 (by decide),
    busy_room 8 (by decide)⟩

theorem witness_VectorCompareResults : ∃ s t st a b, Alone s st t ∧ SrcV t a ∧ SrcV t b ∧ Room t [3] :=
  ⟨lone busy, busy, true, 47, 57, lone_alone _ rfl, v47.2, v57, busy_room 3 (by decide)⟩

theorem witness_VectorConversionResults : ∃ s t st d a, ∃ (f g : NarrowFmt) (n : Nat), Alone s st t ∧ DstV t d ∧ SrcV t a ∧ Room t [3] ∧
    narrowBytes f = some n ∧ (g = .e2m1 ∨ g = .e2m1Sat) :=
  ⟨lone busy, busy, true, 47, 56, .n64Sat, .e2m1Sat, 8, lone_alone _ rfl, v47.1, (v56 _).2, busy_room 3 (by decide), rfl, .inr rfl⟩

theorem witness_VectorReductionResults : (∃ s t st d a, Alone s st t ∧ DstV t d ∧ SrcV t a ∧ Room t [6]) ∧
    (∃ (w : ITy) (l : List Nat), (∀ x ∈ l, x < 256 ^ ityBytes w) ∧ l.length = 256 / ityBytes w) :=
  ⟨⟨lone busy, busy, true, 47, 57, lone_alone _ rfl, v47.1, v57, busy_room 6 (by decide)⟩,
   ⟨.i64, List.replicate 32 (2 ^ 64 - 1), by decide, by decide⟩⟩

theorem witness_VectorPermutationResults : ∃ s t st d a b g h c, Alone s st t ∧ DstV t d ∧ SrcV t a ∧ SrcV t b ∧ SrcG g ∧ SrcG h ∧
    Room t [3] ∧ Room t [6] ∧ DstG c :=
  ⟨lone busy, busy, true, 47, 57, 56, 57, 56, 47, lone_alone _ rfl, v47.1, v57, (v56 _).2, g57, g56.2, busy_room 3 (by decide),
    busy_room 6 (by decide), g47.1⟩

theorem witness_PredicateResults :
    (∃ s t st, ∃ d a b g : Code, Alone s st t ∧ d.toNat < 16 ∧ a.toNat < 16 ∧ b.toNat < 16 ∧ DstG g ∧ Room t [3]) ∧
    (∃ s t st, ∃ d a b : Code, Alone s st t ∧ d.toNat < 8 ∧ a.toNat < 16 ∧ b.toNat < 16 ∧ Room t [3] ∧
      (((List.range 256).any fun i => (t.kReg b.toNat).getLsbD i && (t.kReg a.toNat).getLsbD i) = true →
        ((List.range 256).all fun i => !(t.kReg b.toNat).getLsbD i || (t.kReg a.toNat).getLsbD i) = true)) ∧
    (∃ s t st, ∃ d a b : Code, ∃ i j : Nat, Alone s st t ∧ d.toNat < 8 ∧ a.toNat < 16 ∧ b.toNat < 16 ∧ Room t [3] ∧ i < 256 ∧ j < 256 ∧
      (t.kReg b.toNat).getLsbD i = true ∧ (t.kReg a.toNat).getLsbD i = true ∧ (t.kReg b.toNat).getLsbD j = true ∧
      (t.kReg a.toNat).getLsbD j = false ∧ (∀ k, k < i → (t.kReg b.toNat).getLsbD k = true → (t.kReg a.toNat).getLsbD k = false) ∧
      (∀ k, k < j → (t.kReg b.toNat).getLsbD k = true → (t.kReg a.toNat).getLsbD k = true)) :=
  ⟨⟨lone busy, busy, true, 15, 0, 15, 47, lone_alone _ rfl, by decide, by decide, by decide, g47.1, busy_room 3 (by decide)⟩,
   ⟨lone busy, busy, true, 7, 0, 0, lone_alone _ rfl, by decide, by decide, by decide, busy_room 3 (by decide), by decide +kernel⟩,
   ⟨lone { busy with k := (Vector.replicate 16 0).set 1 1 }, _, true, 7, 1, 0, 0, 1, lone_alone _ rfl, by decide, by decide, by decide,
     busy_room 3 (by decide), by decide, by decide, by decide, by decide, by decide, by decide, by decide, by decide⟩⟩

/-- Whether an access succeeds with a result that meets a condition. -/
def okWith {α : Type} (p : α → Bool) : Except TrapInfo α → Bool
  | .ok a => p a
  | .error _ => false

theorem okWith_elim {α : Type} {p : α → Bool} {x : Except TrapInfo α} (h : okWith p x = true) : ∃ a, x = .ok a ∧ p a = true := by
  cases x with
  | ok a => exact ⟨a, rfl, h⟩
  | error _ => cases h

/-- Whether an access has one place, of `n` bytes at `pa`. -/
def onePlace (pa n : Nat) (r : List (Nat × Nat × W64) × List TlbEntry) : Bool :=
  match r.1 with
  | [q] => q.1 == pa && q.2.1 == n
  | _ => false

theorem placed {x : Placed} {pa n : Nat} (h : okWith (onePlace pa n) x = true) : ∃ leaf fills, x = .ok ([(pa, n, leaf)], fills) := by
  obtain ⟨⟨l, f⟩, rfl, h⟩ := okWith_elim h
  rcases l with _ | ⟨⟨p, m, leaf⟩, _ | ⟨_, _⟩⟩ <;> simp_all [onePlace]

theorem plain_lone (t : Task) {pa n : Nat} (h0 : 0 < n) (h : pa + n ≤ 2 ^ 38) : Plain (lone t) pa n := by
  refine ⟨h0, fun i hi => .inl ?_, rfl⟩
  have hu : usableSize (lone t) = 2 ^ 39 := by rw [show usableSize (lone t) = usableSize State.reset from rfl]; decide
  have h1 : pa + i < 2 ^ 39 := by omega
  simp only [regionOf, hu, if_pos h1]

theorem plainRuns_lone (t : Task) {l : List Run3} (h : (l.all fun r => decide (0 < r.2.2.2.1 ∧ r.2.2.1 + r.2.2.2.1 ≤ 2 ^ 38)) = true) :
    PlainRuns (lone t) l := fun r hr => by
  have := List.all_eq_true.mp h r hr
  simp only [decide_eq_true_eq] at this
  exact plain_lone t this.1 this.2

/-- The virtual address of physical address 0x8000, in register 4 of an exposed task with 15 writes in flight; register 5 holds an
address that is no multiple of any size, register 6 one that is not canonical. -/
def mover : Task :=
  { busy with troot := 0x1000, g := (((Vector.replicate 48 0).set 4 0x8000008000).set 5 0x8000008001).set 6 0x0100000000000000,
              y := (Vector.replicate 16 none).set 3 (some 0), z := (Vector.replicate 16 {}).set 15 { base := 0xF000000000, size := 256, present := 256 } }

theorem g4 : SrcG 4 ∧ DstG 4 := ⟨.inl (by decide), .inl (by decide)⟩
theorem mover_alone : Alone (lone mover) true mover := lone_alone _ rfl
theorem mover_room (n : Nat) (h : n ∈ [3, 4, 5, 6, 8]) : Room mover [n] := busy_room n h
theorem mover_soon (n : Nat) (h : n ≤ 1) : Room mover [n] := fun _ h' => by simp at h'; omega
theorem moverV : DstV mover 47 ∧ SrcV mover 47 := ⟨.inl (by decide), .inl (by decide)⟩

theorem witness_ScalarMemoryResults :
    (∃ s t st d a b w x pa leaf fills, Alone s st t ∧ Idle t ∧ DstG d ∧ SrcG a ∧ SrcG b ∧ Room t [4] ∧ Plain s pa (widthBytes w) ∧ InOrder s t [leaf] ∧
      scalarPlace s s.cur t .read (widthBytes w)
        (BitVec.ofNat 64 ((rdG s.cur t a).toNat + (rdG s.cur t b).toNat * 2 ^ (x : BitVec 2).toNat)) =
        .ok ([(pa, widthBytes w, leaf)], fills)) ∧
    (∃ s t st d a, ∃ i : BitVec 12, ∃ pa leaf fills, Alone s st t ∧ Idle t ∧ DstG d ∧ SrcG a ∧ Room t [4] ∧ Plain s pa 8 ∧ InOrder s t [leaf] ∧
      scalarPlace s s.cur t .read 8 (BitVec.ofInt 64 ((rdG s.cur t a).toInt + i.toInt)) = .ok ([(pa, 8, leaf)], fills)) ∧
    (∃ s t st d a b w pa leaf fills, Alone s st t ∧ Idle t ∧ DstG d ∧ SrcG a ∧ SrcG b ∧ Plain s pa (widthBytes w) ∧ InOrder s t [leaf] ∧
      orderedPlace s s.cur t .read (widthBytes w) (rdG s.cur t a + rdG s.cur t b) = .ok ([(pa, widthBytes w, leaf)], fills)) ∧
    (∃ s t st d a b w x pa leaf fills, Alone s st t ∧ Idle t ∧ SrcG d ∧ SrcG a ∧ SrcG b ∧ Plain s pa (ityBytes w) ∧ InOrder s t [leaf] ∧
      scalarPlace s s.cur t .write (ityBytes w)
        (BitVec.ofNat 64 ((rdG s.cur t a).toNat + (rdG s.cur t b).toNat * 2 ^ (x : BitVec 2).toNat)) =
        .ok ([(pa, ityBytes w, leaf)], fills)) ∧
    (∃ s t st d a, ∃ i : BitVec 12, ∃ pa leaf fills, Alone s st t ∧ Idle t ∧ SrcG d ∧ SrcG a ∧ Plain s pa 8 ∧ InOrder s t [leaf] ∧
      scalarPlace s s.cur t .write 8 (BitVec.ofInt 64 ((rdG s.cur t a).toInt + i.toInt)) = .ok ([(pa, 8, leaf)], fills)) ∧
    (∃ s t st d a b w pa leaf fills, Alone s st t ∧ Idle t ∧ SrcG d ∧ SrcG a ∧ SrcG b ∧ Plain s pa (ityBytes w) ∧ InOrder s t [leaf] ∧
      Quiet s t ∧
      orderedPlace s s.cur t .write (ityBytes w) (rdG s.cur t a + rdG s.cur t b) = .ok ([(pa, ityBytes w, leaf)], fills)) := by
  have hr : okWith (onePlace 0x8000 (widthBytes .w64)) (scalarPlace (lone mover) (lone mover).cur mover .read (widthBytes .w64)
      (BitVec.ofNat 64 ((rdG (lone mover).cur mover 4).toNat + (rdG (lone mover).cur mover 56).toNat * 2 ^ (3 : BitVec 2).toNat))) = true := by decide +kernel
  have hw : okWith (onePlace 0x8000 (ityBytes .i64)) (scalarPlace (lone mover) (lone mover).cur mover .write (ityBytes .i64)
      (BitVec.ofNat 64 ((rdG (lone mover).cur mover 4).toNat + (rdG (lone mover).cur mover 56).toNat * 2 ^ (3 : BitVec 2).toNat))) = true := by decide +kernel
  have hri : okWith (onePlace 0x7800 8) (scalarPlace (lone mover) (lone mover).cur mover .read 8
      (BitVec.ofInt 64 ((rdG (lone mover).cur mover 4).toInt + (-2048 : BitVec 12).toInt))) = true := by decide +kernel
  have hwi : okWith (onePlace 0x7800 8) (scalarPlace (lone mover) (lone mover).cur mover .write 8
      (BitVec.ofInt 64 ((rdG (lone mover).cur mover 4).toInt + (-2048 : BitVec 12).toInt))) = true := by decide +kernel
  have hor : okWith (onePlace 0x8000 (widthBytes .w64)) (orderedPlace (lone mover) (lone mover).cur mover .read (widthBytes .w64) (rdG (lone mover).cur mover 4 + rdG (lone mover).cur mover 56)) = true := by
    decide +kernel
  have how : okWith (onePlace 0x8000 (ityBytes .i64)) (orderedPlace (lone mover) (lone mover).cur mover .write (ityBytes .i64) (rdG (lone mover).cur mover 4 + rdG (lone mover).cur mover 56)) = true := by
    decide +kernel
  obtain ⟨l1, f1, h1⟩ := placed hr
  obtain ⟨l2, f2, h2⟩ := placed hri
  obtain ⟨l3, f3, h3⟩ := placed hor
  obtain ⟨l4, f4, h4⟩ := placed hw
  obtain ⟨l5, f5, h5⟩ := placed hwi
  obtain ⟨l6, f6, h6⟩ := placed how
  exact ⟨⟨lone mover, mover, true, 47, 4, 56, .w64, 3, 0x8000, l1, f1, mover_alone, ⟨rfl, rfl⟩, g47.1, g4.1, g56.2, mover_room 4 (by decide),
      plain_lone _ (by decide) (by decide), fun _ => rfl, h1⟩,
    ⟨lone mover, mover, true, 47, 4, -2048, 0x7800, l2, f2, mover_alone, ⟨rfl, rfl⟩, g47.1, g4.1, mover_room 4 (by decide),
      plain_lone _ (by decide) (by decide), fun _ => rfl, h2⟩,
    ⟨lone mover, mover, true, 56, 4, 56, .w64, 0x8000, l3, f3, mover_alone, ⟨rfl, rfl⟩, g56.1, g4.1, g56.2,
      plain_lone _ (by decide) (by decide), fun _ => rfl, h3⟩,
    ⟨lone mover, mover, true, 57, 4, 56, .i64, 3, 0x8000, l4, f4, mover_alone, ⟨rfl, rfl⟩, g57, g4.1, g56.2,
      plain_lone _ (by decide) (by decide), fun _ => rfl, h4⟩,
    ⟨lone mover, mover, true, 57, 4, -2048, 0x7800, l5, f5, mover_alone, ⟨rfl, rfl⟩, g57, g4.1, plain_lone _ (by decide) (by decide), fun _ => rfl, h5⟩,
    ⟨lone mover, mover, true, 57, 4, 56, .i64, 0x8000, l6, f6, mover_alone, ⟨rfl, rfl⟩, g57, g4.1, g56.2,
      plain_lone _ (by decide) (by decide), fun _ => rfl, nofun, h6⟩⟩

/-- A task whose register 4 names a poisoned granule. -/
def struck : State := { lone mover with chip := { (lone mover).chip with poison := [0x8000] } }

theorem witness_ScalarAccessTraps :
    (∃ s t st, ∃ d a b e : Code, ∃ x : BitVec 2, Alone s st t ∧ Idle t ∧ DstG d ∧ SrcG a ∧ SrcG b ∧ SrcG e ∧ e ≠ a ∧ Room t [4] ∧
      let top := (BitVec.ofNat 64 ((rdG s.cur t a).toNat + (rdG s.cur t b).toNat * 2 ^ x.toNat)).toNat / 2 ^ 56
      top ≠ 0 ∧ top ≠ 255) ∧
    (∃ s t st, ∃ d a b e : Code, ∃ x : BitVec 2, ∃ w : Width, ∃ v : ITy, Alone s st t ∧ Idle t ∧ DstG d ∧ SrcG a ∧ SrcG b ∧ SrcG e ∧ e ≠ a ∧ Room t [4] ∧
      let ea := (BitVec.ofNat 64 ((rdG s.cur t a).toNat + (rdG s.cur t b).toNat * 2 ^ x.toNat)).toNat
      (ea / 2 ^ 56 = 0 ∨ ea / 2 ^ 56 = 255) ∧ ea % widthBytes w ≠ 0 ∧ ea % ityBytes v ≠ 0) ∧
    (∃ s t st, ∃ d a b : Code, ∃ x : BitVec 2, ∃ pa g leaf fills, Alone s st t ∧ Idle t ∧ DstG d ∧ SrcG a ∧ SrcG b ∧ Room t [4] ∧
      scalarPlace s s.cur t .read 8 (BitVec.ofNat 64 ((rdG s.cur t a).toNat + (rdG s.cur t b).toNat * 2 ^ x.toNat)) =
        .ok ([(pa, 8, leaf)], fills) ∧ InOrder s t [leaf] ∧ regionOf s pa = .device ∧ poisonAt s pa 8 = some g) := by
  obtain ⟨l, f, h⟩ := placed (pa := 0x8000) (n := 8) (x := scalarPlace struck struck.cur mover .read 8
    (BitVec.ofNat 64 ((rdG struck.cur mover 4).toNat + (rdG struck.cur mover 56).toNat * 2 ^ (3 : BitVec 2).toNat))) (by decide +kernel)
  exact ⟨⟨lone mover, mover, true, 47, 6, 56, 57, 3, mover_alone, ⟨rfl, rfl⟩, g47.1, .inl (by decide), g56.2, g57, by decide, mover_room 4 (by decide), by decide +kernel⟩,
   ⟨lone mover, mover, true, 47, 5, 56, 57, 3, .n16, .i16, mover_alone, ⟨rfl, rfl⟩, g47.1, .inl (by decide), g56.2, g57, by decide, mover_room 4 (by decide),
     by decide +kernel⟩,
   ⟨struck, mover, true, 47, 4, 56, 3, 0x8000, 0x8000, l, f, ⟨rfl, rfl, rfl, rfl, rfl, rfl⟩, ⟨rfl, rfl⟩, g47.1, g4.1, g56.2, mover_room 4 (by decide),
     h, fun _ => rfl, by decide +kernel, by decide +kernel⟩⟩

/-- The places of runs all lie in device memory. -/
def lowRuns (l : List Run3) : Bool := l.all fun r => decide (0 < r.2.2.2.1 ∧ r.2.2.1 + r.2.2.2.1 ≤ 2 ^ 38)

theorem placedRuns {x : PlacedRuns} (t : Task) (h : okWith (fun r => lowRuns r.1) x = true) :
    ∃ l fills, x = .ok (l, fills) ∧ PlainRuns (lone t) l := by
  obtain ⟨⟨l, f⟩, rfl, h⟩ := okWith_elim h
  exact ⟨l, f, rfl, plainRuns_lone t h⟩

/-- The address of register 4, and the tables of a task that has hoisted it. -/
def hoister : Task :=
  { mover with atab := [{ vec := false, width := .w64, reg := 47, va := 0x8000008000, len := 8, pas := [(0x8000, 8, false)] },
                        { vec := true, width := .w64, reg := 47, va := 0x8000008000, len := 256, pas := [(0x8000, 256, false)] }] }

theorem mover_far {b : Bool} (h : b = false) : Room mover [if b then 4 else 1] := by
  subst h
  exact mover_soon 1 (by decide)

theorem witness_HoistedLoadResults :
    (∃ s t st, ∃ d a b : Code, ∃ w : Width, ∃ x : BitVec 2, ∃ pa leaf fills, Alone s st t ∧ Idle t ∧ d.toNat < 48 ∧ SrcG a ∧ SrcG b ∧
      Room t [4] ∧ Plain s pa (widthBytes w) ∧ InOrder s t [leaf] ∧
      scalarPlace s s.cur t .read (widthBytes w) (BitVec.ofNat 64 ((rdG s.cur t a).toNat + (rdG s.cur t b).toNat * 2 ^ x.toNat)) =
        .ok ([(pa, widthBytes w, leaf)], fills) ∧
      (t.atab.any fun e => !e.vec && e.width == w && e.reg == d.toNat && e.va ==
        (BitVec.ofNat 64 ((rdG s.cur t a).toNat + (rdG s.cur t b).toNat * 2 ^ x.toNat)).toNat) = false) ∧
    (∃ s t st, ∃ d a b : Code, ∃ w : Width, ∃ x : BitVec 2, ∃ pa leaf, Alone s st t ∧ Idle t ∧ d.toNat < 48 ∧ SrcG a ∧ SrcG b ∧
      Room t [4] ∧ Plain s pa (widthBytes w) ∧ InOrder s t [leaf] ∧
      (t.atab.any fun e => !e.vec && e.width == w && e.reg == d.toNat && e.va ==
        (BitVec.ofNat 64 ((rdG s.cur t a).toNat + (rdG s.cur t b).toNat * 2 ^ x.toNat)).toNat) = true) ∧
    (∃ s t st, ∃ d a b : Code, ∃ x : BitVec 2, ∃ p : BitVec 3, ∃ l fills, Alone s st t ∧ Idle t ∧ d.toNat < 48 ∧ d.toNat < t.vcnt ∧ SrcG a ∧
      SrcG b ∧ PlainRuns s l ∧ InOrder s t (leavesOf l) ∧
      Room t [if allNear (t.kReg p.toNat) (BitVec.ofNat 64 ((rdG s.cur t a).toNat + (rdG s.cur t b).toNat * 2 ^ x.toNat)) then 4 else 1] ∧
      vectorPlace s s.cur t .read (BitVec.ofNat 64 ((rdG s.cur t a).toNat + (rdG s.cur t b).toNat * 2 ^ x.toNat)) (t.kReg p.toNat) =
        .ok (l, fills)) ∧
    (∃ s t st, ∃ d a b : Code, Alone s st t ∧ Idle t ∧ d.toNat < 48 ∧ d.toNat < t.vcnt ∧ SrcG a ∧ SrcG b ∧ Room t [4] ∧
      (t.atab.any fun e => e.vec && e.reg == d.toNat && e.va == (rdG s.cur t a + rdG s.cur t b).toNat) = true) ∧
    (∃ s t st, ∃ d a b : Code, ∃ p : BitVec 3, ∃ l fills, Alone s st t ∧ Idle t ∧ d.toNat < 48 ∧ d.toNat < t.vcnt ∧ SrcG a ∧
      SrcG b ∧ PlainRuns s l ∧ InOrder s t (leavesOf l) ∧ (t.atab.any fun e => e.vec && e.reg == d.toNat && e.va == (rdG s.cur t a + rdG s.cur t b).toNat) = false ∧
      Room t [if allNear (t.kReg p.toNat) (rdG s.cur t a + rdG s.cur t b) then 4 else 1] ∧
      vectorPlace s s.cur t .read (rdG s.cur t a + rdG s.cur t b) (t.kReg p.toNat) = .ok (l, fills)) := by
  have h1 : okWith (onePlace 0x8000 (widthBytes .w64)) (scalarPlace (lone mover) (lone mover).cur mover .read (widthBytes .w64)
      (BitVec.ofNat 64 ((rdG (lone mover).cur mover 4).toNat + (rdG (lone mover).cur mover 56).toNat * 2 ^ (3 : BitVec 2).toNat))) = true := by
    decide +kernel
  have h3 : okWith (fun r => lowRuns r.1) (vectorPlace (lone mover) (lone mover).cur mover .read
      (BitVec.ofNat 64 ((rdG (lone mover).cur mover 4).toNat + (rdG (lone mover).cur mover 56).toNat * 2 ^ (3 : BitVec 2).toNat))
      (mover.kReg (0 : BitVec 3).toNat)) = true := by decide +kernel
  have h5 : okWith (fun r => lowRuns r.1) (vectorPlace (lone mover) (lone mover).cur mover .read
      (rdG (lone mover).cur mover 4 + rdG (lone mover).cur mover 56) (mover.kReg (0 : BitVec 3).toNat)) = true := by decide +kernel
  obtain ⟨l1, f1, h1⟩ := placed h1
  obtain ⟨l3, f3, h3, p3⟩ := placedRuns mover h3
  obtain ⟨l5, f5, h5, p5⟩ := placedRuns mover h5
  exact ⟨⟨lone mover, mover, true, 47, 4, 56, .w64, 3, 0x8000, l1, f1, mover_alone, ⟨rfl, rfl⟩, by decide, g4.1, g56.2, mover_room 4 (by decide),
      plain_lone _ (by decide) (by decide), fun _ => rfl, h1, by decide⟩,
    ⟨lone hoister, hoister, true, 47, 4, 56, .w64, 0, 0x8000, 0, lone_alone _ rfl, ⟨rfl, rfl⟩, by decide, g4.1, g56.2, busy_room 4 (by decide),
      plain_lone _ (by decide) (by decide), fun _ => rfl, by decide +kernel⟩,
    ⟨lone mover, mover, true, 47, 4, 56, 3, 0, l3, f3, mover_alone, ⟨rfl, rfl⟩, by decide, by decide, g4.1, g56.2, p3, fun _ => rfl,
      mover_far (by decide +kernel), h3⟩,
    ⟨lone hoister, hoister, true, 47, 4, 56, lone_alone _ rfl, ⟨rfl, rfl⟩, by decide, by decide, g4.1, g56.2, busy_room 4 (by decide),
      by decide +kernel⟩,
    ⟨lone mover, mover, true, 47, 4, 56, 0, l5, f5, mover_alone, ⟨rfl, rfl⟩, by decide, by decide, g4.1, g56.2, p5, fun _ => rfl, by decide,
      mover_far (by decide +kernel), h5⟩⟩


/-- Whether bytes are of plain memory. -/
def plainAt (s : State) (pa n : Nat) : Bool :=
  decide (0 < n) && ((List.range n).all fun i =>
    regionOf s (pa + i) == .device || regionOf s (pa + i) == .near || regionOf s (pa + i) == .cluster) && (poisonAt s pa n).isNone

theorem plain_of {s : State} {pa n : Nat} (h : plainAt s pa n = true) : Plain s pa n := by
  simp only [plainAt, Bool.and_eq_true, decide_eq_true_eq, List.all_eq_true, List.mem_range, Option.isNone_iff_eq_none] at h
  refine ⟨h.1.1, fun i hi => ?_, h.2⟩
  have := h.1.2 i hi
  simp only [Bool.or_eq_true, beq_iff_eq] at this
  rcases this with (h | h) | h
  · exact .inl h
  · exact .inr (.inl h)
  · exact .inr (.inr h)

/-- Whether the places of runs are of plain memory. -/
def plainAll (s : State) (l : List Run3) : Bool := l.all fun r => plainAt s r.2.2.1 r.2.2.2.1

theorem plainAll_of {s : State} {l : List Run3} (h : plainAll s l = true) : PlainRuns s l :=
  fun r hr => plain_of (List.all_eq_true.mp h r hr)

theorem runs_of {s : State} {x : PlacedRuns} (h : okWith (fun r => plainAll s r.1) x = true) : ∃ l fills, x = .ok (l, fills) ∧ PlainRuns s l := by
  obtain ⟨⟨l, f⟩, rfl, h⟩ := okWith_elim h
  exact ⟨l, f, rfl, plainAll_of h⟩

/-- A state whose group 0 has a reservation of near store at 0 and bank 3 of the cluster store, in FIFO mode, with one entry. -/
def near (t : Task) : State :=
  { lone t with groups := [(0, { nsBase := [(0, 0)], banks := [3], csmode := 2 })], launches := [(0, { pkt := { nsb := 4 } })],
                clusters := [(0, { banks := (Vector.replicate 32 {}).set 3 { owner := some 0, mode := 2, tail := 1 } })] }

/-- A task with the addresses of its windows in registers 7 and 8, and 1 in register 9. -/
def viewer : Task := { mover with g := ((mover.g.set 7 0xF000000000).set 8 0xF100000000).set 9 1 }

theorem viewer_alone : Alone (near viewer) true viewer := ⟨rfl, rfl, rfl, rfl, rfl, rfl⟩
theorem viewer_lone : Alone (lone viewer) true viewer := lone_alone _ rfl
theorem viewer_near {b : Bool} (h : b = true) : Room viewer [if b then 4 else 1] := by
  subst h
  exact busy_room 4 (by decide)
theorem viewer_far {b : Bool} (h : b = false) : Room viewer [if b then 4 else 1] := by
  subst h
  exact mover_soon 1 (by decide)
theorem g7 : SrcG 7 ∧ SrcG 8 ∧ SrcG 9 := ⟨.inl (by decide), .inl (by decide), .inl (by decide)⟩

/-- The effective addresses of an access. -/
def scaled (s : State) (t : Task) (a b : Code) (x : BitVec 2) : W64 :=
  BitVec.ofNat 64 ((rdG s.cur t a).toNat + (rdG s.cur t b).toNat * 2 ^ x.toNat)
def offset (s : State) (t : Task) (a : Code) (i : BitVec 12) : W64 := BitVec.ofInt 64 ((rdG s.cur t a).toInt + i.toInt)

theorem witness_VectorMemoryResults :
    (∃ s t st, ∃ d a b : Code, ∃ x : BitVec 2, ∃ p : BitVec 3, ∃ l fills, Alone s st t ∧ Idle t ∧ SrcG a ∧ SrcG b ∧ PlainRuns s l ∧ InOrder s t (leavesOf l) ∧
      DstV t d ∧ Room t [if allNear (t.kReg p.toNat) (scaled s t a b x) then 4 else 1] ∧
      fifoAccess s t (scaled s t a b x) (t.kReg p.toNat) = none ∧
      vectorPlace s s.cur t .read (scaled s t a b x) (t.kReg p.toNat) = .ok (l, fills)) ∧
    (∃ s t st, ∃ d a : Code, ∃ i : BitVec 12, ∃ l fills, Alone s st t ∧ Idle t ∧ SrcG a ∧ PlainRuns s l ∧ InOrder s t (leavesOf l) ∧
      DstV t d ∧ Room t [if allNear (BitVec.allOnes 256) (offset s t a i) then 4 else 1] ∧
      fifoAccess s t (offset s t a i) (BitVec.allOnes 256) = none ∧
      vectorPlace s s.cur t .read (offset s t a i) (BitVec.allOnes 256) = .ok (l, fills)) ∧
    (∃ s t st, ∃ d a b : Code, ∃ x : BitVec 2, ∃ p : BitVec 3, ∃ l fills, Alone s st t ∧ Idle t ∧ SrcG a ∧ SrcG b ∧ PlainRuns s l ∧ InOrder s t (leavesOf l) ∧
      SrcV t d ∧ fifoAccess s t (scaled s t a b x) (t.kReg p.toNat) = none ∧
      vectorPlace s s.cur t .write (scaled s t a b x) (t.kReg p.toNat) = .ok (l, fills)) ∧
    (∃ s t st, ∃ d a : Code, ∃ i : BitVec 12, ∃ l fills, Alone s st t ∧ Idle t ∧ SrcG a ∧ PlainRuns s l ∧ InOrder s t (leavesOf l) ∧
      SrcV t d ∧ fifoAccess s t (offset s t a i) (BitVec.allOnes 256) = none ∧
      vectorPlace s s.cur t .write (offset s t a i) (BitVec.allOnes 256) = .ok (l, fills)) := by
  have h1 : okWith (fun r => plainAll (near viewer) r.1) (vectorPlace (near viewer) (near viewer).cur viewer .read
      (scaled (near viewer) viewer 7 56 3) (viewer.kReg (0 : BitVec 3).toNat)) = true := by decide +kernel
  have h2 : okWith (fun r => plainAll (lone viewer) r.1) (vectorPlace (lone viewer) (lone viewer).cur viewer .read
      (offset (lone viewer) viewer 4 (-2048)) (BitVec.allOnes 256)) = true := by decide +kernel
  have h3 : okWith (fun r => plainAll (lone viewer) r.1) (vectorPlace (lone viewer) (lone viewer).cur viewer .write
      (scaled (lone viewer) viewer 4 57 0) (viewer.kReg (7 : BitVec 3).toNat)) = true := by decide +kernel
  have h4 : okWith (fun r => plainAll (near viewer) r.1) (vectorPlace (near viewer) (near viewer).cur viewer .write
      (offset (near viewer) viewer 7 2016) (BitVec.allOnes 256)) = true := by decide +kernel
  obtain ⟨l1, f1, h1, p1⟩ := runs_of h1
  obtain ⟨l2, f2, h2, p2⟩ := runs_of h2
  obtain ⟨l3, f3, h3, p3⟩ := runs_of h3
  obtain ⟨l4, f4, h4, p4⟩ := runs_of h4
  exact ⟨⟨near viewer, viewer, true, 47, 7, 56, 3, 0, l1, f1, viewer_alone, ⟨rfl, rfl⟩, g7.1, g56.2, p1, fun _ => rfl, v47.1, viewer_near (by decide +kernel),
      by decide +kernel, h1⟩,
    ⟨lone viewer, viewer, true, 56, 4, -2048, l2, f2, viewer_lone, ⟨rfl, rfl⟩, g4.1, p2, fun _ => rfl, (v56 _).1, viewer_far (by decide +kernel),
      by decide +kernel, h2⟩,
    ⟨lone viewer, viewer, true, 57, 4, 57, 0, 7, l3, f3, viewer_lone, ⟨rfl, rfl⟩, g4.1, g57, p3, fun _ => rfl, v57, by decide +kernel, h3⟩,
    ⟨near viewer, viewer, true, 47, 7, 2016, l4, f4, viewer_alone, ⟨rfl, rfl⟩, g7.1, p4, fun _ => rfl, v47.2, by decide +kernel, h4⟩⟩

/-- A task whose vector register 1 holds the offsets 0, 1, 2, … of bytes. -/
def offsets : Task := { viewer with v := viewer.v.set 1 (vectorOf 1 256 fun i => i) }

theorem witness_BroadcastAndGatherResults :
    (∃ s t st, ∃ d a b : Code, ∃ w : ITy, ∃ p : BitVec 3, ∃ pa leaf, Alone s st t ∧ Idle t ∧ DstV t d ∧ SrcG a ∧ SrcG b ∧ Plain s pa (ityBytes w) ∧ InOrder s t [leaf] ∧
      ((List.range (256 / ityBytes w)).any fun i => (t.kReg p.toNat).getLsbD (i * ityBytes w)) = false) ∧
    (∃ s t st, ∃ d a b : Code, ∃ w : ITy, ∃ p : BitVec 3, ∃ pa leaf fills, Alone s st t ∧ Idle t ∧ DstV t d ∧ SrcG a ∧ SrcG b ∧
      Plain s pa (ityBytes w) ∧ InOrder s t [leaf] ∧ ((List.range (256 / ityBytes w)).any fun i => (t.kReg p.toNat).getLsbD (i * ityBytes w)) = true ∧
      Room t [if allNear (BitVec.ofNat 256 (2 ^ ityBytes w - 1)) (rdG s.cur t a + rdG s.cur t b * BitVec.ofNat 64 (ityBytes w)) then 4 else 1] ∧
      canonical (rdG s.cur t a + rdG s.cur t b * BitVec.ofNat 64 (ityBytes w)) = true ∧
      (rdG s.cur t a + rdG s.cur t b * BitVec.ofNat 64 (ityBytes w)).toNat % ityBytes w = 0 ∧
      placeAll s (slotCtx s.cur t) .read [(rdG s.cur t a + rdG s.cur t b * BitVec.ofNat 64 (ityBytes w), ityBytes w)] =
        .ok ([(pa, ityBytes w, leaf)], fills)) ∧
    (∃ s t st, ∃ d a b : Code, ∃ w : ITy, ∃ c : Bool, ∃ p : BitVec 3, ∃ l, Alone s st t ∧ Idle t ∧ SrcG a ∧ SrcV t b ∧ PlainRuns s l ∧ InOrder s t (leavesOf l) ∧
      elemPlaces s s.cur t (ityBytes w) c (rdG s.cur t a) (rdV t b (ityVty w)) (t.kReg p.toNat) = .ok l ∧ DstV t d ∧ SrcV t d ∧ Room t [6]) := by
  have h2 : okWith (onePlace 0x8008 (ityBytes .i64)) (placeAll (lone viewer) (slotCtx (lone viewer).cur viewer) .read
      [(rdG (lone viewer).cur viewer 4 + rdG (lone viewer).cur viewer 9 * BitVec.ofNat 64 (ityBytes .i64), ityBytes .i64)]) = true := by
    decide +kernel
  have h3 : okWith (fun l => plainAll (near offsets) l) (elemPlaces (near offsets) (near offsets).cur offsets (ityBytes .i8) true
      (rdG (near offsets).cur offsets 7) (rdV offsets 1 (ityVty .i8)) (offsets.kReg (0 : BitVec 3).toNat)) = true := by decide +kernel
  obtain ⟨l2, f2, h2⟩ := placed h2
  obtain ⟨l3, h3, p3⟩ := okWith_elim h3
  exact ⟨⟨lone viewer, viewer, true, 47, 4, 57, .i64, 7, 0x8000, 0, viewer_lone, ⟨rfl, rfl⟩, v47.1, g4.1, g57, plain_lone _ (by decide) (by decide), fun _ => rfl,
      by decide +kernel⟩,
    ⟨lone viewer, viewer, true, 56, 4, 9, .i64, 0, 0x8008, l2, f2, viewer_lone, ⟨rfl, rfl⟩, (v56 _).1, g4.1, g7.2.2,
      plain_lone _ (by decide) (by decide), fun _ => rfl, by decide +kernel, viewer_far (by decide +kernel), by decide +kernel, by decide +kernel, h2⟩,
    ⟨near offsets, offsets, true, 47, 7, 1, .i8, true, 0, l3, ⟨rfl, rfl, rfl, rfl, rfl, rfl⟩, ⟨rfl, rfl⟩, g7.1, .inl (by decide), plainAll_of p3, fun _ => rfl, h3,
      .inl (by decide), .inl (by decide), busy_room 6 (by decide)⟩⟩

/-- A task with two full streams, one of them closed with its last byte. -/
def streams : Task := 
  let last : Stream := { base := 0xF000000000, size := 512, head := 511, present := 1, closed := true }
  { viewer with z := (viewer.z.set 0 { base := 0xF000000000, size := 512, head := 384, present := 256 }).set 15 last }

theorem witness_FifoAndStreamResults :
    (∃ s t st, ∃ d a : Code, ∃ i : BitVec 12, ∃ bank, Alone s st t ∧ Idle t ∧ SrcG a ∧
      fifoAccess s t (offset s t a i) (BitVec.allOnes 256) = some bank ∧ DstV t d ∧ SrcV t d ∧
      (s.bankOf t.gid bank).head < (s.bankOf t.gid bank).tail ∧ (s.bankOf t.gid bank).tail < (s.bankOf t.gid bank).head + 512 ∧
      poisonAt s (s.fifoPa t.gid bank (s.bankOf t.gid bank).head) 256 = none) ∧
    (∃ s t st, ∃ d a : Code, Alone s st t ∧ DstV t d ∧ a.toNat < 16 ∧ (t.z[a.toNat]?.getD {}).present ≥ 256 ∧
      streamPoison s s.cur t (t.z[a.toNat]?.getD {}) = none) ∧
    (∃ s t st, ∃ d a : Code, Alone s st t ∧ DstV t d ∧ a.toNat < 16 ∧ (t.z[a.toNat]?.getD {}).closed = true ∧
      (t.z[a.toNat]?.getD {}).present > 0 ∧ streamPoison s s.cur t (t.z[a.toNat]?.getD {}) = none) :=
  ⟨⟨near viewer, viewer, true, 47, 8, 0, 0, viewer_alone, ⟨rfl, rfl⟩, g7.2.1, by decide +kernel, v47.1, v47.2, by decide +kernel, by decide +kernel, rfl⟩,
   ⟨near streams, streams, true, 47, 0, ⟨rfl, rfl, rfl, rfl, rfl, rfl⟩, .inl (by decide), by decide, by decide +kernel,
     streamPoison_clean rfl _ _⟩,
   ⟨near streams, streams, true, 56, 15, ⟨rfl, rfl, rfl, rfl, rfl, rfl⟩, .inr rfl, by decide, by decide +kernel, by decide +kernel,
     streamPoison_clean rfl _ _⟩⟩

/-- Whether checked lanes are one lane at a place. -/
def oneLane (x : AtomLane) (pa : Nat) (r : List (AtomLane × Nat × Nat × W64) × List TlbEntry) : Bool :=
  match r.1 with
  | [q] => q.1 == x && q.2.1 == pa && q.2.2.1 == 8
  | _ => false

theorem oneLane_of {x : Except TrapInfo (List (AtomLane × Nat × Nat × W64) × List TlbEntry)} {l : AtomLane} {pa : Nat}
    (h : okWith (oneLane l pa) x = true) : ∃ leaf fills, x = .ok ([(l, pa, 8, leaf)], fills) := by
  obtain ⟨⟨r, f⟩, rfl, h⟩ := okWith_elim h
  rcases r with _ | ⟨⟨l', p, m, leaf⟩, _ | ⟨_, _⟩⟩
  · cases h
  · have h : (l' == l && p == pa && m == 8) = true := h
    simp only [Bool.and_eq_true, beq_iff_eq] at h
    obtain ⟨⟨rfl, rfl⟩, rfl⟩ := h
    exact ⟨leaf, f, rfl⟩
  · cases h

/-- A task whose vector register 1 holds two equal offsets in its lanes 0 and 31, and whose predicate 1 takes these. -/
def adder : Task := { viewer with v := viewer.v.set 1 (vectorOf 8 32 fun i => if i = 0 ∨ i = 31 then 8 else 1),
                                  k := viewer.k.set 1 (BitVec.ofNat 256 (255 + 255 * 2 ^ 248)) }

/-- The active lanes of `vatom`. -/
def atomLanes (s : State) (t : Task) (d a b : Code) (p : BitVec 3) : List AtomLane :=
  ((List.range 32).filter fun i => (t.kReg p.toNat).getLsbD (i * 8)).map fun i =>
    (i, rdG s.cur t a + BitVec.ofNat 64 (elem 8 (rdV t b .i64) i), elem 8 (rdV t d .i64) i, 0)

theorem witness_AtomicResults :
    (∃ s t st, ∃ d a b : Code, ∃ c : Scope, ∃ o : AtomOp, ∃ pa leaf fills, Alone s st t ∧ Idle t ∧ DstG d ∧ SrcG a ∧ SrcG b ∧ Plain s pa 8 ∧ InOrder s t [leaf] ∧
      atomCheck s s.cur t (o == .addf) false c [(0, rdG s.cur t a, (rdG s.cur t b).toNat, (rdG s.cur t d).toNat)] =
        .ok ([((0, rdG s.cur t a, (rdG s.cur t b).toNat, (rdG s.cur t d).toNat), pa, 8, leaf)], fills)) ∧
    (∃ s t st, ∃ d a b : Code, ∃ o : VAtomOp, ∃ p : BitVec 3, ∃ l fills, Alone s st t ∧ Idle t ∧ DstV t d ∧ SrcG a ∧ SrcV t b ∧
      (∀ q ∈ l, Plain s q.2.1 8) ∧ InOrder s t (l.map fun q => q.2.2.2) ∧ atomCheck s s.cur t (o == .addf) true .device (atomLanes s t d a b p) = .ok (l, fills)) := by
  have h1 : okWith (oneLane (0, rdG (lone viewer).cur viewer 4, (rdG (lone viewer).cur viewer 57).toNat, (rdG (lone viewer).cur viewer 47).toNat) 0x8000)
      (atomCheck (lone viewer) (lone viewer).cur viewer (AtomOp.addf == .addf) false .system
      [(0, rdG (lone viewer).cur viewer 4, (rdG (lone viewer).cur viewer 57).toNat, (rdG (lone viewer).cur viewer 47).toNat)]) = true := by
    decide +kernel
  have h2 : okWith (fun r => r.1.all fun q => plainAt (lone adder) q.2.1 8) (atomCheck (lone adder) (lone adder).cur adder
      (VAtomOp.addf == .addf) true .device (atomLanes (lone adder) adder 2 4 1 1)) = true := by decide +kernel
  obtain ⟨l1, f1, h1⟩ := oneLane_of h1
  obtain ⟨⟨l2, f2⟩, h2, p2⟩ := okWith_elim h2
  exact ⟨⟨lone viewer, viewer, true, 47, 4, 57, .system, .addf, 0x8000, l1, f1, viewer_lone, ⟨rfl, rfl⟩, g47.1, g4.1, g57,
      plain_lone _ (by decide) (by decide), fun _ => rfl, h1⟩,
    ⟨lone adder, adder, true, 2, 4, 1, .addf, 1, l2, f2, lone_alone _ rfl, ⟨rfl, rfl⟩, .inl (by decide), g4.1, .inl (by decide),
      fun q hq => plain_of (List.all_eq_true.mp p2 q hq), fun _ => rfl, h2⟩⟩

/-- A state with 64 bytes at physical address 0x8000. -/
def stored (n : Nat) (t : Task) : State := { lone t with mem := memPut 0x8000 n 64 (placeMem 0 []) }

theorem stored_alone (n : Nat) (t : Task) (h : t.poison = []) : Alone (stored n t) true t := ⟨rfl, rfl, rfl, rfl, h, rfl⟩

/-- The descriptor of an antisymmetric 4 by 4 matrix of `i16`. -/
def skewed : BitVec 512 := BitVec.ofNat 512 (0x0004000400010102 + 0x0302 * 2 ^ 128)

/-- A task with that descriptor in register 3, and tuples of every kind in vector register 1. -/
def mapper : Task :=
  let tuples : VReg := vectorOf 8 32 fun i => if i = 0 then 1 else if i = 1 then 2 ^ 10 else if i = 2 then 0 else 2 ^ 63
  { viewer with y := viewer.y.set 3 (some skewed), v := viewer.v.set 1 tuples }

theorem mapper_alone : Alone (near mapper) true mapper := ⟨rfl, rfl, rfl, rfl, rfl, rfl⟩

/-- The block that `ydesc` loads. -/
def block (s : State) (pa : Nat) : BitVec 512 := BitVec.ofNat 512 (memNat s.mem pa 64)

theorem witness_SymmetricIndexResults :
    (∃ s t st, ∃ d a : Code, ∃ i : BitVec 12, ∃ pa leaf fills, Alone s st t ∧ Idle t ∧ d.toNat < 16 ∧ SrcG a ∧ Plain s pa 64 ∧ InOrder s t [leaf] ∧
      scalarPlace s s.cur t .read 64 (offset s t a i) = .ok ([(pa, 64, leaf)], fills) ∧ symRank (block s pa) = 0) ∧
    (∃ s t st, ∃ d a : Code, ∃ i : BitVec 12, ∃ pa leaf fills, Alone s st t ∧ Idle t ∧ d.toNat < 16 ∧ SrcG a ∧ Plain s pa 64 ∧ InOrder s t [leaf] ∧
      scalarPlace s s.cur t .read 64 (offset s t a i) = .ok ([(pa, 64, leaf)], fills) ∧ symRank (block s pa) ≠ 0 ∧ symBad (block s pa) = none) ∧
    (∃ s t st, ∃ d a : Code, ∃ i : BitVec 12, ∃ pa leaf fills r o, Alone s st t ∧ Idle t ∧ d.toNat < 16 ∧ SrcG a ∧ Plain s pa 64 ∧ InOrder s t [leaf] ∧
      scalarPlace s s.cur t .read 64 (offset s t a i) = .ok ([(pa, 64, leaf)], fills) ∧ symRank (block s pa) ≠ 0 ∧
      symBad (block s pa) = some (r, o)) ∧
    (∃ s t st, ∃ d c a g : Code, ∃ y : BitVec 4, ∃ q, Alone s st t ∧ SrcV t a ∧ SrcG g ∧ t.y[y.toNat]? = some (some q) ∧ DstV t d ∧ Room t [6] ∧
      c.toNat < 8) ∧
    (∃ s t st, ∃ d c a g : Code, ∃ y : BitVec 4, Alone s st t ∧ SrcV t a ∧ SrcG g ∧ t.y[y.toNat]? = some none ∧ DstV t d ∧ c.toNat < 8) := by
  have h1 : okWith (onePlace 0x7800 64) (scalarPlace (lone viewer) (lone viewer).cur viewer .read 64 (offset (lone viewer) viewer 4 (-2048))) = true := by
    decide +kernel
  have h2 : okWith (onePlace 0x8000 64) (scalarPlace (stored skewed.toNat viewer) (stored skewed.toNat viewer).cur viewer .read 64
      (offset (stored skewed.toNat viewer) viewer 4 0)) = true := by decide +kernel
  have h3 : okWith (onePlace 0x8000 64) (scalarPlace (stored 0x0801 viewer) (stored 0x0801 viewer).cur viewer .read 64
      (offset (stored 0x0801 viewer) viewer 4 0)) = true := by decide +kernel
  obtain ⟨l1, f1, h1⟩ := placed h1
  obtain ⟨l2, f2, h2⟩ := placed h2
  obtain ⟨l3, f3, h3⟩ := placed h3
  exact ⟨⟨lone viewer, viewer, true, 15, 4, -2048, 0x7800, l1, f1, viewer_lone, ⟨rfl, rfl⟩, by decide, g4.1, plain_lone _ (by decide) (by decide), fun _ => rfl, h1,
      by decide +kernel⟩,
    ⟨stored skewed.toNat viewer, viewer, true, 15, 4, 0, 0x8000, l2, f2, stored_alone _ _ rfl, ⟨rfl, rfl⟩, by decide, g4.1,
      plain_of (by decide +kernel), fun _ => rfl, h2, by decide +kernel, by decide +kernel⟩,
    ⟨stored 0x0801 viewer, viewer, true, 15, 4, 0, 0x8000, l3, f3, 2, 1, stored_alone _ _ rfl, ⟨rfl, rfl⟩, by decide, g4.1,
      plain_of (by decide +kernel), fun _ => rfl, h3, by decide +kernel, by decide +kernel⟩,
    ⟨near mapper, mapper, true, 47, 7, 1, 57, 3, skewed, mapper_alone, .inl (by decide), g57, by decide +kernel, .inl (by decide),
      busy_room 6 (by decide), by decide⟩,
    ⟨near mapper, mapper, true, 47, 7, 1, 57, 15, mapper_alone, .inl (by decide), g57, by decide +kernel, .inl (by decide), by decide⟩⟩

theorem witness_SymmetricMemoryResults : ∃ s t st, ∃ d a b : Code, ∃ y : BitVec 4, ∃ z : Bool, ∃ q, Alone s st t ∧ Idle t ∧ SrcG a ∧
    SrcV t b ∧ t.y[y.toNat]? = some (some q) ∧
    PlainRuns s (mapRuns s s.cur t q (rdG s.cur t a) (mapLanes q (rdV t b .i64))) ∧
    InOrder s t (leavesOf (mapRuns s s.cur t q (rdG s.cur t a) (mapLanes q (rdV t b .i64)))) ∧ DstV t d ∧ SrcV t d ∧ Room t [6] ∧
    mapFault s s.cur t q (rdG s.cur t a) (mapLanes q (rdV t b .i64)) none = none ∧
    mapFault s s.cur t q (rdG s.cur t a) (mapLanes q (rdV t b .i64))
      (if z then none else some (rdV t d (stageVsty.vtyOfCode (symType q)))) = none :=
  ⟨near mapper, mapper, true, 56, 7, 1, 3, false, skewed, mapper_alone, ⟨rfl, rfl⟩, g7.1, .inl (by decide), by decide +kernel,
    plainAll_of (by decide +kernel), fun _ => rfl, (v56 _).1, (v56 _).2, busy_room 6 (by decide), by decide +kernel, by decide +kernel⟩

/-- The descriptor of a vector of two `i16`, and a command block that contracts two of register 3 to one element. -/
def pair : BitVec 512 := BitVec.ofNat 512 0x0000000200000101
def dot : Nat := 0x0000008001000303 + 0x80 * 2 ^ 80 + 2 ^ 320

/-- A task that holds bank 5, with that descriptor. -/
def contractor : Task := { viewer with y := viewer.y.set 3 (some pair), acc := viewer.acc.set 5 (some 0) }

/-- The context in which the array reads the operands of a contraction, and their places. -/
def arrayCtx (s : State) (t : Task) : Ctx :=
  { gid := t.gid, core := s.cur, troot := t.troot, tasid := t.tasid, sup := t.sup, req := 1, slotL := false }
def sctrPlaces (s : State) (t : Task) (job : SctrJob) : List (Nat × Nat × W64) := (placesOf s (arrayCtx s t) (sctrPieces true job)).1

theorem witness_ContractionResults : ∃ s t st, ∃ d a b : Code, ∃ pa leaf fills job j, Alone s st t ∧ Idle t ∧ t.holds d.toNat = true ∧
    SrcG a ∧ SrcG b ∧ Plain s pa 64 ∧ InOrder s t [leaf] ∧ orderedPlace s s.cur t .read 64 (rdG s.cur t a) = .ok ([(pa, 64, leaf)], fills) ∧
    sctrJob t d.toNat (block s pa) (rdG s.cur t a) (rdG s.cur t b) = .ok job ∧ sctrPlaces s t job ≠ [] ∧
    sctrFetch s s (arrayCtx s t) t.answers true job = .ok j ∧ (∀ p ∈ sctrPlaces s t job, Plain s p.1 p.2.1) ∧
    InOrder s t ((sctrPlaces s t job).map fun p => p.2.2) ∧ symViolation j = none := by
  have h1 : okWith (onePlace 0x8000 64) (orderedPlace (stored dot contractor) (stored dot contractor).cur contractor .read 64
      (rdG (stored dot contractor).cur contractor 4)) = true := by decide +kernel
  have h2 : okWith (fun job => sctrPlaces (stored dot contractor) contractor job != [] &&
      (sctrPlaces (stored dot contractor) contractor job).all (fun p => plainAt (stored dot contractor) p.1 p.2.1) &&
      okWith (fun j => (symViolation j).isNone)
        (sctrFetch (stored dot contractor) (stored dot contractor) (arrayCtx (stored dot contractor) contractor) contractor.answers true job))
      (sctrJob contractor (5 : Code).toNat (block (stored dot contractor) 0x8000) (rdG (stored dot contractor).cur contractor 4)
        (rdG (stored dot contractor).cur contractor 4)) = true := by decide +kernel
  obtain ⟨l1, f1, h1⟩ := placed h1
  obtain ⟨job, h2, h3⟩ := okWith_elim h2
  simp only [Bool.and_eq_true, bne_iff_ne, List.all_eq_true] at h3
  obtain ⟨j, h4, h5⟩ := okWith_elim h3.2
  exact ⟨stored dot contractor, contractor, true, 5, 4, 4, 0x8000, l1, f1, job, j, stored_alone _ _ rfl, ⟨rfl, rfl⟩, by decide +kernel, g4.1, g4.1,
    plain_of (by decide +kernel), fun _ => rfl, h1, h2, h3.1.1, h4, fun p hp => plain_of (h3.1.2 p hp), fun _ => rfl, Option.isNone_iff_eq_none.1 h5⟩

/-- A task with general registers set. -/
def withG (t : Task) (l : List (Nat × W64)) : Task := { t with g := l.foldl (fun g p => g.setIfInBounds p.1 p.2) t.g }

theorem sg (n : Code) (h : n.toNat < 48 := by decide) : SrcG n := .inl h

/-- A task that holds bank 0, and counts of banks in registers 10 and 11. -/
def holder : Task := { withG viewer [(10, 63), (11, 64)] with acc := viewer.acc.set 0 (some 0) }

/-- Tasks that hold all banks: one whose solve has stopped with bank 0 carried, and one that has no solve. -/
def full : Task := { withG viewer [(10, 63), (11, 64), (12, 1)] with acc := Vector.replicate 64 (some 0) }
def carrier : Task := { full with slv := { code := .ready } }

theorem witness_BankResults :
    (∃ s t st, ∃ d a b : Code, ∃ k, Alone s st t ∧ DstG d ∧ SrcG a ∧ b.toNat < 8 ∧ 0 < (rdG s.cur t a).toNat ∧
      (rdG s.cur t a).toNat + banksHeld s s.cur ≤ 64 ∧
      (k + (rdG s.cur t a).toNat ≤ 64 ∧ ∀ i, i < (rdG s.cur t a).toNat → t.holds (k + i) = false) ∧
      (∀ j, j < k → ¬ (j + (rdG s.cur t a).toNat ≤ 64 ∧ ∀ i, i < (rdG s.cur t a).toNat → t.holds (j + i) = false))) ∧
    (∃ s t st, ∃ d a b : Code, Alone s st t ∧ DstG d ∧ SrcG a ∧ b.toNat < 8 ∧ 0 < (rdG s.cur t a).toNat ∧
      (rdG s.cur t a).toNat + banksHeld s s.cur > 64) ∧
    (∃ s t st, ∃ d a b : Code, Alone s st t ∧ DstG d ∧ SrcG a ∧ b.toNat < 8 ∧ (rdG s.cur t a).toNat = 0) ∧
    (∃ s t st, ∃ a b : Code, Alone s st t ∧ SrcG a ∧ SrcG b ∧ (rdG s.cur t b).toNat ≤ 64 ∧
      (∀ i, i < (rdG s.cur t b).toNat → t.holds ((rdG s.cur t a).toNat + i) = true ∧ banksBusy s t ((rdG s.cur t a).toNat + i) 1 = false) ∧
      (∀ i, i < (rdG s.cur t b).toNat → carried t ((rdG s.cur t a).toNat + i) = false) ∧
      0 < (rdG s.cur t b).toNat ∧ arrayFlows t = true) ∧
    (∃ s t st, ∃ a b : Code, Alone s st t ∧ SrcG a ∧ SrcG b ∧ (rdG s.cur t b).toNat ≤ 64 ∧
      (∀ i, i < (rdG s.cur t b).toNat → t.holds ((rdG s.cur t a).toNat + i) = true ∧ banksBusy s t ((rdG s.cur t a).toNat + i) 1 = false) ∧
      (∃ i, i < (rdG s.cur t b).toNat ∧ carried t ((rdG s.cur t a).toNat + i) = true) ∧ t.slv.code = .ready ∧ arrayFlows t = true) ∧
    (∃ s t st, ∃ d a b v : Code, Alone s st t ∧ SrcG b ∧ SrcV t v ∧ t.holds d.toNat = true ∧ t.holds a.toNat = true ∧ DstV t d ∧
      (t.arrayQ.any (usesBanks a.toNat 1)) = false ∧ arrayFlows t = true ∧
      Room t [4]) ∧
    (∃ s t st, ∃ d b v : Code, Alone s st t ∧ SrcG b ∧ SrcV t v ∧ t.holds d.toNat = false) :=
  ⟨⟨lone holder, holder, true, 47, 10, 7, 1, lone_alone _ rfl, g47.1, sg 10, by decide, by decide +kernel, by decide +kernel, by decide +kernel,
      by decide +kernel⟩,
   ⟨lone holder, holder, true, 47, 11, 7, lone_alone _ rfl, g47.1, sg 11, by decide, by decide +kernel, by decide +kernel⟩,
   ⟨lone holder, holder, true, 47, 57, 7, lone_alone _ rfl, g47.1, g57, by decide, by decide +kernel⟩,
   ⟨lone full, full, true, 57, 11, lone_alone _ rfl, g57, sg 11, by decide +kernel, by decide +kernel, by decide +kernel, by decide +kernel, rfl⟩,
   ⟨lone carrier, carrier, true, 57, 12, lone_alone _ rfl, g57, sg 12, by decide +kernel, by decide +kernel, by decide +kernel, rfl, rfl⟩,
   ⟨lone full, full, true, 15, 47, 57, 57, lone_alone _ rfl, g57, .inr (.inr rfl), by decide +kernel, by decide +kernel, .inl (by decide), rfl, rfl,
     busy_room 4 (by decide)⟩,
   ⟨lone holder, holder, true, 63, 57, 57, lone_alone _ rfl, g57, .inr (.inr rfl), by decide +kernel⟩⟩

/-- A task with all banks, two full entries in ring 15, and select bytes of 0x10. -/
def matrix : Task := { full with n := full.n.set 15 { base := 0xF000000000, size := 6144, count := 2, full := 2 },
                                 q := Vector.replicate 8 (BitVec.ofNat 256 (packElems 1 (fun _ => 0x10) 32)) }

theorem witness_MatrixIssueResults :
    (∃ s t st, ∃ d a b : Code, ∃ f : MmaFmt, ∃ x y, Alone s st t ∧ t.holds d.toNat = true ∧ OperandReady s t a x 0 16 192 ∧
      OperandReady s t b y (if !x && !y && a == b then 1 else 0) 32 192 ∧ f = .f64 ∧ d.toNat % 2 = 0 ∧ t.holds (d.toNat + 1) = true ∧ x = true) ∧
    (∃ s t st, ∃ d a b : Code, ∃ x y, ∃ q : BitVec 3, Alone s st t ∧ t.holds d.toNat = true ∧ x = false ∧ OperandReady s t a x 0 16 192 ∧
      OperandReady s t b y (if !x && !y && a == b then 1 else 0) 32 192 ∧ OperandReady s t a false 0 16 384 ∧
      OperandReady s t b y (if !false && !y && a == b then 1 else 0) 32 64 ∧ badSelect (selectBytes t q.toNat) = none) := by
  refine ⟨⟨lone matrix, matrix, true, 62, 4, 57, .f64, true, true, lone_alone _ rfl, by decide +kernel, ?_, ?_, rfl, by decide,
    by decide +kernel, rfl⟩, ⟨lone matrix, matrix, true, 63, 15, 15, false, false, 5, lone_alone _ rfl, by decide +kernel, rfl, ?_, ?_, ?_, ?_,
    by decide +kernel⟩⟩
  · exact ⟨sg 4, by decide +kernel⟩
  · exact ⟨g57, by decide +kernel⟩
  all_goals exact ⟨by decide, by decide, by decide +kernel, by decide +kernel, entryPoison_clean rfl _ _ _ _, fun o h => by cases h⟩

theorem witness_TensorSupportResults :
    (∃ s t st, ∃ d v w a b : Code, ∃ n, Alone s st t ∧ SrcV t v ∧ SrcV t w ∧ SrcG a ∧ SrcG b ∧ d.toNat < 8 ∧ s.bundle.sel = some n) ∧
    (∃ s t st, ∃ d : Code, ∃ i : BitVec 18, ∃ n places fills, Alone s st t ∧ d.toNat < 8 ∧ s.bundle.sel = none ∧ places ≠ [] ∧
      (∀ p ∈ places, Plain s p.1 p.2.1) ∧
      codeReadIn s { fetchCodeCtx s.cur t with req := 0 } t (BitVec.ofInt 64 (s.bundle.addr.toNat + 4 * i.toInt)) 32 =
        .ok (n, places, fills, [])) ∧
    (∃ s t st, ∃ d a b : Code, ∃ f : WbFmt, ∃ l fills, Alone s st t ∧ SrcG a ∧ SrcG b ∧ t.holds d.toNat = true ∧ f = .f64 ∧ d.toNat % 2 = 0 ∧
      t.holds (d.toNat + 1) = true ∧ (rdG s.cur t a).toNat % 32 = 0 ∧ (rdG s.cur t b).toNat % 32 = 0 ∧
      placeAll s { slotCtx s.cur t with slotL := false } .write (wbRows (rdG s.cur t a) (rdG s.cur t b) (32 * wbBytes f)) = .ok (l, fills) ∧
      (∀ x ∈ l, regionOf s x.1 ≠ .peer) ∧ InOrder s t (l.map fun x => x.2.2)) := by
  have h2 : okWith (fun r => decide (r.2.2.2 = []) && r.2.1 != [] && r.2.1.all fun p => plainAt (lone coded) p.1 p.2.1) (codeReadIn
      (lone coded) { fetchCodeCtx (lone coded).cur coded with req := 0 } coded
      (BitVec.ofInt 64 ((lone coded).bundle.addr.toNat + 4 * (-4 : BitVec 18).toInt)) 32) = true := by decide +kernel
  have h3 : okWith (fun r => r.1.all fun x => decide (regionOf (lone matrix) x.1 ≠ .peer)) (placeAll (lone matrix)
      { slotCtx (lone matrix).cur matrix with slotL := false } .write
      (wbRows (rdG (lone matrix).cur matrix 4) (rdG (lone matrix).cur matrix 57) (32 * wbBytes .f64))) = true := by decide +kernel
  obtain ⟨⟨n, p, f2, q⟩, h2, hq⟩ := okWith_elim h2
  simp only [Bool.and_eq_true, decide_eq_true_eq, bne_iff_ne, List.all_eq_true] at hq
  obtain ⟨⟨rfl, hn⟩, hp⟩ := hq
  obtain ⟨⟨l, f3⟩, h3, h4⟩ := okWith_elim h3
  refine ⟨⟨{ lone {} with bundle := { (lone {}).bundle with sel := some 1 } }, _, true, 7, 57, 57, 57, 57, 1, ⟨rfl, rfl, rfl, rfl, rfl, rfl⟩,
      .inr (.inr rfl), .inr (.inr rfl), g57, g57, by decide, rfl⟩,
    ⟨lone coded, coded, true, 0, -4, n, p, f2, lone_alone _ rfl, by decide, rfl, hn, fun x hx => plain_of (hp x hx), h2⟩,
    ⟨lone matrix, matrix, true, 62, 4, 57, .f64, l, f3, lone_alone _ rfl, sg 4, g57, by decide +kernel, rfl, by decide, by decide +kernel,
      by decide +kernel, by decide +kernel, h3, fun x hx => ?_, fun _ => rfl⟩⟩
  have := List.all_eq_true.mp h4 x hx
  simpa using this

/-- A task with descriptors of rings and streams to load in its registers, and one full ring. -/
def loader : Task :=
  { withG viewer [(10, 0x10100), (11, 512)] with n := viewer.n.set 15 { base := 0xF000000000, size := 256, count := 1, full := 1 } }

theorem loader_alone : Alone (near loader) true loader := ⟨rfl, rfl, rfl, rfl, rfl, rfl⟩

theorem witness_RingResults :
    (∃ s t st, ∃ d a b : Code, Alone s st t ∧ d.toNat < 16 ∧ SrcG a ∧ SrcG b ∧ (t.ring d.toNat).resv = [] ∧ targeted s s.key 3 d.toNat = false ∧
      (t.z[d.toNat]?.getD {}).resv = [] ∧ targeted s s.key 4 d.toNat = false ∧ accessWaits s t true [] = [] ∧ (rdG s.cur t b).toNat = 0) ∧
    (∃ s t st, ∃ d a b : Code, Alone s st t ∧ d.toNat < 16 ∧ SrcG a ∧ SrcG b ∧ (t.ring d.toNat).resv = [] ∧ targeted s s.key 3 d.toNat = false ∧
      accessWaits s t true [] = [] ∧ (rdG s.cur t a).toNat % 256 = 0 ∧ (rdG s.cur t b).toNat % 2 ^ 16 % 256 = 0 ∧ (rdG s.cur t b).toNat < 2 ^ 32 ∧
      0 < (rdG s.cur t b).toNat / 2 ^ 16 % 2 ^ 16 ∧ 0 < (rdG s.cur t b).toNat % 2 ^ 16 ∧ (rdG s.cur t b).toNat % 2 ^ 16 ≤ 16384 ∧
      spanInWindow s s.cur t (rdG s.cur t a) ((rdG s.cur t b).toNat % 2 ^ 16 * ((rdG s.cur t b).toNat / 2 ^ 16 % 2 ^ 16)) = true) ∧
    (∃ s t st, ∃ d a b : Code, Alone s st t ∧ d.toNat < 16 ∧ SrcG a ∧ SrcG b ∧ (t.z[d.toNat]?.getD {}).resv = [] ∧
      targeted s s.key 4 d.toNat = false ∧ accessWaits s t true [] = [] ∧ (rdG s.cur t a).toNat % 256 = 0 ∧ (rdG s.cur t b).toNat % 256 = 0 ∧ 0 < (rdG s.cur t b).toNat ∧
      (rdG s.cur t b).toNat ≤ 65536 ∧ spanInWindow s s.cur t (rdG s.cur t a) (rdG s.cur t b).toNat = true) ∧
    (∃ s t st, ∃ d a c : Code, Alone s st t ∧ d.toNat < 16 ∧ (t.ring d.toNat).size ≠ 0 ∧ 1 ≤ (t.ring d.toNat).full ∧
      (∀ o ∈ t.arrayQ, o.a.stuck = false ∧ o.b.stuck = false) ∧ DstG c ∧ a.toNat < 16) :=
  ⟨⟨near loader, loader, true, 0, 7, 57, loader_alone, by decide, sg 7, g57, by decide +kernel, by decide +kernel, by decide +kernel,
      rfl, by decide +kernel, by decide +kernel⟩,
   ⟨near loader, loader, true, 15, 7, 10, loader_alone, by decide, sg 7, sg 10, by decide +kernel, by decide +kernel, rfl, by decide +kernel,
     by decide +kernel, by decide +kernel, by decide +kernel, by decide +kernel, by decide +kernel, by decide +kernel⟩,
   ⟨near loader, loader, true, 15, 7, 11, loader_alone, by decide, sg 7, sg 11, by decide +kernel, by decide +kernel, rfl, by decide +kernel,
     by decide +kernel, by decide +kernel, by decide +kernel, by decide +kernel⟩,
   ⟨near loader, loader, true, 15, 15, 47, loader_alone, by decide, by decide +kernel, by decide +kernel, (fun o h => by cases h), g47.1, by decide⟩⟩

/-- A task whose oldest array operation works on banks 62 and 63 and has two operands read. -/
def tiling (k : ArrayKind) (a b : Oper) : Task := { full with cycle := 10, arrayQ := [{ kind := k, bank := 62, a := a, b := b }] }
def operand (n : Nat) : Oper := { src := .handle 0x8000 192, rows := 16, len := 192, data := some n }
def contraction (type : Nat) : SctrJob :=
  { ya := BitVec.ofNat 512 (type * 256), yb := 0, yc := 0, block := 0, baseA := 0, baseB := 0, ready := true }

/-- The oldest array operation of a task that no replay stops. -/
def Oldest (s : State) (core slot : Nat) (t : Task) (op : ArrayOp) (rest : List ArrayOp) : Prop :=
  s.task (taskKey core slot) = some t ∧ t.arrayStop = none ∧ t.arrayQ = op :: rest ∧ op.a.stuck = false ∧ op.b.stuck = false

theorem witness_ArrayFinishResults :
    (∃ i j : Nat, i < 16 ∧ j < 32) ∧
    (∀ k ∈ [ArrayKind.mma .i8, .mma .f64, .sparse .e4m3, .scaled .e2m1, .ternary], ∃ s core slot t op rest x y o p, Oldest s core slot t op rest ∧
      needPlaced s t.fetched (opPlaces s (fetchCtx core t op) op).1 = [] ∧
      operFetch s (s.asBefore op) (fetchCtx core t op) t.fetched op.a = .ok o ∧ o.data = some x ∧
      operFetch s (s.asBefore op) (fetchCtx core t op) t.fetched op.b = .ok p ∧ p.data = some y ∧ op.kind = k ∧ op.cyc + 10 ≤ t.cycle) ∧
    (∀ n ∈ [1, 7], ∃ s core slot t op rest job, Oldest s core slot t op rest ∧ op.kind = .sctr job ∧ job.ready = true ∧ op.a = {} ∧ op.b = {} ∧
      symType job.ya = n) ∧
    (∃ s core slot t op rest f p rows, Oldest s core slot t op rest ∧ op.kind = .wb f p rows ∧ op.again = false ∧ op.kept = [] ∧
      op.a.data ≠ none ∧ op.b = {} ∧ ∀ r ∈ rows, Plain s r.1 r.2) := by
  refine ⟨⟨15, 31, by decide, by decide⟩, fun k hk => ?_, fun n hn => ?_, ?_⟩
  · refine ⟨lone (tiling k (operand 5) (operand 7)), 0, 0, _, _, [], 5, 7, _, _, ⟨rfl, rfl, rfl, rfl, rfl⟩, ?_, rfl, rfl, rfl, rfl, rfl, Nat.le_refl 10⟩
    rcases k with _ | _ | _ | _ | _ | _ | _ | _ <;> first | rfl | simp at hk
  · refine ⟨lone (tiling (.sctr (contraction n)) {} {}), 0, 0, _, _, [], _, ⟨rfl, rfl, rfl, rfl, rfl⟩, rfl, rfl, rfl, rfl, ?_⟩
    simp only [List.mem_cons, List.not_mem_nil, or_false] at hn
    rcases hn with rfl | rfl <;> decide +kernel
  · refine ⟨lone (tiling (.wb .f64 none [(0x8000, 256)]) (operand 0) {}), 0, 0, _, _, [], _, _, _, ⟨rfl, rfl, rfl, rfl, rfl⟩, rfl, rfl, rfl,
      nofun, rfl, fun r hr => ?_⟩
    rw [List.mem_singleton] at hr
    subst hr
    exact plain_lone _ (by decide) (by decide)

/-- A descriptor that moves one element of four bytes in device memory. -/
def moveOne : Nat := 0x8000008000 + 0x8000009000 * 2 ^ 64 + 0x0101010100010001 * 2 ^ 128 + 2 * 2 ^ 448

/-- A state with that descriptor in memory, in a group of one task. -/
def engine (t : Task) : State := { stored moveOne t with groups := [(0, { cores := [0] })] }

theorem engine_alone (t : Task) (h : t.poison = []) : Alone (engine t) true t := ⟨rfl, rfl, rfl, rfl, h, rfl⟩

/-- A task with a handle of a collective in register 10, and a command word for bank 63 in register 12. -/
def issuer : Task := withG full [(10, 0x800000001), (12, 0x41000000 + 63 * 2 ^ 18 + 4 * 2 ^ 12 + 57 * 2 ^ 6 + 6)]

/-- The command that an engine slot issues, with its descriptor at `pa`. -/
def command (s : State) (t : Task) (a b : Code) (pa op bank : Nat) (f : Option Follow) : Cmd :=
  { desc := if op = 0x49 then withArg (block s pa) (rdG s.cur t b) else block s pa, bop := rdG s.cur t b, op := op, bank := bank, follow := f,
    uid := t.uid, gid := t.gid, i0 := t.i0, core := s.cur, troot := t.troot, tasid := t.tasid, dva := rdG s.cur t a, priv := t.sup }

/-- The follow-on of a command word. -/
def followOn (s : State) (t : Task) (b : Code) : Follow :=
  let w := (rdG s.cur t b).toNat
  { word := w % 2 ^ 32, ga := rdG s.cur t (BitVec.ofNat 6 (w / 2 ^ 12)), gb := rdG s.cur t (BitVec.ofNat 6 (w / 2 ^ 6)),
    sel := selectBytes t (w / 2 % 8) }

/-- A task with an error on channel 1, and a state whose publish entry 63 belongs to its address space. -/
def mistaken : Task := { withG viewer [(10, 63), (11, 2 ^ 17 - 1)] with chst := (Vector.replicate 2 0).set 1 0x1500000000 }
def published : State := { lone mistaken with regs := { State.reset.regs with pubs := (Vector.replicate 64 {}).set 63 { ctl := 1 } } }

theorem published_alone : Alone published true mistaken := ⟨rfl, rfl, rfl, rfl, rfl, rfl⟩

theorem witness_CommandAndChannelResults :
    (∃ s t st, ∃ a b : Code, ∃ k : Bool, ∃ pa leaf fills, Alone s st t ∧ Idle t ∧ SrcG a ∧ SrcG b ∧ Plain s pa 64 ∧ InOrder s t [leaf] ∧
      orderedPlace s s.cur t .read 64 (rdG s.cur t a) = .ok ([(pa, 64, leaf)], fills) ∧
      ((s.core s.cur).chan (if k then 1 else 0)).queue.length < 32 ∧ Quiet s t ∧ cmdFault s t (command s t a b pa 0x49 0 none) = none ∧
      cmdFault s t (command s t a b pa 0x4B 0 none) = none) ∧
    (∃ s t st, ∃ a b : Code, ∃ k : Bool, ∃ pa leaf fills, Alone s st t ∧ Idle t ∧ SrcG a ∧ SrcG b ∧ Plain s pa 64 ∧ InOrder s t [leaf] ∧
      orderedPlace s s.cur t .read 64 (rdG s.cur t a) = .ok ([(pa, 64, leaf)], fills) ∧
      ((s.core s.cur).chan (if k then 1 else 0)).queue.length < 32 ∧ Quiet s t ∧ cmdFault s t (command s t a b pa 0x4C 0 none) = none) ∧
    (∃ s t st, ∃ d a b : Code, ∃ k : Bool, ∃ pa leaf fills, Alone s st t ∧ Idle t ∧ SrcG a ∧ SrcG b ∧ Plain s pa 64 ∧ InOrder s t [leaf] ∧
      orderedPlace s s.cur t .read 64 (rdG s.cur t a) = .ok ([(pa, 64, leaf)], fills) ∧
      ((s.core s.cur).chan (if k then 1 else 0)).queue.length < 32 ∧ Quiet s t ∧ t.holds d.toNat = true ∧
      wordFault s.cur t (rdG s.cur t b).toNat d.toNat = none ∧
      cmdFault s t (command s t a b pa 0x4A d.toNat (some (followOn s t b))) = none) ∧
    (∃ s t st, ∃ k : Bool, Alone s st t ∧ t.stall = none ∧ channelBusy s s.cur (if k then 1 else 0) s.nextId = false ∧
      Quiet s t ∧ (t.chst[if k then 1 else 0]?.getD 0).toNat / 2 ^ 32 % 2 ^ 8 = 0) ∧
    (∃ s t st, ∃ k : Bool, Alone s st t ∧ t.stall = none ∧ channelBusy s s.cur (if k then 1 else 0) s.nextId = false ∧
      Quiet s t ∧ (t.chst[if k then 1 else 0]?.getD 0).toNat / 2 ^ 32 % 2 ^ 8 ≠ 0) ∧
    (∃ s t st, ∃ a : Code, ∃ e, Alone s st t ∧ SrcG a ∧ Idle t ∧ commandsLeft s t.uid = false ∧ s.regs.pubs[(rdG s.cur t a).toNat]? = some e ∧
      e.ctl.getLsbD 0 = true ∧ e.ctl.toNat / 2 ^ 32 % 2 ^ 16 = t.tasid.toNat % 2 ^ 16) ∧
    (∃ s t st, ∃ d a : Code, Alone s st t ∧ SrcG a ∧ (rdG s.cur t a).toNat < 2 ^ 17 ∧ DstG d) := by
  have h1 : okWith (onePlace 0x8000 64) (orderedPlace (engine issuer) (engine issuer).cur issuer .read 64 (rdG (engine issuer).cur issuer 4)) = true := by
    decide +kernel
  obtain ⟨l1, f1, h1⟩ := placed h1
  have p := plain_of (s := engine issuer) (pa := 0x8000) (n := 64) (by decide +kernel)
  refine ⟨⟨engine issuer, issuer, true, 4, 57, false, 0x8000, l1, f1, engine_alone _ rfl, ⟨rfl, rfl⟩, sg 4, g57, p, fun _ => rfl, h1, ?_, nofun, ?_, ?_⟩,
    ⟨engine issuer, issuer, true, 4, 10, true, 0x8000, l1, f1, engine_alone _ rfl, ⟨rfl, rfl⟩, sg 4, sg 10, p, fun _ => rfl, h1, ?_, nofun, ?_⟩,
    ⟨engine issuer, issuer, true, 63, 4, 12, true, 0x8000, l1, f1, engine_alone _ rfl, ⟨rfl, rfl⟩, sg 4, sg 12, p, fun _ => rfl, h1, ?_, nofun, ?_, ?_, ?_⟩,
    ⟨published, mistaken, true, false, published_alone, rfl, ?_, nofun, ?_⟩, ⟨published, mistaken, true, true, published_alone, rfl, ?_, nofun, ?_⟩,
    ⟨published, mistaken, true, 10, { ctl := 1 }, published_alone, sg 10, ⟨rfl, rfl⟩, ?_, ?_, ?_, ?_⟩,
    ⟨published, mistaken, true, 47, 11, published_alone, sg 11, ?_, g47.1⟩⟩ <;> decide +kernel

/-- A task with counts and handles in registers 10 to 15. -/
def poster : Task := withG viewer [(10, 2 ^ 32 - 1), (11, 511), (12, 2 ^ 32), (13, 65535), (14, 2 ^ 40 - 1)]

/-- A core with a count of 2047 in flag 31 and an overflow in flag 0, all cores serving launch 0, and a group with one barrier that has completed a phase. -/
def posting : State :=
  { lone poster with cores := [(0, { flags := ((Vector.replicate 32 {}).set 31 { value := 2047 }).set 0 { value := 1, ovf := true }, serves := some 0 }), (511, { serves := some 0 })],
                     groups := [(0, { barriers := [{ phase := 1 }] })] }

theorem posting_alone : Alone posting true poster := ⟨rfl, rfl, rfl, rfl, rfl, rfl⟩

theorem witness_FlagAndBarrierResults :
    (∃ s t st, ∃ d a : Code, ∃ i : BitVec 12, Alone s st t ∧ d.toNat < 32 ∧ SrcG a ∧ 0 < (rdG s.cur t a).toNat + i.toNat ∧
      (rdG s.cur t a).toNat + i.toNat < 2 ^ 32 ∧ ((s.core s.cur).flag d.toNat).ovf = false ∧
      (rdG s.cur t a).toNat + i.toNat ≤ ((s.core s.cur).flag d.toNat).value ∧
      (∀ w, (s.core s.cur).waiters.find? (fun w => w.1 == d.toNat) = some w → w.2 = s.bundle.slot)) ∧
    (∃ s t st, ∃ d a : Code, ∃ i : BitVec 12, Alone s st t ∧ d.toNat < 32 ∧ SrcG a ∧ 0 < (rdG s.cur t a).toNat + i.toNat ∧
      (rdG s.cur t a).toNat + i.toNat < 2 ^ 32 ∧ ((s.core s.cur).flag d.toNat).ovf = true ∧
      (d.toNat, s.bundle.slot) ∉ (s.core s.cur).waiters) ∧
    (∃ s t st, ∃ d a : Code, ∃ i : BitVec 12, Alone s st t ∧ d.toNat < 32 ∧ SrcG a ∧ Idle t ∧ (rdG s.cur t a).toNat + i.toNat = 0) ∧
    (∃ s t st, ∃ d a : Code, ∃ i : BitVec 12, Alone s st t ∧ d.toNat < 32 ∧ SrcG a ∧ Idle t ∧ (rdG s.cur t a).toNat + i.toNat = 2 ^ 32 - 1) ∧
    (∃ s t st, ∃ d a : Code, ∃ i : BitVec 12, Alone s st t ∧ d.toNat < 32 ∧ SrcG a ∧ (rdG s.cur t a).toNat + i.toNat = 2 ^ 32) ∧
    (∃ s t st, ∃ d a b : Code, Alone s st t ∧ d.toNat < 32 ∧ SrcG a ∧ SrcG b ∧ Idle t ∧ (rdG s.cur t b).toNat = 2 ^ 32 - 1 ∧
      (rdG s.cur t a).toNat = 511 ∧ (s.core (rdG s.cur t a).toNat).serves = some t.launch) ∧
    (∃ s t st, ∃ d a b : Code, Alone s st t ∧ SrcG a ∧ SrcG b ∧ (rdG s.cur t a).toNat < (s.group t.gid).barriers.length ∧
      (rdG s.cur t a).toNat < 512 ∧ Idle t ∧ DstG d ∧ 0 < (rdG s.cur t b).toNat ∧
      (rdG s.cur t b).toNat ≤ 65535 ∧
      (let c := barJoin s t.gid (rdG s.cur t a).toNat [] [(rdG s.cur t b).toNat] [] []
       (barCycle c.inits [] [] [] c.base).arrived + c.arrivals.sum = 65535)) ∧
    (∃ s t st, ∃ d a b : Code, Alone s st t ∧ SrcG a ∧ SrcG b ∧ (rdG s.cur t a).toNat < (s.group t.gid).barriers.length ∧
      (rdG s.cur t a).toNat < 512 ∧ Idle t ∧ DstG d ∧ (rdG s.cur t b).toNat = 2 ^ 40 - 1 ∧
      (barJoin s t.gid (rdG s.cur t a).toNat [] [] [] [(rdG s.cur t b).toNat]).outcome.pending = 2 ^ 40 - 1) ∧
    (∃ s t st, ∃ d a b : Code, Alone s st t ∧ SrcG a ∧ SrcG b ∧ (rdG s.cur t a).toNat < (s.group t.gid).barriers.length ∧
      (rdG s.cur t a).toNat < 512 ∧ d.toNat < 8 ∧ ((s.group t.gid).barrier (rdG s.cur t a).toNat).ovr = false ∧
      (((s.group t.gid).barrier (rdG s.cur t a).toNat).phase + 2 ^ 32 - (rdG s.cur t b).toNat % 2 ^ 32) % 2 ^ 32 = 1) ∧
    (∃ (s : State) (gid b : Nat), b < (s.group gid).barriers.length) ∧
    (∃ (b : Barrier) (n : Nat) (a : List Nat), 1 ≤ b.target ∧ b.pending = 0 ∧ b.pending < n ∧ b.target ≤ b.arrived + a.sum) ∧
    (∃ b : Barrier, 1 ≤ b.target ∧ b.pending ≠ 0 ∧ b.target ≤ b.arrived) := by
  refine ⟨⟨posting, poster, true, 31, 57, 2047, posting_alone, ?_, g57, ?_, ?_, ?_, ?_, nofun⟩,
    ⟨posting, poster, true, 0, 57, 1, posting_alone, ?_, g57, ?_, ?_, ?_, ?_⟩,
    ⟨posting, poster, true, 31, 57, 0, posting_alone, ?_, g57, ⟨rfl, rfl⟩, ?_⟩, ⟨posting, poster, true, 31, 10, 0, posting_alone, ?_, sg 10, ⟨rfl, rfl⟩, ?_⟩,
    ⟨posting, poster, true, 31, 10, 1, posting_alone, ?_, sg 10, ?_⟩,
    ⟨posting, poster, true, 31, 11, 10, posting_alone, ?_, sg 11, sg 10, ⟨rfl, rfl⟩, ?_, ?_, ?_⟩,
    ⟨posting, poster, true, 47, 57, 13, posting_alone, g57, sg 13, ?_, ?_, ⟨rfl, rfl⟩, g47.1, ?_, ?_, ?_⟩,
    ⟨posting, poster, true, 47, 57, 14, posting_alone, g57, sg 14, ?_, ?_, ⟨rfl, rfl⟩, g47.1, ?_, ?_⟩,
    ⟨posting, poster, true, 7, 57, 57, posting_alone, g57, g57, ?_, ?_, ?_, ?_, ?_⟩,
    ⟨posting, 0, 0, ?_⟩, ⟨{ target := 65535, arrived := 65534 }, 1, [1, 65535], ?_, ?_, ?_, ?_⟩, ⟨{ target := 2, arrived := 5, pending := 1 }, ?_, ?_, ?_⟩⟩ <;> decide +kernel

/-- Queue 131071 open to tasks, with room for one packet. -/
def queued : State := { lone (withG viewer [(10, 131071), (11, 131072)]) with mem := memPut (64 * 131071 + 0x18) 0x400000 8 (placeMem 0 []) }

theorem queued_alone : Alone queued true (withG viewer [(10, 131071), (11, 131072)]) := ⟨rfl, rfl, rfl, rfl, rfl, rfl⟩

theorem witness_OrderAndLaunchResults :
    (∃ (s : State) (t : Task) (st : Bool) (a : Code), Alone s st t ∧ Idle t ∧ SrcG a ∧ Quiet s t) ∧
    (∃ s t st, ∃ a b : Code, ∃ pa leaf fills, Alone s st t ∧ Idle t ∧ SrcG a ∧ SrcG b ∧ Plain s pa 128 ∧ InOrder s t [leaf] ∧ (rdG s.cur t b).toNat < queueCount ∧
      queueDev s (rdG s.cur t b).toNat = true ∧
      (wrIdx s (rdG s.cur t b).toNat + 2 ^ 64 - rdIdx s (rdG s.cur t b).toNat) % 2 ^ 64 < queueCap s (rdG s.cur t b).toNat ∧
      orderedPlace s s.cur t .read 128 (rdG s.cur t a) = .ok ([(pa, 128, leaf)], fills)) ∧
    (∃ s t st, ∃ a b : Code, ∃ pa leaf, Alone s st t ∧ Idle t ∧ SrcG a ∧ SrcG b ∧ Plain s pa 128 ∧ InOrder s t [leaf] ∧ (rdG s.cur t b).toNat ≥ queueCount) ∧
    (∃ s t st, ∃ a b : Code, ∃ pa leaf, Alone s st t ∧ Idle t ∧ SrcG a ∧ SrcG b ∧ Plain s pa 128 ∧ InOrder s t [leaf] ∧ queueDev s (rdG s.cur t b).toNat = false) := by
  have h : okWith (onePlace 0x8000 128) (orderedPlace queued queued.cur (withG viewer [(10, 131071), (11, 131072)]) .read 128
      (rdG queued.cur (withG viewer [(10, 131071), (11, 131072)]) 4)) = true := by decide +kernel
  obtain ⟨l, f, h⟩ := placed h
  have p := plain_of (s := queued) (pa := 0x8000) (n := 128) (by decide +kernel)
  exact ⟨⟨lone viewer, viewer, true, 57, viewer_lone, ⟨rfl, rfl⟩, g57, nofun⟩,
    ⟨queued, withG viewer [(10, 131071), (11, 131072)], true, 4, 10, 0x8000, l, f, queued_alone, ⟨rfl, rfl⟩, sg 4, sg 10, p, fun _ => rfl, by decide +kernel,
      by decide +kernel, by decide +kernel, h⟩,
    ⟨queued, withG viewer [(10, 131071), (11, 131072)], true, 4, 11, 0x8000, 0, queued_alone, ⟨rfl, rfl⟩, sg 4, sg 11, p, fun _ => rfl, by decide +kernel⟩,
    ⟨queued, withG viewer [(10, 131071), (11, 131072)], true, 4, 57, 0x8000, 0, queued_alone, ⟨rfl, rfl⟩, sg 4, g57, p, fun _ => rfl, by decide +kernel⟩⟩

/-- A task that holds bank 63 with an element of 1.0, and a solve of one bank from it: open, with a ceiling of one or two iterates. -/
def solver (ceil : Nat) (x : Bank) : Task :=
  { withG viewer [(10, 0x1013F), (11, 0x3F800000), (12, 3)] with
    acc := viewer.acc.set 63 (some x), slv := { code := .opened, ctl := BitVec.ofNat 64 (63 + ceil * 2 ^ 16), mix := 0x3F800000 } }

/-- Solves before their region, in it and outside one. -/
def configured (c : SlvCode) : Task := { solver 1 0 with slv := { (solver 1 0).slv with code := c, start := 0x3080 } }

/-- What a solve step starts from and gives. -/
def member (s : State) (t : Task) : Member := (t, (s.core s.cur).hist)
def converged (s : State) (t : Task) : Bool :=
  fvLt (fvOf .f64 (solveNorm [member s t]).1) (fvOf .f64 t.slv.tau.toNat) || fvEq (fvOf .f64 (solveNorm [member s t]).1) (fvOf .f64 t.slv.tau.toNat)

/-- The conditions under which `slv.end` takes its step. -/
def Stepping (s : State) (t : Task) : Prop :=
  Idle t ∧ t.loops = [] ∧ holdsControl s.bundle = false ∧ t.slv.code = .opened ∧ (s.core s.cur).histBad = [] ∧
    (∀ i, i < solveBanks t.slv → banksBusy s t (solveFirst t.slv + i) 1 = false) ∧ ∀ sg, fvOf .f64 (solveNorm [member s t]).1 ≠ .nan sg

/-- The norm of the residual is a number, and the solve has converged or not. -/
def normIs (b : Bool) (s : State) (t : Task) : Bool :=
  decide (∀ sg, fvOf .f64 (solveNorm [member s t]).1 ≠ .nan sg) && (converged s t == b)

theorem normIs_elim {b : Bool} {s : State} {t : Task} (h : normIs b s t = true) :
    (∀ sg, fvOf .f64 (solveNorm [member s t]).1 ≠ .nan sg) ∧ converged s t = b := by
  simpa only [normIs, Bool.and_eq_true, decide_eq_true_eq, beq_iff_eq] using h

/-- A state whose bundle is the word of a vector slot. -/
def plainWord (t : Task) : State := { lone t with bundle := { (lone t).bundle with words := [0x4F1C5E0C], code := [0x4F1C5E0C] } }

theorem plainWord_alone (t : Task) (h : t.poison = []) : Alone (plainWord t) true t := ⟨rfl, rfl, rfl, rfl, h, rfl⟩

/-- A solve whose first column of history is poisoned, or is not. -/
def struckHist (bad : Bool) : State := { lone (configured .ready) with cores := [(0, { histBad := if bad then [0] else [] })] }

theorem witness_SolveResults :
    (∃ s t st, ∃ d a b : Code, Alone s st t ∧ SrcG d ∧ SrcG a ∧ SrcG b ∧ cfgMisuse t (rdG s.cur t a) (rdG s.cur t b) = none ∧
      t.slv.code = .idle ∧ (s.core s.cur).histOwner = none ∧ ∀ g ∈ s.gone, g.core = s.cur → g.marked = true → g.hist = false) ∧
    (∃ s t st, Alone s st t ∧ Idle t ∧ t.loops = [] ∧ t.slv.code = .ready) ∧
    (∃ s t st, Alone s st t ∧ Idle t ∧ t.loops = [] ∧ t.slv.code = .looping ∧ s.bundle.addr = t.slv.start) ∧
    (∃ s t st, Alone s st t ∧ t.loops = [] ∧ t.slv.code = .idle) ∧
    (∃ s t st, ∃ d : Code, Alone s st t ∧ d.toNat < 8 ∧ Stepping s t ∧ converged s t = true) ∧
    (∃ s t st, ∃ d : Code, Alone s st t ∧ d.toNat < 8 ∧ Stepping s t ∧ converged s t = false ∧ t.slv.k + 1 = solveCeil t.slv) ∧
    (∃ s t st, ∃ d : Code, Alone s st t ∧ d.toNat < 8 ∧ Stepping s t ∧ converged s t = false ∧ t.slv.k + 1 ≠ solveCeil t.slv ∧
      (∀ g ∈ solveGamma (min t.slv.k (solveDepth t.slv)) [member s t] (solveLambda t.slv), isFinite g = true)) ∧
    (∃ s t st, ∃ d a b : Code, Alone s st t ∧ SrcG a ∧ SrcG b ∧ DstG d ∧ DstV t d ∧ t.slv.code ≠ .idle) ∧
    (∀ poison : Bool, ∃ s t st, ∃ d a b : Code, Alone s st t ∧ SrcG a ∧ SrcG b ∧ DstV t d ∧ t.slv.code ≠ .idle ∧
      (rdG s.cur t a).toNat < 2 * (solveDepth t.slv + 1) ∧ (rdG s.cur t b).toNat < 8 * solveBanks t.slv ∧
      decide (∃ x ∈ (s.core s.cur).histBad, x / solveBanks t.slv = (rdG s.cur t a).toNat) = poison) := by
  obtain ⟨a1, b1⟩ := normIs_elim (b := true) (s := plainWord (solver 1 0)) (t := solver 1 0) (by decide +kernel)
  obtain ⟨a2, b2⟩ := normIs_elim (b := false) (s := plainWord (solver 1 0x3F800000)) (t := solver 1 0x3F800000) (by decide +kernel)
  obtain ⟨a3, b3⟩ := normIs_elim (b := false) (s := plainWord (solver 2 0x3F800000)) (t := solver 2 0x3F800000) (by decide +kernel)
  refine ⟨⟨lone (configured .idle), _, true, 57, 10, 11, lone_alone _ rfl, g57, sg 10, sg 11, ?_, ?_, ?_, nofun⟩,
    ⟨lone (configured .ready), _, true, lone_alone _ rfl, ⟨rfl, rfl⟩, rfl, rfl⟩,
    ⟨lone (configured .looping), _, true, lone_alone _ rfl, ⟨rfl, rfl⟩, rfl, rfl, rfl⟩,
    ⟨lone (configured .idle), _, true, lone_alone _ rfl, rfl, rfl⟩,
    ⟨plainWord (solver 1 0), _, true, 7, plainWord_alone _ rfl, by decide, ⟨⟨rfl, rfl⟩, rfl, ?_, rfl, rfl, ?_, a1⟩, b1⟩,
    ⟨plainWord (solver 1 0x3F800000), _, true, 7, plainWord_alone _ rfl, by decide, ⟨⟨rfl, rfl⟩, rfl, ?_, rfl, rfl, ?_, a2⟩, b2, ?_⟩,
    ⟨plainWord (solver 2 0x3F800000), _, true, 7, plainWord_alone _ rfl, by decide, ⟨⟨rfl, rfl⟩, rfl, ?_, rfl, rfl, ?_, a3⟩, b3, ?_, ?_⟩,
    ⟨lone (configured .ready), _, true, 47, 12, 57, lone_alone _ rfl, sg 12, g57, g47.1, .inl (by decide), ?_⟩,
    fun p => ⟨struckHist p, _, true, 47, 57, 57, ⟨rfl, rfl, rfl, rfl, rfl, rfl⟩, g57, g57, .inl (by decide), ?_, ?_, ?_, ?_⟩⟩ <;>
      first | decide +kernel | (revert p; decide +kernel)

/-- A task in its handler at supervisor privilege. -/
def inside : Task := { withG viewer [(10, 3)] with estat := 5 }

/-- The header of an image of a task with 16 vector registers. -/
def imageHeader : Nat := 0x143585431 + 16 * 2 ^ 336

/-- A state with that image in memory, in a started group. -/
def imaged : State := { stored imageHeader inside with groups := [(0, { phase := .started })] }

theorem imaged_alone : Alone imaged true inside := ⟨rfl, rfl, rfl, rfl, rfl, rfl⟩

/-- The parts of the image that `ctx.save` writes. -/
def savedParts (s : State) (t : Task) : List (Nat × Nat × Nat) :=
  let f := imageFields t
  if t.inh then imageParts t s.cur s.bundle.slot f.1 f.2.1 f.2.2.1 f.2.2.2.1 [] f.2.2.2.2 (s.core s.cur).hist
  else imageParts t s.cur s.bundle.slot 0 (s.onward t).1 t.pending t.loops [] t.trec (s.core s.cur).hist

theorem witness_ImageResults :
    (∃ s t st, ∃ a : Code, ∃ l fills, Alone s st t ∧ Idle t ∧ t.sup = true ∧ SrcG a ∧ a.toNat ≠ 56 ∧ canonical (rdG s.cur t a) = true ∧
      (rdG s.cur t a).toNat % 4096 = 0 ∧ transfersOf s t = false ∧
      placeParts s (imageCtx s.cur t) .write (rdG s.cur t a) (savedParts s t) = .ok (l, fills)) ∧
    (∃ s t st, ∃ a : Code, ∃ q, Alone s st t ∧ Idle t ∧ t.sup = true ∧ SrcG a ∧ t.inh = true ∧ canonical (rdG s.cur t a) = true ∧
      (rdG s.cur t a).toNat % 4096 = 0 ∧ loadParts s (imageCtx s.cur t) t.answers (rdG s.cur t a) = .ok q ∧ q.needs = [] ∧
      loadBad s s.cur s.bundle.slot (imageOf q.parts s.cur t) = none) ∧
    (∃ s t st, ∃ a b : Code, ∃ q, Alone s st t ∧ Idle t ∧ t.sup = true ∧ SrcG a ∧ SrcG b ∧ (rdG s.cur t b).toNat = 3 ∧
      canonical (rdG s.cur t a) = true ∧ (rdG s.cur t a).toNat % 4096 = 0 ∧
      loadParts s (imageCtx s.cur t) t.answers (rdG s.cur t a) = .ok q ∧ q.needs = [] ∧
      loadNewBad s s.cur (rdG s.cur t b).toNat (imageOf q.parts s.cur (taskOfTag s (partField q.parts 0x20 8) (partField q.parts 0x18 8))) = none) := by
  have h1 : okWith (fun _ => true) (placeParts imaged (imageCtx imaged.cur inside) .write (rdG imaged.cur inside 4) (savedParts imaged inside)) = true := by
    decide +kernel
  have h2 : okWith (fun q => decide (q.needs = []) && (loadBad imaged imaged.cur imaged.bundle.slot (imageOf q.parts imaged.cur inside)).isNone &&
      (loadNewBad imaged imaged.cur (rdG imaged.cur inside 10).toNat
        (imageOf q.parts imaged.cur (taskOfTag imaged (partField q.parts 0x20 8) (partField q.parts 0x18 8)))).isNone)
      (loadParts imaged (imageCtx imaged.cur inside) inside.answers (rdG imaged.cur inside 4)) = true := by decide +kernel
  obtain ⟨⟨l, f⟩, h1, -⟩ := okWith_elim h1
  obtain ⟨q, h2, h3⟩ := okWith_elim h2
  simp only [Bool.and_eq_true, decide_eq_true_eq, Option.isNone_iff_eq_none] at h3
  obtain ⟨⟨hq, h3⟩, h4⟩ := h3
  exact ⟨⟨imaged, inside, true, 4, l, f, imaged_alone, ⟨rfl, rfl⟩, by decide, sg 4, by decide, by decide +kernel, by decide +kernel, by decide +kernel, h1⟩,
    ⟨imaged, inside, true, 4, q, imaged_alone, ⟨rfl, rfl⟩, by decide, sg 4, by decide, by decide +kernel, by decide +kernel, h2, hq, h3⟩,
    ⟨imaged, inside, true, 4, 10, q, imaged_alone, ⟨rfl, rfl⟩, by decide, sg 4, sg 10, by decide +kernel, by decide +kernel, by decide +kernel, h2, hq, h4⟩⟩

/-- A task at supervisor privilege with a schedule of one entry to load. -/
def scheduler : Task := { withG viewer [(10, 1)] with estat := 1 }
def scheduled : State := { stored (0x80 + 2 ^ 64) scheduler with groups := [(0, { barriers := [{}], evbase := 0x8000008000 })] }

theorem scheduled_alone : Alone scheduled true scheduler := ⟨rfl, rfl, rfl, rfl, rfl, rfl⟩

/-- Where one task is resident, no other waits. -/
theorem atomsDone_one {s : State} {t : Task} (h : s.tasks = [(s.key, t)]) : AtomsDone s := by
  intro e he hk
  rw [h, List.mem_singleton] at he
  exact absurd (congrArg Prod.fst he) hk

theorem witness_ControlRegisterResults :
    (∃ s t st, ∃ d : Code, ∃ n : BitVec 12, Alone s st t ∧ SrcG d ∧ DstG d ∧ crAssigned n.toNat = true ∧ t.sup = true) ∧
    (∃ s t st, ∃ d : Code, ∃ n : BitVec 12, Alone s st t ∧ SrcG d ∧ DstG d ∧ crAssigned n.toNat = true ∧ t.sup = false ∧
      crOpen n.toNat false = true) ∧
    (∃ s t st, ∃ d : Code, ∃ n : BitVec 12, Alone s st t ∧ SrcG d ∧ crAssigned n.toNat = true ∧ crOpen n.toNat true = true ∧
      crRefused s t n.toNat (rdG s.cur t d) = false ∧ (n.toNat ≠ 0x12 ∨ rdG s.cur t d = 0) ∧
      (n.toNat = 0x10 → ∀ b ∈ banksChanged (s.group t.gid) (rdG s.cur t d), bankBusy s t.gid b = false) ∧ (n.toNat = 0x40 → AtomsDone s) ∧
      (∀ w, windowShut s n.toNat (rdG s.cur t d) = some w → aliasBusy s w = false) ∧
      ((s.opened.crApply (some s.key) n.toNat (rdG s.cur t d)).task s.key).isSome = true) ∧
    (∃ s t st, ∃ d : Code, ∃ n : BitVec 12, ∃ places fills l, Alone s st t ∧ SrcG d ∧ n.toNat = 0x12 ∧
      rdG s.cur t d ≠ 0 ∧ Idle t ∧ crRefused s t n.toNat (rdG s.cur t d) = false ∧
      schedulePlaces s s.cur t (rdG s.cur t d).toNat = .ok (places, fills) ∧ places ≠ [] ∧ (∀ p ∈ places, Plain s p.1 p.2.1) ∧
      InOrder s t (places.map fun p => p.2.2) ∧
      loadSchedule s s.cur t (rdG s.cur t d).toNat = .ok l) ∧
    (∃ s t st, ∃ d : Code, ∃ n : BitVec 12, Alone s st t ∧ SrcG d ∧ crAssigned n.toNat = true ∧ t.sup = true ∧
      crRefused s t n.toNat (rdG s.cur t d) = true) ∧
    (∃ s t st, ∃ d : Code, ∃ n : BitVec 12, Alone s st t ∧ SrcG d ∧ DstG d ∧ crAssigned n.toNat = false) ∧
    (∃ s t st, ∃ d : Code, ∃ n : BitVec 12, Alone s st t ∧ SrcG d ∧ DstG d ∧ crAssigned n.toNat = true ∧ t.sup = false ∧
      crOpen n.toNat false = false ∧ crOpen n.toNat true = false) := by
  have h0 : okWith (fun r => r.1 != [] && r.1.all fun p => plainAt scheduled p.1 p.2.1)
      (schedulePlaces scheduled scheduled.cur scheduler (rdG scheduled.cur scheduler 10).toNat) = true := by decide +kernel
  have h : okWith (fun _ => true) (loadSchedule scheduled scheduled.cur scheduler (rdG scheduled.cur scheduler 10).toNat) = true := by decide +kernel
  obtain ⟨⟨p, f⟩, h0, hp⟩ := okWith_elim h0
  simp only [Bool.and_eq_true, bne_iff_ne, List.all_eq_true] at hp
  obtain ⟨l, h, -⟩ := okWith_elim h
  exact ⟨⟨scheduled, scheduler, true, 47, 0x529, scheduled_alone, g47.2, g47.1, by decide, by decide⟩,
    ⟨lone viewer, viewer, true, 47, 0x305, viewer_lone, g47.2, g47.1, by decide, by decide, by decide⟩,
    ⟨lone viewer, viewer, true, 57, 0x12, viewer_lone, g57, by decide, by decide, by decide +kernel, .inr (by decide +kernel),
      fun h => absurd h (by decide), fun h => absurd h (by decide), nofun, by decide +kernel⟩,
    ⟨scheduled, scheduler, true, 10, 0x12, p, f, l, scheduled_alone, sg 10, by decide, by decide +kernel, ⟨rfl, rfl⟩, by decide +kernel, h0, hp.1,
      fun x hx => plain_of (hp.2 x hx), fun _ => rfl, h⟩,
    ⟨scheduled, scheduler, true, 10, 0x20, scheduled_alone, sg 10, by decide, by decide, by decide +kernel⟩,
    ⟨scheduled, scheduler, true, 47, 0xFFF, scheduled_alone, g47.2, g47.1, by decide⟩,
    ⟨lone viewer, viewer, true, 47, 0x529, viewer_lone, g47.2, g47.1, by decide, by decide, by decide, by decide⟩⟩

theorem witness_InvalidationResults :
    (∃ s t st, ∃ a b : Code, Alone s st t ∧ Idle t ∧ SrcG a ∧ SrcG b ∧ t.sup = true ∧ t.stall = none ∧ bodiesMoving s = [] ∧
      rowsQueued s = [] ∧ (∀ o ∈ s.nets.outside, o.store = none ∧ o.atomic = none) ∧ AtomsDone s ∧
      pinBad s (dieOf s.cur) (t.objid.getD 0) ((rdG s.cur t a).toNat % 2 ^ 57) (rdG s.cur t b).toNat = false) ∧
    (∃ s t st, ∃ d a b : Code, Alone s st t ∧ Idle t ∧ SrcG a ∧ SrcG b ∧ t.sup = false ∧ DstG d) ∧
    (∃ s t st, ∃ d a : Code, ∃ r, Alone s st t ∧ t.sup = true ∧ DstG d ∧ SrcG a ∧
      place s (imageCtx s.cur t) .read 8 (rdG s.cur t a) = .ok r) := by
  have h : okWith (fun _ => true) (place scheduled (imageCtx scheduled.cur scheduler) .read 8 (rdG scheduled.cur scheduler 4)) = true := by
    decide +kernel
  obtain ⟨r, h, -⟩ := okWith_elim h
  exact ⟨⟨scheduled, scheduler, true, 4, 10, scheduled_alone, ⟨rfl, rfl⟩, sg 4, sg 10, by decide, rfl, rfl, by decide +kernel, nofun,
      atomsDone_one rfl, by decide +kernel⟩,
    ⟨lone viewer, viewer, true, 47, 4, 57, viewer_lone, ⟨rfl, rfl⟩, sg 4, g57, by decide, g47.1⟩,
    ⟨scheduled, scheduler, true, 47, 4, r, scheduled_alone, by decide, g47.1, sg 4, h⟩⟩

/-- A package of one entry of class 000 whose body adds the general registers of its slot, without its signature. -/
def packed : Nat :=
  0x3150434D + 2 ^ 32 + 2 ^ 48 + 0x40 * 2 ^ 64 + 0x60 * 2 ^ 96 + 4 * 2 ^ 128 + 100 * 2 ^ 160 + 3309 * 2 ^ 192 +
    (2 ^ 32 + 2 ^ 40 + 2 ^ 48 + 2 ^ 56) * 2 ^ 512 + (0x80000000 + 58 * 2 ^ 18 + 59 * 2 ^ 12 + 60 * 2 ^ 6) * 2 ^ 768

/-- A state with that package in memory, and one in which it is installed. -/
def shipped : State := { lone scheduler with mem := memPut 0x8000 packed 100 (placeMem 0 []) }
def installed : State :=
  { lone viewer with sky := { uents := [{ ep := 15, f := 63, cls := 0, priv := false, fd := 1, fa := 1, fb := 1, len := 1, start := 0 }],
                              uslots := [0x80000000 + 58 * 2 ^ 18 + 59 * 2 ^ 12 + 60 * 2 ^ 6] } }


/-- Whether a package breaks no rule but that of its signature. -/
def wellMade (l : List Byte) : Bool :=
  let ents := (List.range (pkgField l 6 2)).map (pkgEntry l)
  !(List.range (pkgField l 6 2)).any (packageEntryBad l) && (ents.findIdx? (packageBodyBad (pkgSlots l))).isNone &&
    (ents.zipIdx.find? fun p => (ents.take p.2).any fun u => u.ep == p.1.ep && u.f == p.1.f).isNone

theorem wellMade_accepted {l : List Byte} (h : wellMade l = true) (hv : ∀ m g, Config.verifies 2 m g = true) : packageFault l = none := by
  simp only [wellMade, Bool.and_eq_true, Bool.not_eq_true', Option.isNone_iff_eq_none] at h
  simp [packageFault, hv, h.1.1, h.1.2, h.2]

/-- Where the verification of signatures, a free value, accepts. -/
theorem witness_MicrocodeResults (hv : ∀ m g, Config.verifies 2 m g = true) :
    (∃ s t st, ∃ a : Code, ∃ l1 l2 f1 f2, Alone s st t ∧ Idle t ∧ t.sup = true ∧ SrcG a ∧ (rdG s.cur t a).toNat % 64 = 0 ∧
      (∀ q ∈ l1 ++ l2, Plain s q.1 q.2.1) ∧ InOrder s t ((l1 ++ l2).map fun q => q.2.2) ∧ placeAll s (imageCtx s.cur t) .read (piecesOf (rdG s.cur t a) 64) = .ok (l1, f1) ∧
      packageHeaderBad (readPlaced s [] l1) = false ∧ AtomsDone s ∧
      placeAll s (imageCtx s.cur t) .read (piecesOf (rdG s.cur t a) (readPlaced s [] l1 / 2 ^ 160 % 2 ^ 32 + 3309)) = .ok (l2, f2) ∧
      packageFault (natBytes (readPlaced s [] l2) (readPlaced s [] l1 / 2 ^ 160 % 2 ^ 32 + 3309)) = none) ∧
    (∃ s t st, ∃ e : BitVec 4, ∃ f : BitVec 6, Alone s st t ∧ uentry s e.toNat f.toNat = none) ∧
    (∃ s t st, ∃ e : BitVec 4, ∃ d a b : Code, ∃ f : BitVec 6, Alone s st t ∧ uentry s e.toNat f.toNat ≠ none ∧ Idle t ∧
      Passes s t { stageMicro e d a b f s.cur s t with cls := microClass s e.toNat f.toNat, op := 0x70 + e.toNat, stop := st }) := by
  have h : okWith (fun r => r.1.all (fun q => plainAt shipped q.1 q.2.1) && !packageHeaderBad (readPlaced shipped [] r.1) &&
      okWith (fun r2 => r2.1.all (fun q => plainAt shipped q.1 q.2.1) &&
        wellMade (natBytes (readPlaced shipped [] r2.1) (readPlaced shipped [] r.1 / 2 ^ 160 % 2 ^ 32 + 3309)))
        (placeAll shipped (imageCtx shipped.cur scheduler) .read
          (piecesOf (rdG shipped.cur scheduler 4) (readPlaced shipped [] r.1 / 2 ^ 160 % 2 ^ 32 + 3309))))
      (placeAll shipped (imageCtx shipped.cur scheduler) .read (piecesOf (rdG shipped.cur scheduler 4) 64)) = true := by decide +kernel
  obtain ⟨⟨l1, f1⟩, h1, h⟩ := okWith_elim h
  simp only [Bool.and_eq_true, Bool.not_eq_true'] at h
  obtain ⟨⟨p1, hb⟩, h⟩ := h
  obtain ⟨⟨l2, f2⟩, h2, h⟩ := okWith_elim h
  simp only [Bool.and_eq_true] at h
  refine ⟨⟨shipped, scheduler, true, 4, l1, l2, f1, f2, ⟨rfl, rfl, rfl, rfl, rfl, rfl⟩, ⟨rfl, rfl⟩, by decide, sg 4, by decide +kernel, fun q hq => ?_, fun _ => rfl, h1,
      hb, atomsDone_one rfl, h2, wellMade_accepted h.2 hv⟩,
    ⟨lone viewer, viewer, true, 15, 63, viewer_lone, by decide⟩,
    ⟨installed, viewer, true, 15, 47, 4, 57, 63, ⟨rfl, rfl, rfl, rfl, rfl, rfl⟩, by decide, ⟨rfl, rfl⟩, ⟨by decide +kernel, by decide +kernel,
      by decide +kernel, by decide +kernel, ?_, by decide +kernel, ?_, by decide +kernel, by decide +kernel⟩⟩⟩
  · rcases List.mem_append.mp hq with hq | hq
    · exact plain_of (List.all_eq_true.mp p1 q hq)
    · exact plain_of (List.all_eq_true.mp h.1 q hq)
  · intro b w hw
    have : (stageMicro 15 47 4 57 63 installed.cur installed viewer).waits = [] := by decide +kernel
    rw [show w ∈ (stageMicro 15 47 4 57 63 installed.cur installed viewer).waits ↔ w ∈ ([] : List Wait) from by rw [this]] at hw
    cases hw
  · have : (countedLats true { stageMicro 15 47 4 57 63 installed.cur installed viewer with
        cls := microClass installed (15 : BitVec 4).toNat (63 : BitVec 6).toNat, op := 0x70 + (15 : BitVec 4).toNat, stop := true }).all (· ≤ 1) = true := by
      decide +kernel
    intro _ h
    have := List.all_eq_true.mp this
    obtain ⟨x, hx, hx'⟩ := List.any_eq_true.mp h
    have := this x hx
    simp only [decide_eq_true_eq] at this hx'
    omega

/-- A task that waits, and the state between bundles that holds it with another task. -/
def waiting (l : List Wait) : Task :=
  { viewer with stall := some { bundle := (lone {}).bundle, waits := l, slots := l.map fun _ => 3, waited := 2 ^ 24 } }
def between (t : Task) : State := { near t with tasks := [(0, t), (1, {})], bundle := {}, cores := [(0, { running := some 0 })] }

/-- One wait of every kind that an event ends. -/
def kinds : List Wait :=
  [.fifoPush 0 0 0, .fifoPop 0 0 0, .stream 15 0, .banks 0 1, .drain 0 0, .pub, .flag 31 0, .barrier 0 (2 ^ 32 - 1), .history, .cadence 0,
   .queueRoom 0, .channelRoom 1]

theorem witness_WaitEvents :
    (∃ (s : State) (core : Nat) (slot : Nat) (t : Task) (st : Stall), s.bundle.live = false ∧ s.task (taskKey core slot) = some t ∧ t.run = .ready ∧ t.stall = some st ∧ st.waits = kinds ∧
      st.bundle.code ≠ [] ∧ st.bundle.words ≠ [] ∧ (s.core core).running = some slot ∧
      s.cadenced t = false ∧ s.chip.halted = false ∧ s.chip.bubble = 0 ∧ ∀ w ∈ st.waits, waitMet s core slot t w = true) ∧
    (∃ (s : State) (core : Nat) (slot : Nat) (t : Task) (st : Stall), s.bundle.live = false ∧ s.task (taskKey core slot) = some t ∧ t.run = .ready ∧ t.stall = some st ∧ st.waits = kinds ∧
      st.bundle.code ≠ [] ∧ st.bundle.words ≠ [] ∧ s.cadenced t = false ∧ s.chip.bubble ≠ 0) ∧
    (∃ (s : State) (core : Nat) (slot : Nat) (t : Task) (st : Stall), s.bundle.live = false ∧ s.task (taskKey core slot) = some t ∧ t.run = .ready ∧ t.stall = some st ∧ s.cadenced t = false ∧
      st.waits.zip st.slots = [(.flag 31 0, 3)] ++ (.flag 0 (2 ^ 32 - 1), 3) :: kinds.map (fun w => (w, 3)) ∧ 2 ^ t.wtexp ≤ st.waited ∧
      waitMet s core slot t (.flag 31 0) = true ∧ waitMet s core slot t (.flag 0 (2 ^ 32 - 1)) = false) ∧
    (∃ (s : State) (core : Nat) (slot : Nat) (t : Task) (st : Stall), s.bundle.live = false ∧ s.task (taskKey core slot) = some t ∧ t.run = .ready ∧ t.stall = some st ∧ s.cadenced t = false ∧
      st.waits.zip st.slots = [] ++ (.cadence 1, 3) :: [] ∧ waitMet s core slot t (.cadence 1) = false) ∧
    (∃ (s : State) (core : Nat) (slot : Nat) (t : Task) (st : Stall), s.bundle.live = false ∧ s.task (taskKey core slot) = some t ∧ t.run = .ready ∧ t.stall = some st ∧ s.cadenced t = false ∧
      st.waits.zip st.slots = [] ++ (.gangRoots, 3) :: [] ∧ 2 ^ t.wtexp ≤ st.waited) := by
  refine ⟨⟨between (waiting kinds), 0, 0, _, _, rfl, rfl, rfl, rfl, rfl, ?_, ?_, rfl, rfl, rfl, rfl, ?_⟩,
    ⟨{ between (waiting kinds) with chip := { State.reset.chip with bubble := 1 } }, 0, 0, _, _, rfl, rfl, rfl, rfl, rfl, ?_, ?_, rfl, ?_⟩,
    ⟨between (waiting ([.flag 31 0] ++ .flag 0 (2 ^ 32 - 1) :: kinds)), 0, 0, _, _, rfl, rfl, rfl, rfl, rfl, rfl, ?_, ?_, ?_⟩,
    ⟨between (waiting [.cadence 1]), 0, 0, _, _, rfl, rfl, rfl, rfl, rfl, rfl, ?_⟩,
    ⟨between (waiting [.gangRoots]), 0, 0, _, _, rfl, rfl, rfl, rfl, rfl, rfl, ?_⟩⟩ <;> decide +kernel

/-- A task whose oldest array operation writes bank 63, a state in which a remote post is under way, and one whose core has run its first
task for 65536 cycles. -/
def arrayTask (k : ArrayKind) : Task := { full with arrayQ := [{ kind := k, bank := 63 }] }
def travelling (serves : Option Nat) (step : Nat) : State :=
  { State.reset with nets := { State.reset.nets with posts := [{ src := 1, dst := 511, flag := 31, count := 2 ^ 32 - 1, launch := 0, steps := some (1, 2) }] },
                     cores := [(511, { serves := serves })], regs := { State.reset.regs with tsc := step } }
def sharing (n : Nat) : State := { between viewer with cores := [(0, { running := some 0, issued := n })] }

/-- A gang of one task or two that hold at their `slv.end`, or have not begun. -/
def gang (origin : Option Nat) (l : List (Nat × Task)) : State :=
  { State.reset with tasks := l, launches := [(0, { pkt := { mode := 1, depmask := 100 } })], groups := [(0, { phase := .started, origin := origin })] }
def atRoots : Task := { stall := some { bundle := (lone {}).bundle, waits := [.gangRoots, .banks 0 1] } }

theorem witness_TaskAndGangEvents :
    (∃ (s : State) (core slot : Nat) (t : Task) (op : ArrayOp) (rest : List ArrayOp), s.task (taskKey core slot) = some t ∧ t.arrayStop = none ∧ t.arrayQ = op :: rest ∧ op.a = {} ∧ op.b = {} ∧
      op.kind = .zero) ∧
    (∃ (s : State) (core slot : Nat) (t : Task) (op : ArrayOp) (rest : List ArrayOp) (v : VReg), s.task (taskKey core slot) = some t ∧ t.arrayStop = none ∧ t.arrayQ = op :: rest ∧ op.a = {} ∧ op.b = {} ∧
      op.kind = .write 7 v) ∧
    (∀ step ∈ [1, 2], ∃ (s : State) (l r : List Post) (p : Post), s.nets.posts = l ++ p :: r ∧ (∀ x ∈ l, x.src ≠ p.src ∨ x.dst ≠ p.dst) ∧
      p.net = .mesh ∧ p.held = false ∧ p.steps = some (1, 2) ∧ s.regs.tsc = step ∧ s.chip.bubble = 0 ∧ (s.core p.dst).serves = some p.launch) ∧
    (∃ (s : State) (l r : List Post) (p : Post), s.nets.posts = l ++ p :: r ∧ (∀ x ∈ l, x.src ≠ p.src ∨ x.dst ≠ p.dst) ∧ p.net = .mesh ∧
      p.held = false ∧ p.steps = some (1, 2) ∧ s.regs.tsc = 2 ∧ (s.core p.dst).serves ≠ some p.launch) ∧
    (∃ (s : State) (t : Task) (st : Bool) (x : Staged), Alone s st t ∧ Passes s t x ∧ s.bundle.words.tail = []) ∧
    (∃ (s : State) (die : Nat) (head : W64) (l : List HeadCount) (h : HeadCount) (r : List HeadCount), s.regs.xltctl.getLsbD 1 = true ∧
      s.sky.heads = l ++ h :: r ∧ (∀ x ∈ l, x.va ≠ head.toNat) ∧ h.die = die ∧ h.va = head.toNat ∧
      s.regs.xltctl.toNat / 2 ^ 8 % 2 ^ 16 = h.count ∧ h.tier1 = false ∧ hintOf s.sky die h.objid head.toNat ≠ .tier0) ∧
    (∃ (s : State) (core : Nat) (slot : Nat) (other : Nat), (s.core core).running = some slot ∧ nextReady s core slot = some other ∧ other ≠ slot ∧ s.bundle.live = false ∧
      (s.core core).issued = 65536 ∧ (s.task (taskKey core slot)).any inAtom = false) ∧
    (∃ (s : State) (core : Nat) (slot : Nat) (other : Nat), (s.core core).running = some slot ∧ nextReady s core slot = some other ∧ other ≠ slot ∧ s.bundle.live = false ∧
      (s.core core).issued = 65535) ∧
    (∃ (s : State) (gid : Nat), (s.launch (s.group gid).launch).pkt.mode = 1 ∧ (s.group gid).phase = .started ∧ (s.group gid).origin = none ∧
      s.regs.tsc < (s.launch (s.group gid).launch).pkt.depmask.toNat ∧ (s.launch (s.group gid).launch).parent.isNone = true) ∧
    (∃ (s : State) (gid : Nat), (s.launch (s.group gid).launch).pkt.mode = 1 ∧ (s.group gid).phase = .started ∧ (s.group gid).origin = none ∧
      s.regs.tsc = (s.launch (s.group gid).launch).pkt.depmask.toNat ∧
      s.chip.halted = false ∧ s.chip.bubble = 0) ∧
    (∃ (s : State) (gid key : Nat) (t : Task) (rest : List (Nat × Task)) (st : Stall), s.bundle.live = false ∧ s.tasksOf gid = (key, t) :: rest ∧ t.stall = some st ∧ gangRuns s gid = true ∧
      (∀ e ∈ s.tasksOf gid, heldGang e.2 = false) ∧ (∀ e ∈ s.tasksOf gid, holdsRoots e.2 = true) ∧
      st.bundle.code ≠ [] ∧ st.bundle.words ≠ [] ∧ s.chip.halted = false ∧ s.chip.bubble = 0 ∧ ∀ e ∈ s.tasksOf gid, (∀ u, e.2.stall = some u → ∀ w ∈ u.waits, waitMet s (e.1 / 4) (e.1 % 4) e.2 w = true)) ∧
    (∃ (s : State) (gid key : Nat) (t : Task) (rest : List (Nat × Task)) (st : Stall), s.bundle.live = false ∧ s.tasksOf gid = (key, t) :: rest ∧ t.stall = some st ∧ gangRuns s gid = true ∧
      (∀ e ∈ s.tasksOf gid, heldGang e.2 = false) ∧ st.bundle.code ≠ [] ∧ st.bundle.words ≠ [] ∧ ∃ e ∈ s.tasksOf gid, holdsRoots e.2 = false) := by
  refine ⟨⟨lone (arrayTask .zero), 0, 0, _, _, [], rfl, rfl, rfl, rfl, rfl, rfl⟩,
    ⟨lone (arrayTask (.write 7 1)), 0, 0, _, _, [], 1, rfl, rfl, rfl, rfl, rfl, rfl⟩,
    fun step _ => ⟨travelling (some 0) step, [], [], _, rfl, nofun, rfl, rfl, rfl, rfl, rfl, rfl⟩,
    ⟨travelling none 2, [], [], _, rfl, nofun, rfl, rfl, rfl, rfl, nofun⟩,
    ⟨lone viewer, viewer, true, {}, viewer_lone, ⟨rfl, rfl, ?_, rfl, nofun, rfl, nofun, ?_, ?_⟩, rfl⟩,
    ⟨{ State.reset with sky := { State.reset.sky with heads := [{ die := 0, objid := 0, va := 0x3080, count := 64 }] } }, 0, 0x3080, [], _, [],
      ?_, rfl, nofun, rfl, rfl, ?_, rfl, ?_⟩,
    ⟨sharing 65536, 0, 0, 1, rfl, ?_, ?_, rfl, rfl, ?_⟩, ⟨sharing 65535, 0, 0, 1, rfl, ?_, ?_, rfl, rfl⟩,
    ⟨gang none [], 0, rfl, rfl, rfl, ?_, rfl⟩,
    ⟨{ gang none [] with regs := { State.reset.regs with tsc := 100 } }, 0, rfl, rfl, rfl, rfl, rfl, rfl⟩,
    ⟨gang (some 0) [(4, atRoots), (8, atRoots)], 0, 4, _, [(8, atRoots)], _, rfl, rfl, rfl, ?_, ?_, ?_, ?_, ?_, rfl, rfl, ?_⟩,
    ⟨gang (some 0) [(4, atRoots), (8, {})], 0, 4, _, [(8, {})], _, rfl, rfl, rfl, ?_, ?_, ?_, ?_, ?_⟩⟩ <;> try decide +kernel

/-- A record that waits for a fault queue that has room or none, of a trap or of a translation fault. -/
def recorded (cause : W64) (on : W64) : State :=
  { lone viewer with notes := { State.reset.notes with fqWait := [{ record := { w0 := cause }, unit := 0, slot := 0, req := 0 }] },
                     regs := { State.reset.regs with fqctl := on } }

/-- A parked task with a handler or without one, one asked to make room, and a core with an image to load back. -/
def parked (tvec : W64) : Task := { viewer with tvec := tvec, run := .parked { w0 := 0x101 } true }
def leaving : Task := { viewer with preempt := true, saveptr := 0x8000008000 }
def returning : State :=
  { stored imageHeader viewer with gone := [{ core := 0, slot := 3, va := 0x8000008000, troot := 0x1000, tasid := 0, gid := 0, marked := true }] }

theorem witness_RecordAndPreemptionEvents :
    (∃ (s : State) (w : Waiting) (rest : List Waiting), s.notes.fqWait = w :: rest ∧ s.regs.fqctl.getLsbD 0 = false) ∧
    (∃ (s : State) (w : Waiting) (rest : List Waiting), s.notes.fqWait = w :: rest ∧ s.regs.fqctl.getLsbD 0 = true ∧
      (s.regs.fqwr + 2 ^ 32 - s.regs.fqrd) % 2 ^ 32 < 2 ^ (s.regs.fqctl.toNat / 2 ^ 4 % 2 ^ 4 + 4) ∧
      w.record.w0.toNat % 2 ^ 8 ≠ Cause.translation.code) ∧
    (∃ (s : State) (w : Waiting) (rest : List Waiting), s.notes.fqWait = w :: rest ∧ s.regs.fqctl.getLsbD 0 = true ∧
      (s.regs.fqwr + 2 ^ 32 - s.regs.fqrd) % 2 ^ 32 < 2 ^ (s.regs.fqctl.toNat / 2 ^ 4 % 2 ^ 4 + 4) ∧
      w.record.w0.toNat % 2 ^ 8 = Cause.translation.code) ∧
    (∃ (s : State) (unit slot req : Nat) (t : Task) (r : Rec) (p : Bool), unit < 512 ∧ slot < 4 ∧ (req = 0 ∨ req = 3) ∧ s.task (taskKey unit slot) = some t ∧ t.run = .parked r p ∧
      r.w0.toNat / 2 ^ 16 % 2 ^ 3 = req ∧ s.cadenced t = false ∧ t.tvec ≠ 0 ∧ r.w0.getLsbD 15 = false ∧ (s.core unit).spill = none) ∧
    (∃ (s : State) (unit slot req : Nat) (t : Task) (r : Rec) (p : Bool), unit < 512 ∧ slot < 4 ∧ (req = 0 ∨ req = 3) ∧ s.task (taskKey unit slot) = some t ∧ t.run = .parked r p ∧
      r.w0.toNat / 2 ^ 16 % 2 ^ 3 = req ∧ s.cadenced t = false ∧ t.tvec = 0) ∧
    (∃ (s : State) (core slot : Nat) (t : Task) (l : List (List (Nat × Nat × W64) × Nat)) (fills : List TlbEntry), s.task (taskKey core slot) = some t ∧ s.cadenced t = false ∧ t.preempt = true ∧ s.bundle.live = false ∧ t.run = .ready ∧
      t.stall = none ∧ inAtom t = false ∧ t.arrayStop = none ∧ t.arrayQ = [] ∧ (s.core core).spill = none ∧ transfersOf s t = false ∧
      placeParts s (imageCtx core t) .write t.saveptr (imageParts t core slot (imageFields t).1 (imageFields t).2.1 (imageFields t).2.2.1
        (imageFields t).2.2.2.1 (queuedOf s core t.uid) (imageFields t).2.2.2.2 (s.core core).hist) = .ok (l, fills)) ∧
    (∃ (s : State) (core : Nat) (sl : Nat) (t : Task), sl < 4 ∧ (∀ k t, s.task (taskKey core k) = some t → s.cadenced t = false) ∧ s.task (taskKey core sl) = some t) ∧
    (∃ (s : State) (core : Nat) (g : Gone) (q : ImageRead), (s.gone.find? fun g => g.core == core && g.marked) = some g ∧
      loadParts s (imageCtx core { uid := g.uid, troot := g.troot, tasid := g.tasid, gid := g.gid }) g.answers g.va = .ok q ∧ q.needs = [] ∧
      s.task (taskKey core g.slot) = none ∧ g.slot < 4 ∧
      let base := { taskOfTag s (partField q.parts 0x20 8) (partField q.parts 0x18 8) with uid := g.uid }
      vectorsHeld s core + (imageOf q.parts core base).task.vcnt ≤ 192 ∧ banksHeld s core + (imageOf q.parts core base).task.banks.length ≤ 64 ∧
      ((imageOf q.parts core base).task.slv.code = .idle ∨ (s.core core).histOwner = none) ∧
      ((s.core core).serves = none ∨ (s.core core).serves = some base.launch) ∧ gangBlocks s core base = false) ∧
    (∃ (s : State) (core : Nat), ∀ g ∈ s.gone, g.core ≠ core ∨ g.marked = false) := by
  have h6 : okWith (fun _ => true) (placeParts (between leaving) (imageCtx 0 leaving) .write leaving.saveptr (imageParts leaving 0 0
      (imageFields leaving).1 (imageFields leaving).2.1 (imageFields leaving).2.2.1 (imageFields leaving).2.2.2.1
      (queuedOf (between leaving) 0 leaving.uid) (imageFields leaving).2.2.2.2 ((between leaving).core 0).hist)) = true := by decide +kernel
  have h8 : okWith (fun q => decide (q.needs = []) &&
      decide (vectorsHeld returning 0 + (imageOf q.parts 0 { taskOfTag returning (partField q.parts 0x20 8) (partField q.parts 0x18 8) with uid := 0 }).task.vcnt ≤ 192) &&
      decide (banksHeld returning 0 +
        (imageOf q.parts 0 { taskOfTag returning (partField q.parts 0x20 8) (partField q.parts 0x18 8) with uid := 0 }).task.banks.length ≤ 64) &&
      !gangBlocks returning 0 { taskOfTag returning (partField q.parts 0x20 8) (partField q.parts 0x18 8) with uid := 0 })
      (loadParts returning (imageCtx 0 { uid := 0, troot := 0x1000, tasid := 0, gid := 0 }) [] 0x8000008000) = true := by decide +kernel
  obtain ⟨⟨l, f⟩, h6, -⟩ := okWith_elim h6
  obtain ⟨q, h8, hq⟩ := okWith_elim h8
  simp only [Bool.and_eq_true, decide_eq_true_eq, Bool.not_eq_true'] at hq
  obtain ⟨⟨⟨hn, h9⟩, h10⟩, h11⟩ := hq
  refine ⟨⟨recorded 0x101 0, _, _, rfl, rfl⟩, ⟨recorded 0x101 1, _, _, rfl, rfl, ?_, ?_⟩, ⟨recorded 0x114 1, _, _, rfl, rfl, ?_, ?_⟩,
    ⟨lone (parked 0x5000), 0, 0, 0, _, _, true, ?_, ?_, .inl rfl, rfl, rfl, ?_, rfl, ?_, ?_, rfl⟩,
    ⟨lone (parked 0), 0, 0, 0, _, _, true, ?_, ?_, .inl rfl, rfl, rfl, ?_, rfl, rfl⟩,
    ⟨between leaving, 0, 0, leaving, l, f, rfl, rfl, rfl, rfl, rfl, rfl, ?_, rfl, rfl, rfl, ?_, h6⟩,
    ⟨{ lone {} with tasks := [(3, {})] }, 0, 3, {}, ?_, fun k t _ => rfl, rfl⟩,
    ⟨returning, 0, { core := 0, slot := 3, va := 0x8000008000, troot := 0x1000, tasid := 0, gid := 0, marked := true }, q, rfl, h8, hn, rfl, ?_, h9, h10,
      .inr rfl, .inl rfl, h11⟩,
    ⟨State.reset, 511, nofun⟩⟩ <;> decide +kernel

/-- A task at supervisor privilege of a group with bank 3 as cache, chosen by the host while it is parked. -/
def chooser (r : Run) : Task := { scheduler with run := r }
def offered : Regs :=
  { State.reset.regs with hctxsel := 0x8000000000000000, windows := (Vector.replicate 8 {}).set 7 { mirror := 0x040000000000 },
                          pubs := (Vector.replicate 64 {}).set 63 { shad := 0x1000 } }
def choosing (r : Run) : State :=
  { scheduled with tasks := [(0, chooser r)], regs := offered,
                   groups := [(0, { barriers := [{}], evbase := 0x8000008000, banks := [3] })], launches := [(0, { pkt := { csn := 1 } })] }

/-- Without engine commands and array operations no access to a bank is under way. -/
theorem bankBusy_quiet {s : State} {k : Nat} {t : Task} (hc : s.cores = []) (ht : s.tasks = [(k, t)]) (hq : t.arrayQ = []) (gid i : Nat) :
    bankBusy s gid i = false := by simp [bankBusy, hc, ht, hq]

theorem witness_RegisterWriteEvents :
    (∃ (s : State) (t : Task) (v : W64), s.task (taskKey 0 0) = some t ∧ t.sup = true ∧ ∀ n ∈ [0x300, 0x306, 0x34, 0x104, 0x13C], crAssigned n = true ∧
      crOfTask n = false ∧ crRefused s t n v = false ∧ crRefused s {} n v = false ∧ s.notes.hostWrites = [] ∧ windowShut s n v = none) ∧
    (∃ (s : State) (t : Task) (v : W64), s.task (taskKey 0 0) = some t ∧ t.sup = true ∧ crAssigned 0x40 = true ∧ crRefused s t 0x40 v = false ∧
      crRefused s {} 0x40 v = false ∧ ∀ e ∈ s.tasks, atomRuns e.2 = false) ∧
    (∃ (s : State) (t : Task) (v : W64), s.task (taskKey 0 0) = some t ∧ t.sup = true ∧ v.getLsbD 8 = true ∧ crAssigned 0x13C = true ∧ crRefused s t 0x13C v = false ∧
      crRefused s {} 0x13C v = false ∧ windowShut s 0x13C v = none) ∧
    (∃ (s : State) (t : Task) (v : W64), s.task (taskKey 0 0) = some t ∧ t.sup = true ∧ v.getLsbD 0 = true ∧ crAssigned (0x202 + 4 * 63) = true ∧
      crRefused s t (0x202 + 4 * 63) v = false ∧ crRefused s {} (0x202 + 4 * 63) v = false) ∧
    (∃ (s : State) (t : Task), s.task 0 = some t ∧ hostTask s = some 0 ∧
      (∀ v ∈ [(1 : W64), 2], ∀ b ∈ banksChanged (s.group t.gid) v, bankBusy s t.gid b = false) ∧ crRefused s t 0x10 1 = false ∧ crRefused s t 0x10 2 = false ∧ s.notes.hostWrites = []) ∧
    (∃ (s : State) (t : Task), s.task (taskKey 0 0) = some t ∧ ∃ i ∈ banksChanged (s.group t.gid) 1, bankMode (s.group t.gid) i = 0 ∧ crRefused s t 0x10 1 = false) ∧
    (∃ (s : State) (t : Task) (places : List (Nat × Nat × W64)) (fills : List TlbEntry) (l : List EvEntry), s.task (taskKey 0 0) = some t ∧
      crRefused s t 0x12 1 = false ∧ crRefused s t 0x12 0 = false ∧ schedulePlaces s 0 t (1 : W64).toNat = .ok (places, fills) ∧
      places ≠ [] ∧ (∀ p ∈ places, Plain s p.1 p.2.1) ∧ loadSchedule s 0 t (1 : W64).toNat = .ok l) := by
  have h0 : okWith (fun r => r.1 != [] && r.1.all fun p => plainAt (choosing .ready) p.1 p.2.1)
      (schedulePlaces (choosing .ready) 0 (chooser .ready) (1 : W64).toNat) = true := by decide +kernel
  have h : okWith (fun _ => true) (loadSchedule (choosing .ready) 0 (chooser .ready) (1 : W64).toNat) = true := by decide +kernel
  obtain ⟨⟨p, f⟩, h0, hp⟩ := okWith_elim h0
  simp only [Bool.and_eq_true, bne_iff_ne, List.all_eq_true] at hp
  obtain ⟨l, h, -⟩ := okWith_elim h
  refine ⟨⟨choosing .ready, chooser .ready, 0, rfl, ?_, ?_⟩, ⟨choosing .ready, chooser .ready, 0x100, rfl, ?_, ?_, ?_, ?_, ?_⟩,
    ⟨choosing .ready, chooser .ready, 0x100, rfl, ?_, ?_, ?_, ?_, ?_, ?_⟩,
    ⟨choosing .ready, chooser .ready, 0x101, rfl, ?_, ?_, ?_, ?_, ?_⟩,
    ⟨choosing (.parked { w0 := 0x101 } true), chooser (.parked { w0 := 0x101 } true), rfl, ?_, fun _ _ b _ => bankBusy_quiet rfl rfl rfl _ b, ?_, ?_, rfl⟩,
    ⟨choosing .ready, chooser .ready, rfl, ?_⟩, ⟨choosing .ready, chooser .ready, p, f, l, rfl, ?_, ?_, h0, hp.1, fun x hx => plain_of (hp.2 x hx), h⟩⟩ <;>
    decide +kernel

/-- A state with memory poisoned at its granule 0x40, a waiting notice, and a notice queue that is on or off. -/
def served (on : W64) : State :=
  { lone {} with notes := { State.reset.notes with nqWait := [{ w0 := 4 }] },
                 chip := { State.reset.chip with poison := [0x40] },
                 regs := { State.reset.regs with nqctl := on, qtbase := 0x7F00000000, attctl := 0, attbuf := 0x7FFFFFF000, hinvctl := 0 } }

/-- A core whose engine has read an element of a body. -/
def carrying : State :=
  { State.reset with cores := [(0, { ch := (Vector.replicate 2 {}).set 0 {
      active := [{ cmd := command (engine issuer) issuer 4 57 0x8000 0x49 0 none, state := .moving, elem := 1, resvd := true, buf := [(0x9000, 1)] }] } })] }

/-- A packet of one task with `b` in byte 1, one of a gang of two with start step `n`, and a state at a step with queue 131071 of
dispatcher 0 that holds a packet. -/
def packet (b : Nat) : Nat := 1 + b * 2 ^ 8 + 2 ^ 64 + 2 ^ 320 + 0x8000008000 * 2 ^ 512
def gangPacket (n : Nat) : Nat := 1 + 2 ^ 8 + 2 ^ 16 + 2 * 2 ^ 48 + 2 ^ 52 + 2 ^ 64 + 2 * 2 ^ 320 + 0x8000008000 * 2 ^ 512 + n * 2 ^ 640
def queueing (ctl wr raw tsc : Nat) : State :=
  let m := memPut 0xA000 0x1000 8 (memPut 0x9000 raw 128 (placeMem 0 []))
  { lone viewer with mem := memPut (64 * 131071) (wr + 0x9000 * 2 ^ 128 + ctl * 2 ^ 192 + 0xA000 * 2 ^ 256) 40 m,
                     regs := { (lone viewer).regs with tsc := tsc } }

/-- A graph whose first member and whose header are in a phase, and a launch all of whose groups are finished or not, with a store
of its own on the way to an aperture or without. -/
def graph (p h : LaunchPhase) : State :=
  { State.reset with launches := [(0, { parent := some (9, 0), phase := p }), (1, { parent := some (9, 1), pkt := { depmask := 1 } }), (9, { phase := h })] }
def finishing (n : Nat) (out : Bool) : State :=
  { lone viewer with launches := [(1, { id := 1, ctx := { troot := 0x1000 }, phase := .candidate, groups := 1, admitted := 1, finished := n,
                                        pkt := { cpladdr := 0x8000008000, scope := 3 } })],
                     nets := { State.reset.nets with outside := if out then [
                       { ident := 3, src := { uid := 7, launch := 1 }, pa := 0x4000000000000, size := 8, store := some 1, since := 0 }] else [] } }

/-- A launch of one group of `n` tasks before a dispatcher with a queue of weight `w` that is not enabled. -/
def offering (w n : Nat) : State :=
  { lone viewer with launches := [(1, { id := 1, queue := 131071, phase := .candidate, groups := 1, pkt := { ext := [n] } })],
                     mem := memPut (64 * 131071 + 0x18) (w * 2 ^ 8) 8 [] }
def turnOf (s : State) : Launch × State × State :=
  let l := (candidateOf s 131071).getD {}
  let d := 32 * queueWeight s 131071
  let s1 := s.updCluster 0 fun c => { c with last := some 131071, deficits := mapSet 131071 d c.deficits }
  (l, s1, (s1.admitGroup l).updCluster 0 fun c => { c with deficits := mapSet 131071 (d - l.pkt.ext.getD 0 1) c.deficits })

/-- Groups that wait at clusters, of which group 6 can never fit, and one that has started with `n` tasks left. -/
def queuedGroups (l : List (Nat × Cluster)) : State :=
  { State.reset with
    clusters := l, groups := [(5, { gid := 5, launch := 1 }), (6, { gid := 6, launch := 2 })],
    launches := [(1, { pkt := { ext := [1], nsb := 256, bars := 512, csn := 32, vcnt := 48 } }), (2, { pkt := { ext := [1], csn := 33, vcnt := 48 } })] }
def ending (n : Nat) : State := { State.reset with groups := [(5, { phase := .started, alive := n })] }

/-- That state with poison in the packet. -/
def struckPacket : State :=
  let s := queueing 0x800100 1 (packet 1) 0
  { s with chip := { s.chip with poison := [0x9000] } }

theorem witness_QueueAndGroupEvents :
    (∃ (s : State) (q : Nat) (v : W64), queueOn (s.store none (queuePa s q 0) 8 v.toNat) q = true ∧
      queueBad (s.store none (queuePa s q 0) 8 v.toNat) q = false ∧
      (wrIdx (s.store none (queuePa s q 0) 8 v.toNat) q + 2 ^ 64 - rdIdx (s.store none (queuePa s q 0) 8 v.toNat) q) % 2 ^ 64 =
        queueCap (s.store none (queuePa s q 0) 8 v.toNat) q) ∧
    (∃ (s : State) (q : Nat) (v : W64), queueOn (s.store none (queuePa s q 0) 8 v.toNat) q = true ∧
      queueBad (s.store none (queuePa s q 0) 8 v.toNat) q = false ∧ queueCap (s.store none (queuePa s q 0) 8 v.toNat) q <
        (wrIdx (s.store none (queuePa s q 0) 8 v.toNat) q + 2 ^ 64 - rdIdx (s.store none (queuePa s q 0) 8 v.toNat) q) % 2 ^ 64) ∧
    (∀ b r, (b, r) ∈ [(1, none), (0, some 1)] → ∃ (s : State) (q : Nat), q < queueCount ∧ queueOn s q = true ∧ queueBad s q = false ∧
      queueCluster s q = 0 ∧ (wrIdx s q + 2 ^ 64 - rdIdx s q) % 2 ^ 64 ≤ queueCap s q ∧ queueBusy s q = false ∧ wrIdx s q ≠ rdIdx s q ∧
      memNat s.mem (slotPa s q (rdIdx s q)) 128 = packet b ∧
      poisonFault s none (packetReads s q (rdIdx s q) (ctxVals s q) (packet b)).1 = none ∧ (packetOf (packet b)).kind = 1 ∧ (packetOf (packet b)).mode = 0 ∧
      tileBad (packet b) true = r ∧ cplBad s (ctxVals s q) (packet b) = false ∧ placementBad s 0 (packetOf (packet b)) = false) ∧
    (∀ start, start ∈ [599, 600] → ∃ (s : State) (q : Nat), q < queueCount ∧ queueOn s q = true ∧ queueBad s q = false ∧
      queueCluster s q = 0 ∧ (wrIdx s q + 2 ^ 64 - rdIdx s q) % 2 ^ 64 ≤ queueCap s q ∧ queueBusy s q = false ∧ wrIdx s q ≠ rdIdx s q ∧
      memNat s.mem (slotPa s q (rdIdx s q)) 128 = gangPacket start ∧
      poisonFault s none (packetReads s q (rdIdx s q) (ctxVals s q) (gangPacket start)).1 = none ∧ (packetOf (gangPacket start)).kind = 1 ∧ s.regs.tsc = 600 ∧
      (packetOf (gangPacket start)).mode = 1 ∧ (packetOf (gangPacket start)).depmask.toNat = start ∧ tileBad (gangPacket start) true = none ∧
      cplBad s (ctxVals s q) (gangPacket start) = false ∧ placementBad s 0 (packetOf (gangPacket start)) = false) ∧
    (∃ (s : State) (q : Nat), q < queueCount ∧ queueOn s q = true ∧ queueBad s q = false ∧ queueCluster s q = 0 ∧
      (wrIdx s q + 2 ^ 64 - rdIdx s q) % 2 ^ 64 ≤ queueCap s q ∧ queueBusy s q = false ∧ wrIdx s q ≠ rdIdx s q ∧
      (poisonFault s none (packetReads s q (rdIdx s q) (ctxVals s q) (memNat s.mem (slotPa s q (rdIdx s q)) 128)).1).isSome = true) ∧
    (∃ (s : State) (id h j : Nat) (l : Launch), mapGet id s.launches = some l ∧ l.parent = some (h, j) ∧ l.phase = .waiting ∧
      (s.launch h).phase ≠ .waiting ∧
      ∀ e ∈ s.launches, ∀ i, e.2.parent = some (h, i) → l.pkt.depmask.getLsbD i = true → e.2.phase = .done) ∧
    (∃ (s : State) (id h j : Nat) (l : Launch), mapGet id s.launches = some l ∧ l.parent = some (h, j) ∧ l.phase = .waiting ∧
      ∃ e ∈ s.launches, e.2.parent = some (h, 0) ∧ l.pkt.depmask.getLsbD 0 = true ∧ e.2.phase ≠ .done) ∧
    (∃ (s : State) (id h j : Nat) (l : Launch), mapGet id s.launches = some l ∧ l.parent = some (h, j) ∧ l.phase = .waiting ∧
      (s.launch h).phase = .waiting) ∧
    (∃ (s : State) (id : Nat) (l : Launch) (pa : Nat) (leaf : W64) (fills : List TlbEntry), mapGet id s.launches = some l ∧ l.pkt.kind = 1 ∧
      l.phase = .candidate ∧ l.stopped = none ∧ l.admitted = l.groups ∧ l.finished = l.groups ∧ launchStores s l = false ∧
      placeAll s (dispatchCtx l.ctx) .write [(l.pkt.cpladdr, 8)] = .ok ([(pa, 8, leaf)], fills) ∧
      peerFault s (some l.pkt.cpladdr) [(pa, 8, leaf)] = none) ∧
    (∃ (s : State) (id : Nat) (l : Launch), mapGet id s.launches = some l ∧ l.pkt.kind = 1 ∧ l.phase = .candidate ∧ l.stopped = none ∧
      l.admitted = l.groups ∧ l.finished ≠ l.groups) ∧
    (∃ (s : State) (id : Nat) (l : Launch), mapGet id s.launches = some l ∧ l.pkt.kind = 1 ∧ l.phase = .candidate ∧ l.stopped = none ∧
      l.admitted = l.groups ∧ launchStores s l = true) := by
  have h : okWith (onePlace 0x8000 8) (placeAll (finishing 1 false) (dispatchCtx { troot := 0x1000 }) .write [(0x8000008000, 8)]) = true := by
    decide +kernel
  obtain ⟨l, f, h⟩ := placed h
  have near : peerFault (finishing 1 false) (some 0x8000008000) [(0x8000, 8, l)] = none := by
    have : (regionOf (finishing 1 false) 0x8000 == .peer) = false := by decide +kernel
    simp [peerFault, this]
  refine ⟨⟨queueing 0x800100 0 (packet 1) 0, 131071, 1, ?_⟩, ⟨queueing 0x800100 0 (packet 1) 0, 131071, 2, ?_⟩, ?_, ?_,
    ⟨struckPacket, 131071, ?_⟩,
    ⟨graph .done .candidate, 1, 9, 1, _, rfl, rfl, rfl, by decide, ?_⟩, ⟨graph .candidate .candidate, 1, 9, 1, _, rfl, rfl, rfl, ?_⟩,
    ⟨graph .done .waiting, 1, 9, 1, _, rfl, rfl, rfl, rfl⟩, ⟨finishing 1 false, 1, _, 0x8000, l, f, rfl, rfl, rfl, rfl, rfl, rfl, rfl, h, near⟩,
    ⟨finishing 0 false, 1, _, rfl, rfl, rfl, rfl, rfl, by decide⟩, ⟨finishing 1 true, 1, _, rfl, rfl, rfl, rfl, rfl, by decide +kernel⟩⟩
  · decide +kernel
  · decide +kernel
  · intro b r hb
    simp only [List.mem_cons, List.not_mem_nil, Prod.mk.injEq, or_false] at hb
    obtain ⟨rfl, rfl⟩ | ⟨rfl, rfl⟩ := hb
    · exact ⟨queueing 0x800100 1 (packet 1) 0, 131071, by decide +kernel⟩
    · exact ⟨queueing 0x800100 1 (packet 0) 0, 131071, by decide +kernel⟩
  · intro b hb
    simp only [List.mem_cons, List.not_mem_nil, or_false] at hb
    obtain rfl | rfl := hb
    · exact ⟨queueing 0x800100 1 (gangPacket 599) 600, 131071, by decide +kernel⟩
    · exact ⟨queueing 0x800100 1 (gangPacket 600) 600, 131071, by decide +kernel⟩
  · decide +kernel
  · intro e he i hi hd
    simp only [graph, List.mem_cons, List.not_mem_nil, or_false] at he
    obtain rfl | rfl | rfl := he
    · rfl
    · simp only [Option.some.injEq, Prod.mk.injEq] at hi
      obtain ⟨-, rfl⟩ := hi
      exact absurd hd (by decide)
    · cases hi
  · exact ⟨_, .head _, rfl, by decide, by decide⟩

theorem witness_QueueAndGroupEvents_groups :
    (∃ (s : State) (p q : Nat) (l : Launch), servedPrio s (candidateQueues s 0) = some p ∧
      nextQueue (s.cluster 0).last ((candidateQueues s 0).filter fun q => match candidateOf s q with | some l => l.pkt.prio == p | none => false) = some q ∧
      candidateOf s q = some l ∧ l.pkt.prio = p ∧ (mapGet q (s.cluster 0).deficits).getD 0 + 32 * queueWeight s q < l.pkt.ext.getD 0 1) ∧
    (∃ (s : State) (p q : Nat) (l : Launch), servedPrio s (candidateQueues s 0) = some p ∧
      nextQueue (s.cluster 0).last ((candidateQueues s 0).filter fun q => match candidateOf s q with | some l => l.pkt.prio == p | none => false) = some q ∧
      candidateOf s q = some l ∧ l.pkt.prio = p ∧ l.pkt.ext.getD 0 1 = (mapGet q (s.cluster 0).deficits).getD 0 + 32 * queueWeight s q ∧
      l = (turnOf s).1 ∧ admissible (turnOf s).2.1 l = true ∧ candidateOf (turnOf s).2.2 q = none ∧ (turnOf s).2.2.takePacket 0 q = (turnOf s).2.2) ∧
    (∀ never ∈ [[], [6]], ∃ (s : State) (cluster gid : Nat) (rest cores slots : List Nat), (s.cluster cluster).waiting = never ++ gid :: rest ∧
      (∀ k ∈ never, everFits s cluster (s.launch (s.group k).launch).pkt = false) ∧
      everFits s cluster (s.launch (s.group gid).launch).pkt = true ∧ gid ∉ never ∧
      groupFits s (s.group gid) (s.launch (s.group gid).launch).pkt cores slots = true ∧ (s.launch (s.group gid).launch).pkt.mode = 0) ∧
    (∃ (s : State) (cluster gid : Nat) (rest cores slots : List Nat), (s.cluster cluster).waiting = [] ++ gid :: rest ∧
      everFits s cluster (s.launch (s.group gid).launch).pkt = true ∧
      groupFits s (s.group gid) (s.launch (s.group gid).launch).pkt cores slots = false) ∧
    (∃ (s : State) (cluster : Nat), (s.cluster cluster).waiting = [6] ∧
      ∀ k ∈ (s.cluster cluster).waiting, everFits s cluster (s.launch (s.group k).launch).pkt = false) ∧
    (∃ (s : State) (cluster victim gid : Nat), cluster < 64 ∧ victim < 64 ∧ victim / 8 = cluster / 8 ∧ victim ≠ cluster ∧
      stealable s victim = some gid ∧ (∀ k, k < 64 → k / 8 = cluster / 8 → k ≠ cluster → k ≠ victim → stealable s k = none) ∧
      hasFreeContext s cluster = true ∧ servedPrio s (candidateQueues s cluster) = none ∧ (s.cluster cluster).waiting = []) ∧
    (∃ (s : State) (cluster victim gid : Nat), cluster < 64 ∧ victim < 64 ∧ victim / 8 = cluster / 8 ∧ victim ≠ cluster ∧
      stealable s victim = some gid ∧ (∀ k, k < 64 → k / 8 = cluster / 8 → k ≠ cluster → k ≠ victim → stealable s k = none) ∧
      hasFreeContext s cluster = true ∧ (s.cluster cluster).waiting ≠ []) ∧
    (∃ (s : State) (gid : Nat) (g : Group), mapGet gid s.groups = some g ∧ g.phase = .started ∧ g.alive = 0 ∧ commandsOf s gid = false) ∧
    (∃ (s : State) (gid : Nat) (g : Group), mapGet gid s.groups = some g ∧ g.phase = .started ∧ g.alive ≠ 0) := by
  refine ⟨⟨offering 0 1, 0, 131071, (turnOf (offering 0 1)).1, ?_⟩, ⟨offering 1 32, 0, 131071, (turnOf (offering 1 32)).1, ?_⟩,
    ?_, ⟨queuedGroups [(0, { waiting := [5] })], 0, 5, [], [7], [4], rfl, ?_⟩, ⟨queuedGroups [(0, { waiting := [6] })], 0, rfl, ?_⟩,
    ⟨queuedGroups [(7, { waiting := [5] })], 0, 7, 5, ?_⟩, ⟨queuedGroups [(7, { waiting := [5] }), (0, { waiting := [6] })], 0, 7, 5, ?_⟩,
    ⟨ending 0, 5, _, rfl, rfl, rfl, ?_⟩, ⟨ending 1, 5, _, rfl, rfl, ?_⟩⟩ <;> try decide +kernel
  intro never h
  simp only [List.mem_cons, List.not_mem_nil, or_false] at h
  obtain rfl | rfl := h
  · exact ⟨queuedGroups [(0, { waiting := [5] })], 0, 5, [], [7], [3], by decide +kernel⟩
  · exact ⟨queuedGroups [(0, { waiting := [6, 5] })], 0, 5, [], [7], [3], by decide +kernel⟩

/-- A command of that descriptor with its linear side at `base`, on the channel of a core with started commands. -/
def cmdTo (op base : Nat) : Cmd :=
  { command (engine issuer) issuer 4 10 0x8000 op 0 none with desc := BitVec.ofNat 512 (moveOne - 0x8000009000 * 2 ^ 64 + base * 2 ^ 64) }
def channel (q : List Cmd) (l : List Active) : State :=
  { engine (withG issuer []) with cores := [(0, { ch := (Vector.replicate 2 {}).set 1 { queue := q, active := l } })] }

/-- A core whose only member holds the tasks of a list or is pre-empted, with a command on its channel. -/
def pouring (l : List (Nat × Task)) (op space : Nat) (state : Option EngState) : State :=
  let c := cmdTo op (space * 2 ^ 60 + 15)
  let x : Channel := match state with | none => { queue := [c] } | some e => { active := [{ cmd := c, state := e }] }
  { State.reset with tasks := l, gone := [{ core := 0, slot := 3, va := 0, troot := 0, tasid := 0, gid := 0 }],
                     cores := [(0, { ch := (Vector.replicate 2 {}).set 1 x })] }

/-- A task of another number, with a ring of one entry of four bytes and a stream that is closed or open. -/
def ringed (closed : Bool) : Task :=
  { uid := 1, n := (Vector.replicate 16 {}).set 15 { base := 0xF000000000, size := 4, count := 1 },
    z := (Vector.replicate 16 {}).set 15 { base := 0xF000000000, size := 16, closed := closed } }

/-- A command whose body is read, on a channel without its task, and whether it has stores to an aperture. -/
def landing (state : EngState) (out : Bool) : State :=
  let a : Active := { cmd := cmdTo 0x49 0x8000009000, state := state, resvd := true, elem := 1 }
  { channel [] [a] with
    tasks := [],
    nets := { State.reset.nets with outside := if out then [
      { ident := 3, src := { uid := 0, chan := some (0, 1) }, pa := 0x4000000000000, size := 8, store := some 1, since := 0 }] else [] } }

/-- Two members of a collective that meet, with operations `a` and `b`. -/
def meeting (a b : Nat) : State :=
  let c (i o : Nat) : Active := { cmd := { cmdTo 0x4C 0x8000009000 with i0 := i, bop := BitVec.ofNat 64 (3 + o * 2 ^ 32 + 2 ^ 35) }, state := .meeting }
  { State.reset with cores := [(0, { ch := (Vector.replicate 2 {}).set 1 { active := [c 0 a, c 1 b] } })] }

theorem noMember {s : State} {gid i group mask m : Nat}
    (h : ∀ e ∈ s.cores, ∀ k, k < 2 → ∀ a ∈ (e.2.chan k).active, a.cmd.seqNo ≠ m) : findMember s gid i group mask m = none := by
  simp only [findMember, List.findSome?_eq_none_iff, List.mem_range, Option.map_eq_none_iff, List.findIdx?_eq_none_iff]
  intro e he k hk a ha
  simp [h e he k hk a ha]

theorem meeting_one (a b m : Nat) (h : m ≠ 0) : collMembers (meeting a b) 0 0 (3 : BitVec 32).toNat m = none := by
  have l : (List.range 32).filter (fun i => (3 : BitVec 32).toNat / 2 ^ i % 2 == 1) = [0, 1] := by decide
  unfold collMembers
  rw [l, List.mapM_cons, noMember]
  · rfl
  · intro e he k hk c hc
    obtain rfl : e = _ := List.mem_singleton.mp he
    have hk : k = 0 ∨ k = 1 := by omega
    obtain rfl | rfl := hk
    · cases hc
    · have hc : c = _ ∨ c ∈ [_] := List.mem_cons.mp hc
      obtain rfl | hc := hc
      · exact fun x => h x.symm
      · obtain rfl := List.mem_singleton.mp hc
        exact fun x => h x.symm

/-- What lets the oldest command of a channel start, or does not, as `Obligations.EngineEvents` says it. -/
def startsOf (s : State) (core ch : Nat) (c : Cmd) : Bool :=
  let runs (y : Channel) : Nat := (y.active.filter fun a => a.state != .meeting).length
  (decide (((List.range 8).map fun j => ((s.core (core / 8 * 8 + j)).ch.toList.map runs).sum).sum < 16) || c.op == 0x4C) &&
  ((s.launch (s.group c.gid).launch).pkt.mode != 1 || ((s.core core).chan ch).active == []) &&
  ((s.core core).chan ch).active.all fun a => a.state != .stopped

theorem witness_EngineEvents :
    (∃ (s : State) (core ch : Nat) (c : Cmd) (rest : List Cmd), ch < 2 ∧ ((s.core core).chan ch).queue = c :: rest ∧
      startsOf s core ch c = true ∧ c.op = 0x4C) ∧
    (∀ x ∈ [(true, false), (false, true), (false, false)], ∃ (s : State) (core ch : Nat) (c : Cmd) (rest : List Cmd), ch < 2 ∧
      ((s.core core).chan ch).queue = c :: rest ∧ startsOf s core ch c = true ∧ c.op ≠ 0x4C ∧ streamShut s c = x.1 ∧ sideGone s c = x.2) ∧
    (∀ n ∈ [15, 16], ∃ (s : State) (core ch : Nat) (c : Cmd) (rest : List Cmd), ch < 2 ∧ ((s.core core).chan ch).queue = c :: rest ∧
      ((s.core core).chan ch).active.length = n ∧ startsOf s core ch c = decide (n < 16)) ∧
    (∃ (s : State) (core ch : Nat) (c : Cmd) (rest : List Cmd), ch < 2 ∧ ((s.core core).chan ch).queue = c :: rest ∧
      ∃ a ∈ ((s.core core).chan ch).active, a.state = .stopped) := by
  refine ⟨⟨channel [cmdTo 0x4C 0x8000009000] [], 0, 1, cmdTo 0x4C 0x8000009000, [], by decide, rfl, by decide +kernel, by decide +kernel⟩, ?_, ?_,
    ⟨channel [cmdTo 0x49 0x8000009000] [{ cmd := cmdTo 0x49 0x8000009000, state := .stopped }], 0, 1, cmdTo 0x49 0x8000009000, [], by decide, rfl, _,
      .head _, rfl⟩⟩
  · intro x h
    simp only [List.mem_cons, List.not_mem_nil, or_false] at h
    obtain rfl | rfl | rfl := h
    · exact ⟨pouring [(0, ringed true)] 0x49 4 none, 0, 1, cmdTo 0x49 (4 * 2 ^ 60 + 15), [], by decide +kernel⟩
    · exact ⟨pouring [] 0x49 4 none, 0, 1, cmdTo 0x49 (4 * 2 ^ 60 + 15), [], by decide +kernel⟩
    · exact ⟨pouring [(0, ringed false)] 0x49 4 none, 0, 1, cmdTo 0x49 (4 * 2 ^ 60 + 15), [], by decide +kernel⟩
  · intro n h
    simp only [List.mem_cons, List.not_mem_nil, or_false] at h
    obtain rfl | rfl := h
    · exact ⟨channel [cmdTo 0x49 0x8000009000] (List.replicate 15 { cmd := cmdTo 0x49 0x8000009000, state := .moving }), 0, 1,
        cmdTo 0x49 0x8000009000, [], by decide +kernel⟩
    · exact ⟨channel [cmdTo 0x49 0x8000009000] (List.replicate 16 { cmd := cmdTo 0x49 0x8000009000, state := .moving }), 0, 1,
        cmdTo 0x49 0x8000009000, [], by decide +kernel⟩

/-- A command with nothing to do after its body. -/
def simpleEnd (a : Active) : Bool :=
  a.cmd.follow == none && postOf a.cmd.desc == 0 && !closeOf a.cmd.desc && decide (bodies a.cmd.desc ≤ a.body + 1)

theorem witness_EngineEvents_bodies :
    (∀ out : Bool, ∃ (s : State) (core ch : Nat) (a : Active) (rest : List Active), ch < 2 ∧ ((s.core core).chan ch).active = a :: rest ∧
      a.state = .moving ∧ a.resvd = true ∧ a.elem = bodyElems a.cmd.desc ∧ spaceOf (lBase a.cmd.desc) < 3 ∧ a.push = [] ∧ a.landed = 0 ∧
      simpleEnd a = true ∧
      cmdStoresOut ((landBuf (cmdSource s ch a.cmd) (landSize a.cmd) a.buf.length s a.buf).updIssuer a.cmd fun t => t.lateFlags a.flags) a.cmd.cid = out) ∧
    (∃ (s : State) (core ch : Nat) (a : Active) (rest : List Active), ch < 2 ∧ ((s.core core).chan ch).active = a :: rest ∧
      a.elem ≠ bodyElems a.cmd.desc) ∧
    (∀ out : Bool, ∃ (s : State) (core ch : Nat) (a : Active) (rest : List Active), ch < 2 ∧ ((s.core core).chan ch).active = a :: rest ∧
      a.state = .acking ∧ simpleEnd a = true ∧ cmdStoresOut s a.cmd.cid = out) ∧
    (∀ gone : Bool, ∃ (s : State) (core ch : Nat) (a : Active) (rest : List Active), ch < 2 ∧ ((s.core core).chan ch).active = a :: rest ∧
      a.state = .waiting ∧ a.resvd = false ∧ a.cmd.op ≠ 0x4C ∧ streamShut s a.cmd = false ∧ sideGone s a.cmd = gone) := by
  refine ⟨fun out => ⟨landing .moving out, 0, 1, { cmd := cmdTo 0x49 0x8000009000, state := .moving, resvd := true, elem := 1 }, [], ?_⟩,
    ⟨channel [] [{ cmd := cmdTo 0x49 0x8000009000, state := .moving }], 0, 1, { cmd := cmdTo 0x49 0x8000009000, state := .moving }, [], by decide, rfl,
      by decide +kernel⟩,
    fun out => ⟨landing .acking out, 0, 1, { cmd := cmdTo 0x49 0x8000009000, state := .acking, resvd := true, elem := 1 }, [], ?_⟩, fun gone => ?_⟩
  · cases out <;> decide +kernel
  · cases out <;> decide +kernel
  · cases gone
    · exact ⟨pouring [(0, ringed false)] 0x49 3 (some .waiting), 0, 1, { cmd := cmdTo 0x49 (3 * 2 ^ 60 + 15), state := .waiting }, [], by decide +kernel⟩
    · exact ⟨pouring [] 0x49 3 (some .waiting), 0, 1, { cmd := cmdTo 0x49 (3 * 2 ^ 60 + 15), state := .waiting }, [], by decide +kernel⟩

/-- A window that shades the bytes that a command on a channel reads, with or without the command. -/
def shading (b : Bool) : State :=
  let x := channel [] (if b then [{ cmd := cmdTo 0x49 0x8000009000, state := .moving, resvd := true }] else [])
  { x with regs := { x.regs with windows := (Vector.replicate 8 {}).set 0 { ctl := 0x100, mirror := 0x8000, len := 0x2000 } } }

/-- A task that waits for an answer of the aperture at `pa`. -/
def apart (pa cyc uid : Nat) (store : Option Nat) (atomic : Option (AtomOp × Nat × Nat)) (fetch : Bool) : State :=
  { lone (waiting [.answer pa]) with
    bundle := {}, chip := { State.reset.chip with cycles := cyc },
    nets := { State.reset.nets with outside := [
      { ident := 3, src := { uid := uid }, pa := pa, size := 8, store := store, atomic := atomic, since := 0, fetch := fetch }] } }

/-- A write of the host that waits for its register. -/
def delayed : State := { served 0 with notes := { (served 0).notes with hostWrites := [{ ident := 1, key := none, uid := 0, num := 0x529, value := 1 }] } }

theorem witness_HostEvents :
    (∃ (s : State) (n : Nat) (v : W64), crAssigned n = true ∧ crOfTask n = false ∧ n < 4096 ∧ crRefused s {} n v = false ∧
      windowShut s n v = none ∧ s.notes.hostWrites = [] ∧ n ≠ 0x40) ∧
    (∃ (s : State) (n : Nat) (v : W64), crAssigned n = true ∧ crOfTask n = false ∧ n < 4096 ∧ crRefused s {} n v = false ∧ windowShut s n v = none ∧
      ∃ x ∈ s.notes.hostWrites, x.key = none ∧ x.num = n) ∧
    (∃ (s : State) (n : Nat) (v : W64), crAssigned n = true ∧ crOfTask n = false ∧ n < 4096 ∧ crRefused s {} n v = false ∧ s.notes.hostWrites = [] ∧
      n = 0x40 ∧ ∃ e ∈ s.tasks, atomRuns e.2 = true) ∧
    (∀ b : Bool, ∃ (s : State) (n w : Nat) (v : W64), crAssigned n = true ∧ crOfTask n = false ∧ n < 4096 ∧ crRefused s {} n v = false ∧
      windowShut s n v = some w ∧ aliasBusy s w = b ∧ s.notes.hostWrites = []) ∧
    (∃ (s : State) (n : Nat) (v : W64), crAssigned n = true ∧ crOfTask n = false ∧ n < 4096 ∧ crRefused s {} n v = true ∧ s.notes.hostWrites = []) ∧
    (∃ n, crAssigned n = false) ∧ (∃ off size : Nat, size ≠ 8 ∨ off % 8 ≠ 0) ∧
    (∃ (s : State) (pa size : Nat), 0 < size ∧ size ≤ 8 ∧ pa + size = usableSize s ∧ s.chip.memOn = true ∧ poisonAt s pa size = none) ∧
    (∃ (s : State) (pa size : Nat), 0 < size ∧ size ≤ 8 ∧ pa + size ≤ usableSize s ∧ s.chip.memOn = true ∧ poisonAt s pa size ≠ none ∧
      pa + size ≤ s.regs.qtbase.toNat) ∧
    (∃ (s : State) (q : Nat), q < queueCount ∧ queuePa s q 8 ≤ usableSize s ∧ s.chip.memOn = true) ∧
    (∃ (s : State) (v : W64), v.toNat = 2 ^ 18 - 1 ∧ s.regs.hinvctl.getLsbD 62 = true ∧ s.notes.hostWrites = []) ∧
    (∃ (s : State) (r : Rec) (rest : List Rec), s.notes.nqWait = r :: rest ∧ s.regs.nqctl.getLsbD 0 = false) ∧
    (∃ (s : State) (r : Rec) (rest : List Rec), s.notes.nqWait = r :: rest ∧ s.regs.nqctl.getLsbD 0 = true ∧
      (s.regs.nqwr + 2 ^ 32 - s.regs.nqrd) % 2 ^ 32 < 2 ^ (s.regs.nqctl.toNat / 2 ^ 4 % 2 ^ 4 + 4)) ∧
    (∃ s : State, s.regs.hinvctl.getLsbD 62 = false ∧ bodiesMoving s = [] ∧ rowsQueued s = [] ∧ ∀ o ∈ s.nets.outside, o.store = none ∧ o.atomic = none) ∧
    (∃ s : State, bodiesMoving s ≠ []) ∧ (∃ s : State, ∃ o ∈ s.nets.outside, o.store ≠ none) ∧ (∃ s : State, ∃ o ∈ s.nets.outside, o.atomic ≠ none) ∧
    (∃ s : State, s.regs.attctl.getLsbD 1 = false ∧ s.regs.attbuf.toNat + 0x1000 = usableSize s) ∧
    (∃ s : State, s.regs.attctl.getLsbD 1 = false ∧ usableSize s < s.regs.attbuf.toNat + 0x1000) := by
  refine ⟨⟨served 0, 0x529, 0, ?_⟩, ⟨delayed, 0x529, 0, ?_, ?_, ?_, ?_, ?_, _, .head _, rfl, rfl⟩,
    ⟨lone { atomRoom := 1, tier1 := 1, loops := [{ start := 0x3080, stop := 0x3084, left := 1 }] }, 0x40, 0x100, ?_, ?_, ?_, ?_, rfl, rfl, _, .head _, ?_⟩, fun b => ⟨shading b, 0x104, 0, 0, by cases b <;> decide +kernel⟩, ⟨served 0, 0x303, 0xFF, ?_⟩, ⟨0xFFF, ?_⟩, ⟨4, 8, ?_⟩, ⟨served 0, 2 ^ 39 - 8, 8, ?_⟩, ⟨served 0, 0x7F, 8, ?_⟩,
    ⟨served 0, 131071, ?_⟩, ⟨State.reset, 2 ^ 18 - 1, ?_⟩, ⟨served 0, _, _, rfl, ?_⟩, ⟨served 1, _, _, rfl, ?_⟩, ⟨served 0, ?_⟩, ⟨carrying, ?_⟩,
    ⟨finishing 1 true, _, .head _, nofun⟩,
    ⟨apart 0x4000000000000 0 0 none (some (.add, 1, 0)) false, _, .head _, nofun⟩,
    ⟨served 0, ?_⟩, ⟨{ served 0 with chip := { State.reset.chip with fences := [{ code := 5, num := 0 }] } }, ?_⟩⟩ <;> try decide +kernel

/-- Whether the members of a collective agree with the first, or do not. -/
def agree (same : Bool) : List ((Nat × Nat × Nat) × Active) → Bool
  | x :: l => (l.all fun q => collOp q.2.cmd == collOp x.2.cmd && collType q.2.cmd == collType x.2.cmd &&
      bodyElems q.2.cmd.desc * dstSize q.2.cmd.desc == bodyElems x.2.cmd.desc * dstSize x.2.cmd.desc) == same
  | [] => false

theorem witness_EngineEvents_collectives (same : Bool) : ∃ (s : State) (gid : Nat) (mask : BitVec 32) (n : Nat) (p : Nat × Nat × Nat) (a : Active)
    (l : List ((Nat × Nat × Nat) × Active)), collMembers s gid 0 mask.toNat n = some ((p, a) :: l) ∧
    (∀ m, m ≠ n → collMembers s gid 0 mask.toNat m = none) ∧
    (l.all fun q => collOp q.2.cmd == collOp a.cmd && collType q.2.cmd == collType a.cmd &&
      bodyElems q.2.cmd.desc * dstSize q.2.cmd.desc == bodyElems a.cmd.desc * dstSize a.cmd.desc) = same := by
  have h : (collMembers (meeting 1 (if same then 1 else 2)) 0 0 (3 : BitVec 32).toNat 0).any (agree same) = true := by cases same <;> decide +kernel
  obtain ⟨l, hl, ha⟩ := (Option.any_eq_true _ _).mp h
  match l, hl, ha with
  | [], _, ha => cases ha
  | x :: l, hl, ha => exact ⟨_, 0, 3, 0, x.1, x.2, l, hl, fun m hm => meeting_one 1 _ m hm, beq_iff_eq.mp ha⟩

theorem memNat_nil (n : Nat) : ∀ a, memNat [] a n = 0 := by
  induction n with
  | zero => exact fun _ => rfl
  | succ n ih => intro a; simp [memNat, ih, memGet, mapGet]

theorem flatMap_nil {α β : Type} (f : α → List β) (h : ∀ x, f x = []) : ∀ l : List α, l.flatMap f = []
  | [] => rfl
  | x :: l => by rw [List.flatMap_cons, h, flatMap_nil f h l]; rfl

theorem filterMap_nil {α β : Type} (f : α → Option β) (h : ∀ x, f x = none) : ∀ l : List α, l.filterMap f = []
  | [] => rfl
  | x :: l => by rw [List.filterMap_cons, h, filterMap_nil f h l]

theorem empty_table : stitchFails [] = none := by
  have s : ∀ r e o l, stitchSrc [] r e o l = 0 := by
    intro r e o l
    rw [stitchSrc, memNat_nil, bitsOf, Nat.zero_div, Nat.zero_mod]
  have d : ∀ q e l, sendDst [] q e l = none := by
    intro q e l
    have : sendEntry [] q e l = 0 := memNat_nil _ _
    rw [sendDst, this]
    rfl
  have o : localOutputs [] = [] := flatMap_nil _ (fun r => flatMap_nil _ (fun e => flatMap_nil _ (fun o => filterMap_nil _ (fun l => by
    rw [s]
    rfl) _) _) _) _
  have p : sendSlots [] = [] := flatMap_nil _ (fun q => flatMap_nil _ (fun e => filterMap_nil _ (fun l => by
    rw [d]
    rfl) _) _) _
  have b1 : stitchBad1 [] = none := by rw [stitchBad1, o]; rfl
  have b2 : stitchBad2 [] = none := by rw [stitchBad2, p]; rfl
  have b3 : stitchBad3 [] = none := by rw [stitchBad3, slotPaths, o]; rfl
  rw [stitchFails, b1, b2, b3]
  rfl

/-- A state with a load asked for and a table in memory, and one with a checked table and posts at a step. -/
def asking (l : List Host.Cell) : State := { State.reset with mem := l, nets := { State.reset.nets with stitchReq := some true } }
def checked (tsc : Nat) (l : List Post) : State :=
  { State.reset with nets := { State.reset.nets with stitchNew := some none, posts := l }, regs := { State.reset.regs with tsc := tsc } }

/-- A state with link 15 as given, and a flit on it. -/
def linked (k : Link) : State := { State.reset with regs := { State.reset.regs with links := (Vector.replicate 16 {}).set 15 k, devid := 7 } }
def flit (ok : Bool) (dst : BitVec 8) (n : BitVec 16) : Flit := { crcOk := ok, src := 1, dst := dst, flow := 2, seq := n, kind := 0, payload := 0 }

/-- A part at a clock cycle whose die is hot or not, with errors of the channel of address 0. -/
def part (cyc : Nat) (hot : Bool) (n : Nat) : State :=
  { State.reset with chip := { State.reset.chip with cycles := cyc, hot := hot, errs := [(5, 0, 2, n)] } }

/-- A post that has been on the dynamic network for 4096 cycles, and a device whose flits for device 8 go over link 3, which is up or not. -/
def escaping : State :=
  { part 4096 false 0 with
    nets := { State.reset.nets with posts := [{ src := 0, dst := 1, flag := 0, count := 1, launch := 0, net := .dynamic }] },
    regs := { State.reset.regs with tsc := 4096 } }
def routed (up : Bool) : State :=
  { State.reset with regs := { State.reset.regs with
      links := ((Vector.replicate 16 {}).set 15 { up := true }).set 3 { up := up }, devid := 7, route := [(8, 8)] } }

theorem witness_StitchAndLinkEvents :
    (∃ s : State, s.nets.stitchReq = some true ∧ stitchFails (stitchImage s) = none) ∧
    (∃ (s : State) (c r : Nat), s.nets.stitchReq = some true ∧ stitchFails (stitchImage s) = some (c, r)) ∧
    (∀ x ∈ [(Net.mesh, some (601, 3)), (.mesh, some (600, 2)), (.mesh, none), (.dynamic, none)], ∃ (s : State) (l r : List Post) (p : Post),
      s.nets.posts = l ++ p :: r ∧ p.net = x.1 ∧ p.steps = x.2 ∧ s.regs.tsc = 600) ∧
    (∃ (s : State) (x : Option (List Host.Cell)), s.nets.stitchNew = some x ∧ s.regs.tsc % 256 = 0 ∧ s.nets.posts = []) ∧
    (∀ held : Bool, ∃ (s : State) (x : Option (List Host.Cell)) (p : Post), s.nets.stitchNew = some x ∧ s.regs.tsc % 256 = 0 ∧
      s.nets.posts = [p] ∧ p.net = .mesh ∧ p.held = held) ∧
    (∃ (s : State) (x : Option (List Host.Cell)), s.nets.stitchNew = some x ∧ s.regs.tsc % 256 ≠ 0) ∧
    (∃ (s : State) (l r : List Post) (p : Post), 4096 ≤ s.chip.cycles ∧ s.nets.posts = l ++ p :: r ∧ p.net = .dynamic ∧
      p.sent + 4096 = s.regs.tsc ∧ ∀ x ∈ l, x.src ≠ p.src ∨ x.dst ≠ p.dst ∨ x.net ≠ .dynamic) ∧
    (∃ s : State, 4096 ≤ s.chip.cycles ∧ s.nets.posts = []) ∧
    (∃ (s : State) (n : Nat) (f : Flit), n < 16 ∧ (s.regs.links[n]?.getD {}).up = true ∧ (s.regs.links[n]?.getD {}).train = false ∧ f.crcOk = false ∧
      (s.regs.links[n]?.getD {}).await = none) ∧
    (∃ (s : State) (n : Nat) (f : Flit), n < 16 ∧ (s.regs.links[n]?.getD {}).up = true ∧ (s.regs.links[n]?.getD {}).train = false ∧
      ∃ w, (s.regs.links[n]?.getD {}).await = some w ∧ w ≠ (f.src, f.flow, f.seq)) ∧
    (∀ up : Bool, ∃ (s : State) (n : Nat) (f : Flit) (i : Nat), n < 16 ∧ (s.regs.links[n]?.getD {}).up = true ∧ (s.regs.links[n]?.getD {}).train = false ∧
      (s.regs.links[n]?.getD {}).await = none ∧ f.crcOk = true ∧ f.dst.toNat ≠ s.regs.devid.toNat % 2 ^ 8 ∧
      routeLinks s f.dst none = [] ++ i :: [] ∧ (linkOf s i).up = up ∧ (linkOf s i).train = false) ∧
    (∀ d ∈ [7, 8], ∀ q ∈ [0, 1], ∃ (s : State) (n : Nat) (f : Flit), n < 16 ∧ (s.regs.links[n]?.getD {}).up = true ∧
      (s.regs.links[n]?.getD {}).train = false ∧ f.crcOk = true ∧ f.dst = d ∧ s.regs.devid.toNat % 2 ^ 8 = 7 ∧ s.nets.flows = [] ∧ f.seq = q) ∧
    (∃ (s : State) (n : Nat), n < 16 ∧ (s.regs.links[n]?.getD {}).fails = 16 ∧ (s.regs.links[n]?.getD {}).train = false) ∧
    (∃ (s : State) (n : Nat), n < 16 ∧ (s.regs.links[n]?.getD {}).fails = 15) ∧
    (∃ (s : State) (n : Nat), n < 16 ∧ (s.regs.links[n]?.getD {}).up = false) :=
  ⟨⟨asking [], rfl, empty_table⟩, ⟨asking [(40, 6)], 1, 0, rfl, by decide +kernel⟩,
   fun x _ => ⟨checked 600 [{ src := 0, dst := 1, flag := 0, count := 1, launch := 0, net := x.1, steps := x.2 }], [], [], _, rfl, rfl, rfl, rfl⟩,
   ⟨checked 512 [], _, rfl, by decide, rfl⟩,
   fun held => ⟨checked 512 [{ src := 0, dst := 1, flag := 0, count := 1, launch := 0, net := .mesh, held := held }], _, _, rfl, (show 512 % 256 = 0 by decide), rfl, rfl, rfl⟩,
   ⟨checked 511 [], _, rfl, by decide⟩,
   ⟨escaping, [], [], _, Nat.le_refl 4096, rfl, rfl, rfl, nofun⟩, ⟨part 4096 false 0, Nat.le_refl 4096, rfl⟩,
   ⟨linked { up := true }, 15, flit false 7 0, by decide +kernel⟩,
   ⟨linked { up := true, await := some (1, 2, 0) }, 15, flit true 7 1, by decide +kernel, by decide +kernel, by decide +kernel, (1, 2, 0), by decide +kernel⟩,
   fun up => ⟨routed up, 15, flit true 8 0, 3, by cases up <;> decide +kernel⟩,
   fun d _ q _ => ⟨linked { up := true }, 15, flit true d q, by decide, by decide +kernel, by decide +kernel, rfl, rfl, by decide +kernel, rfl, rfl⟩,
   ⟨linked { up := true, fails := 16 }, 15, by decide +kernel⟩, ⟨linked { up := true, fails := 15 }, 15, by decide +kernel⟩,
   ⟨linked { train := true }, 15, by decide +kernel⟩⟩

/-- A follower of cadence group 7 with a status and a time step. -/
def follower (stat : W64) (tsc : Nat) : State :=
  { State.reset with regs := { State.reset.regs with cgctl := 0x107, cgstat := stat, tsc := tsc },
                     chip := { State.reset.chip with measured := stat == 1 } }

/-- A launch of a mode that has not ended. -/
def running (mode n : Nat) : State := { State.reset with launches := [(0, { pkt := { mode := mode }, admitted := n })] }

/-- A device with a bubble of five cycles announced for `n` steps from now. -/
def bubbly (n : Nat) : State := { State.reset with chip := { State.reset.chip with bubbles := [(n, 5)] } }

/-- A store of a task to an aperture, and a load of its bytes that waits behind it. -/
def first : Outside := { ident := 3, src := { uid := 1 }, pa := 0x4000000000000, size := 8, store := some 1, since := 0 }
def behind : State := { State.reset with nets := { State.reset.nets with outside := [first, { first with ident := 4, store := none }] } }

/-- Whether a die has measured more power than its limit; a state whose die 7 has. -/
def Hotter (s : State) : Prop :=
  ∃ d, d < 8 ∧ (s.regs.pwr[d]?.getD 0).toNat % 2 ^ 16 < (s.regs.pwr[d]?.getD 0).toNat / 2 ^ 16 % 2 ^ 16
def warm (s : State) : State := { s with regs := { s.regs with pwr := s.regs.pwr.set 7 (5 + 6 * 2 ^ 16) } }

theorem hotter (s : State) : Hotter (warm s) := ⟨7, by decide, by
  simp only [warm, Vector.getElem?_set_self, Option.getD_some]
  decide⟩

theorem cool : ∀ d, d < 8 → ¬ (State.reset.regs.pwr[d]?.getD 0).toNat % 2 ^ 16 < (State.reset.regs.pwr[d]?.getD 0).toNat / 2 ^ 16 % 2 ^ 16 := by
  decide

theorem witness_ApertureAndCadenceEvents :
    (∀ pa ∈ [0x4000000000000, 0x1000000000000], ∀ store ∈ [none, some 1], ∀ fetch : Bool,
      ∃ (s : State) (l r : List Outside) (o : Outside) (k : Nat) (t : Task), s.nets.outside = l ++ o :: r ∧ (∀ x ∈ l, x.ident ≠ o.ident) ∧
        keyOfUid s o.src.uid = some k ∧ s.task k = some t ∧ o.pa = pa ∧ o.store = store ∧ o.atomic = none ∧ o.fetch = fetch ∧
        waitsBehind s o = false ∧ s.chip.cycles < o.since + 2 ^ 24) ∧
    (∀ pa ∈ [0x4000000000000, 0x1000000000000], ∃ (s : State) (o : Outside), s.nets.outside = [] ++ o :: [] ∧ o.pa = pa ∧ o.store = none ∧
      o.atomic ≠ none ∧ s.bundle.live = false ∧ waitsBehind s o = false ∧ s.chip.cycles < o.since + 2 ^ 24) ∧
    (∀ pa ∈ [0x4000000000000, 0x1000000000000], ∃ (s : State) (o : Outside), s.nets.outside = [] ++ o :: [] ∧ o.pa = pa ∧ o.store = none ∧
      o.atomic = none ∧ keyOfUid s o.src.uid = none ∧ waitsBehind s o = false ∧ s.chip.cycles < o.since + 2 ^ 24 ∧ s.gone = [] ∧
      s.notes.hostWrites = []) ∧
    (∃ (s : State) (o : Outside), s.nets.outside = [] ++ o :: [] ∧ o.store = none ∧ o.atomic = none ∧ keyOfUid s o.src.uid = none ∧
      waitsBehind s o = false ∧ s.chip.cycles < o.since + 2 ^ 24 ∧ ∃ g ∈ s.gone, g.uid = o.src.uid) ∧
    (∃ (s : State) (o : Outside), s.nets.outside = [] ++ o :: [] ∧ o.store = none ∧ o.atomic = none ∧ keyOfUid s o.src.uid = none ∧
      waitsBehind s o = false ∧ s.chip.cycles < o.since + 2 ^ 24 ∧ s.gone = [] ∧ ∃ e ∈ s.notes.hostWrites, e.ident = o.src.uid) ∧
    (∃ (s : State) (l r : List Outside) (o : Outside), s.nets.outside = l ++ o :: r ∧ (∀ x ∈ l, x.ident ≠ o.ident) ∧ regionOf s o.pa = .peer ∧
      waitsBehind s o = true) ∧
    (∃ s : State, regionOf s 0x4000000000000 = .peer ∧ regionOf s 0x1000000000000 = .host) ∧
    (∀ n ∈ [2 ^ 24 - 1, 2 ^ 24], ∀ fetch : Bool, ∃ (s : State) (o : Outside) (k : Nat) (t : Task) (st : Stall), s.nets.outside = [] ++ o :: [] ∧
      keyOfUid s o.src.uid = some k ∧ s.task k = some t ∧ regionOf s o.pa = .peer ∧ s.bundle.live = false ∧ s.chip.cycles = o.since + n ∧
      o.fetch = fetch ∧ t.run = .ready ∧ t.stall = some st ∧ s.cadenced t = false ∧ t.arrayStop = none) ∧
    (∀ stat ∈ [(0 : W64), 1], ∀ tsc ∈ [2 ^ 16 - 1, 2 ^ 16], ∃ s : State, s.regs.cgctl.getLsbD 8 = true ∧
      s.regs.cgctl.toNat % 2 ^ 8 ≠ s.regs.devid.toNat % 2 ^ 8 ∧ s.regs.cgstat = stat ∧ cadencedRuns s = false ∧ s.regs.tsc = tsc ∧
      s.chip.lastMeasure = 0 ∧ s.chip.lastCorrect = 0 ∧ s.chip.measured = (stat == 1)) ∧
    (∃ s : State, s.regs.cgctl.getLsbD 8 = true ∧ s.regs.cgctl.toNat % 2 ^ 8 ≠ s.regs.devid.toNat % 2 ^ 8 ∧ cadencedRuns s = true ∧
      s.chip.measured = false) ∧
    (∀ ofs ∈ [-1, 0, 1, 2], ∃ t1 t2 tl turn : Nat, (2 * ((tl : Int) - t2) + ((t2 : Int) - t1 - turn)).tdiv 2 = ofs) ∧
    (∃ (s : State) (n : Nat), s.regs.cgctl.getLsbD 8 = true ∧ 0 < n ∧ n = 64) ∧
    (∃ (s : State) (n : Nat), s.chip.bubbles = [] ++ (s.regs.tsc, n) :: [] ∧ s.chip.bubble = 0) ∧
    (∃ (s : State) (n : Nat), s.chip.bubbles = [] ++ ((s.regs.tsc + 1) % 2 ^ 64, n) :: [] ∧ s.chip.bubble = 0 ∧ s.chip.holdStep = false ∧
      s.notes.hostWrites = [] ∧ s.nets.posts = []) ∧
    (∀ x ∈ [(0, 1), (1, 0)], ∃ s : State, s.chip.bubble = 0 ∧ s.regs.cgctl.getLsbD 8 = false ∧ Hotter s ∧ (∃ e ∈ s.launches, e.2.pkt.mode = x.1 ∧ e.2.admitted = x.2) ∧
      ∀ e ∈ s.launches, e.2.pkt.mode = 0 ∨ e.2.phase = .done ∨ e.2.admitted = 0) ∧
    (∃ s : State, s.chip.bubble = 0 ∧ ¬ Hotter s) ∧
    (∃ s : State, s.chip.bubble = 0 ∧ ∃ e ∈ s.launches, e.2.pkt.mode = 1 ∧ e.2.phase ≠ .done ∧ e.2.admitted = 1) := by
  have c8 : (0x107 : W64).getLsbD 8 = true := by decide
  have c7 : (0x107 : W64).toNat % 2 ^ 8 ≠ (0 : W64).toNat % 2 ^ 8 := by decide
  have soon : 0 < 0 + 2 ^ 24 := by decide
  refine ⟨fun pa _ store _ fetch => ⟨apart pa 0 0 store none fetch, [], [], _, 0, _, rfl, nofun, rfl, rfl, rfl, rfl, rfl, rfl, rfl, soon⟩,
    fun pa _ => ⟨apart pa 0 0 none (some (.add, 1, 0)) false, _, rfl, rfl, rfl, nofun, rfl, rfl, soon⟩,
    fun pa _ => ⟨apart pa 0 1 none none false, _, rfl, rfl, rfl, rfl, rfl, rfl, soon, rfl, rfl⟩,
    ⟨{ apart 0x1000000000000 0 1 none none false with gone := [{ core := 0, slot := 0, va := 0, troot := 0, tasid := 0, gid := 0, uid := 1 }] }, _,
      rfl, rfl, rfl, rfl, rfl, by decide, _, .head _, rfl⟩,
    ⟨{ apart 0x1000000000000 0 1 none none false with notes := (delayed).notes }, _, rfl, rfl, rfl, rfl, rfl, by decide, rfl, _, .head _, rfl⟩,
    ⟨behind, [first], [], { first with ident := 4, store := none }, rfl, by decide, by decide +kernel, by decide +kernel⟩, ⟨State.reset, by decide +kernel⟩, ?_,
    fun stat _ tsc _ => ⟨follower stat tsc, c8, c7, rfl, rfl, rfl, rfl, rfl, rfl⟩,
    ⟨{ follower 0 0 with launches := (running 1 1).launches }, c8, c7, rfl, rfl⟩, ?_, ⟨follower 1 0, 64, rfl, by decide, rfl⟩,
    ⟨bubbly 0, 5, rfl, rfl⟩, ⟨bubbly 1, 5, rfl, rfl, rfl, rfl, rfl⟩, ?_, ⟨State.reset, rfl, fun ⟨d, hd, h⟩ => cool d hd h⟩,
    ⟨running 1 1, rfl, _, .head _, rfl, by decide, rfl⟩⟩
  · intro n h fetch
    have p : ∀ fetch : Bool, regionOf (apart 0x4000000000000 (2 ^ 24 - 1) 0 none none fetch) 0x4000000000000 = .peer ∧
        regionOf (apart 0x4000000000000 (2 ^ 24) 0 none none fetch) 0x4000000000000 = .peer := by decide +kernel
    simp only [List.mem_cons, List.not_mem_nil, or_false] at h
    obtain rfl | rfl := h
    · exact ⟨apart 0x4000000000000 (2 ^ 24 - 1) 0 none none fetch, _, 0, _, _, rfl, rfl, rfl, (p fetch).1, rfl, (Nat.zero_add _).symm, rfl, rfl, rfl, rfl, rfl⟩
    · exact ⟨apart 0x4000000000000 (2 ^ 24) 0 none none fetch, _, 0, _, _, rfl, rfl, rfl, (p fetch).2, rfl, (Nat.zero_add _).symm, rfl, rfl, rfl, rfl, rfl⟩
  · intro ofs h
    simp only [List.mem_cons, List.not_mem_nil, or_false] at h
    obtain rfl | rfl | rfl | rfl := h
    · exact ⟨0, 0, 0, 2, rfl⟩
    · exact ⟨0, 0, 0, 0, rfl⟩
    · exact ⟨0, 3, 3, 0, rfl⟩
    · exact ⟨0, 5, 5, 0, rfl⟩
  · intro x h
    simp only [List.mem_cons, List.not_mem_nil, or_false] at h
    obtain rfl | rfl := h
    · exact ⟨warm (running 0 1), rfl, rfl, hotter _, ⟨_, .head _, rfl, rfl⟩, by decide⟩
    · exact ⟨warm (running 1 0), rfl, rfl, hotter _, ⟨_, .head _, rfl, rfl⟩, by decide⟩

theorem witness_ResetEvents : ∀ n ∈ [0, 1, 5], ∃ b : BootInput, b.package = [] ∧ b.failStep = n ∧ b.failStep ≤ 5 := fun n h =>
  ⟨{ failStep := n, image := [], sig := [], config := 0, package := [] }, rfl, rfl, by revert n; decide⟩

/-- A part that has asked for a fence of unit 511, with tasks and with launches that the fence waits for. -/
def fencing (code : Nat) (l : List (Nat × Task)) (h : List (UnitFence × Nat)) : State :=
  { State.reset with tasks := l, chip := { State.reset.chip with fencing := [{ code := code, num := 511 }], fenceHold := h } }

theorem witness_UpkeepAndErrorEvents :
    (∀ hot : Bool, ∃ (s : State) (die : Nat), die < 8 ∧ s.chip.lastBudget + 1024 = s.chip.cycles ∧ 0 < (s.regs.pwr[die]?.getD 0).toNat % 2 ^ 16 ∧
      s.chip.hot = hot) ∧
    (∃ (s : State) (die : Nat), die < 8 ∧ s.chip.cycles ≠ s.chip.lastBudget ∧ s.chip.cycles + 1 = s.chip.lastBudget + 1024) ∧
    (∃ (s : State) (temp : Nat), 105 ≤ temp ∧ s.chip.hot = false) ∧ (∃ temp : Nat, temp < 105 ∧ 100 ≤ temp) ∧
    (∃ (s : State) (pa : Nat), regionOf s pa = .device ∧
      (s.chip.errs.find? fun e => e.1 == 5 && e.2.1 == channelOf s pa).map (·.2.2) = none) ∧
    (∃ (s : State) (pa : Nat) (x : Nat × Nat), regionOf s pa = .device ∧
      (s.chip.errs.find? fun e => e.1 == 5 && e.2.1 == channelOf s pa).map (·.2.2) = some x ∧ x.2 + 1 = 1023) ∧
    (∃ (s : State) (pa : Nat) (x : Nat × Nat), regionOf s pa = .device ∧
      (s.chip.errs.find? fun e => e.1 == 5 && e.2.1 == channelOf s pa).map (·.2.2) = some x ∧ x.2 + 1 = 1024 ∧
      ({ code := 5, num := channelOf s pa } : UnitFence) ∉ s.chip.fences ∧ ({ code := 5, num := channelOf s pa } : UnitFence) ∉ s.chip.fencing) ∧
    (∃ (s : State) (u : UnitFence), u ∈ s.chip.fencing ∧ ∃ h ∈ s.chip.fenceHold, h.1 = u ∧ (s.launch h.2).phase ≠ .done) ∧
    (∀ code ∈ [1, 2, 3], ∃ (s : State) (u : UnitFence), u ∈ s.chip.fencing ∧ (¬ ∃ h ∈ s.chip.fenceHold, h.1 = u ∧ (s.launch h.2).phase ≠ .done) ∧
      (∀ sl, sl < 4 → s.task (taskKey u.num sl) = none) ∧ u.code = code ∧ ∀ e ∈ s.launches, e.2.pkt.mode = 0 ∨ e.2.phase = .done) ∧
    (∃ (s : State) (u : UnitFence), u ∈ s.chip.fencing ∧ (¬ ∃ h ∈ s.chip.fenceHold, h.1 = u ∧ (s.launch h.2).phase ≠ .done) ∧ u.code = 4 ∧
      (((s.cluster (u.num / 32)).banks[u.num % 32]?).getD {}).owner = none ∧ ∀ e ∈ s.launches, e.2.pkt.mode = 0 ∨ e.2.phase = .done) ∧
    (∀ code ∈ [1, 2, 3], ∃ (s : State) (u : UnitFence), u ∈ s.chip.fencing ∧ ¬ (∀ sl, sl < 4 → s.task (taskKey u.num sl) = none) ∧ u.code = code) :=
  ⟨fun hot => ⟨part 1024 hot 0, 7, by decide, rfl, by cases hot <;> decide +kernel, rfl⟩, ⟨part 1023 false 0, 7, by decide +kernel⟩,
   ⟨part 0 false 0, 105, by decide⟩, ⟨104, by decide⟩, ⟨State.reset, 0, by decide +kernel⟩, ⟨part 0 false 1022, 0, (2, 1022), by decide +kernel⟩,
   ⟨part 0 false 1023, 0, (2, 1023), by decide +kernel⟩,
   ⟨fencing 4 [] [({ code := 4, num := 511 }, 0)], _, .head _, _, .head _, rfl, by decide⟩,
   fun code _ => ⟨fencing code [] [], { code := code, num := 511 }, .head _, nofun, fun _ _ => rfl, rfl, nofun⟩,
   ⟨fencing 4 [] [], _, .head _, nofun, rfl, by decide, nofun⟩,
   fun code _ => ⟨fencing code [(taskKey 511 3, {})] [], { code := code, num := 511 }, .head _, fun h => (nomatch h 3 (by decide)), rfl⟩⟩

/-- Whether an outcome of a fetch is a live bundle. -/
def fetchedLive : Fetched → Bool
  | .ok (.inl (_, _, b)) => b.live
  | _ => false

theorem fetchedLive_elim {x : Fetched} (h : fetchedLive x = true) : ∃ (y : State) (u : Task) (b : Bundle),
    x = .ok (.inl (y, u, b)) ∧ b.live = true := by
  unfold fetchedLive at h
  split at h
  · exact ⟨_, _, _, rfl, h⟩
  · cases h

def turned (w : Nat) : State := { lone coded with bundle := { (lone coded).bundle with words := [w] }, agenda := [.issue 0] }
def fetching : State := State.reset.withFetchWord 32 0x97000000
def fetcher : Task := (fetching.task 0).getD {}

theorem witness_StepRunsDecoded :
    (∃ (s : State) (c : Nat) (l : List Turn) (i : Instr), s.power = true ∧ s.agenda = .issue c :: l ∧ s.bundle.live = true ∧
      decode s.headWord = .ok i) ∧
    (∃ (s : State) (c : Nat) (l : List Turn) (e : DecodeError), s.power = true ∧ s.agenda = .issue c :: l ∧ s.bundle.live = true ∧
      decode s.headWord = .error e) ∧
    (∃ (s : State) (c sl : Nat) (l : List Turn) (t u : Task) (y : State) (b : Bundle), s.power = true ∧ s.agenda = .issue c :: l ∧
      s.bundle.live = false ∧ s.chip.halted = false ∧ s.chip.bubble = 0 ∧ c < 512 ∧ (s.core c).running = some sl ∧
      s.task (taskKey c sl) = some t ∧ t.run = .ready ∧ t.stall = none ∧ t.preempt = false ∧ s.cadenced t = false ∧
      fetchBundle { s with draws := s.draws + 1, agenda := l } c sl t = .ok (.inl (y, u, b)) ∧ b.live = true) ∧
    (∃ (s : State), s.power = true ∧ s.agenda = [] ∧ ((∃ i, Config.nextTurn s.draws = .event i ∧ comesAbout i = true) ∨
      (∃ i, Config.nextTurn s.draws = .event i ∧ comesAbout i = false) ∨ Config.nextTurn s.draws = .tick ∨
      ∃ c, Config.nextTurn s.draws = .issue c)) ∧
    (∃ s : State, s.power = false) := by
  refine ⟨⟨turned 0x97000000, 0, [], .nop true, rfl, rfl, rfl, rfl⟩, ?_, ?_, ?_, ⟨{ lone coded with power := false }, rfl⟩⟩
  · refine ⟨turned 0x99000000, 0, [], ?_⟩
    cases h : decode (turned 0x99000000).headWord with
    | error e => exact ⟨e, rfl, rfl, rfl, rfl⟩
    | ok i =>
      have : (match decode (turned 0x99000000).headWord with | .ok _ => true | .error _ => false) = false := by decide +kernel
      rw [h] at this; cases this
  · have hf : fetchedLive (fetchBundle { fetching with draws := fetching.draws + 1, agenda := [] } 0 0 fetcher) = true := by decide +kernel
    obtain ⟨y, u, b, hy, hb⟩ := fetchedLive_elim hf
    exact ⟨fetching, 0, 0, [], fetcher, u, y, b, by decide +kernel, by decide +kernel, by decide +kernel, by decide +kernel,
      by decide +kernel, by decide, by decide +kernel, by decide +kernel, by decide +kernel, by decide +kernel, by decide +kernel,
      by decide +kernel, hy, hb⟩
  · refine ⟨lone coded, rfl, rfl, ?_⟩
    cases h : Config.nextTurn (lone coded).draws with
    | event i => cases hc : comesAbout i with
      | true => exact .inl ⟨i, rfl, hc⟩
      | false => exact .inr (.inl ⟨i, rfl, hc⟩)
    | tick => exact .inr (.inr (.inl rfl))
    | issue c => exact .inr (.inr (.inr ⟨c, rfl⟩))

/-- A read of code that is answered at one placement, without a request. -/
def readOf (s : State) (t : Task) (va : W64) : Nat × List (Nat × Nat × W64) × List TlbEntry × List Nat :=
  match codeRead s 0 t va 4 with | .ok r => r | .error _ => (0, [], [], [1])
def readable (s : State) (t : Task) (va : W64) : Bool :=
  (match codeRead s 0 t va 4 with | .ok r => r.2.2.2.isEmpty | .error _ => false) && (readOf s t va).2.1.head?.isSome
def firstPa (s : State) (t : Task) (va : W64) : Nat := ((readOf s t va).2.1.head?.map (·.1)).getD 0

theorem readable_elim {s : State} {t : Task} {va : W64} (h : readable s t va = true) :
    codeRead s 0 t va 4 = .ok ((readOf s t va).1, (readOf s t va).2.1, (readOf s t va).2.2.1, []) ∧
    (readOf s t va).2.1.head?.map (·.1) = some (firstPa s t va) := by
  simp only [readable, Bool.and_eq_true] at h
  constructor
  · unfold readOf
    cases hc : codeRead s 0 t va 4 with
    | error e => simp [hc] at h
    | ok r =>
      obtain ⟨r1, r2, r3, r4⟩ := r
      have h1 := h.1; simp only [hc, List.isEmpty_iff] at h1
      simp [h1]
  · unfold firstPa
    cases hc : (readOf s t va).2.1.head? with
    | none => simp [hc] at h
    | some x => rfl

/-- A bundle of one word. -/
def stopped : State := { lone coded with mem := placeMem 0x97000000 [] }

/-- Four words of code, none of the first three with S = 1. -/
def worded : State :=
  { lone coded with mem := memPut 0x3084 0x17000000 4 (memPut 0x3088 0x17000000 4 (memPut 0x308C 0x17000000 4 (placeMem 0x17000000 []))) }

theorem witness_FetchedWords :
    (∃ (s : State) (core : Nat) (t : Task) (va : W64) (room n : Nat) (w pa : Nat → Nat) (p : Nat → List (Nat × Nat × W64))
      (f : Nat → List TlbEntry), n < 4 ∧ 4 * n + 4 ≤ room ∧
      (∀ k, k ≤ n → codeRead s core t (va + BitVec.ofNat 64 (4 * k)) 4 = .ok (w k, p k, f k, []) ∧
        (p k).head?.map (·.1) = some (pa k)) ∧
      (∀ k, k < n → w k / 2 ^ 31 % 2 = 0) ∧ w n / 2 ^ 31 % 2 = 1) ∧
    (∃ (s : State) (core : Nat) (t : Task) (va : W64) (room n : Nat) (w pa : Nat → Nat) (p : Nat → List (Nat × Nat × W64))
      (f : Nat → List TlbEntry), n < 4 ∧ 4 * n + 4 ≤ room ∧
      (∀ k, k ≤ n → codeRead s core t (va + BitVec.ofNat 64 (4 * k)) 4 = .ok (w k, p k, f k, []) ∧
        (p k).head?.map (·.1) = some (pa k)) ∧
      (∀ k, k < n → w k / 2 ^ 31 % 2 = 0) ∧ n = 3) ∧
    (∃ (w : Nat) (i : Instr), w < 2 ^ 32 ∧ decode w = .ok i) := by
  let v (k : Nat) : W64 := 0x3080 + BitVec.ofNat 64 (4 * k)
  refine ⟨⟨stopped, 0, coded, 0x3080, 4, 0, fun k => (readOf stopped coded (v k)).1, fun k => firstPa stopped coded (v k),
      fun k => (readOf stopped coded (v k)).2.1, fun k => (readOf stopped coded (v k)).2.2.1, by decide, by decide, ?_,
      fun k h => absurd h (Nat.not_lt_zero k), ?_⟩,
    ⟨worded, 0, coded, 0x3080, 16, 3, fun k => (readOf worded coded (v k)).1, fun k => firstPa worded coded (v k),
      fun k => (readOf worded coded (v k)).2.1, fun k => (readOf worded coded (v k)).2.2.1, by decide, by decide, ?_, ?_, rfl⟩,
    ⟨0x97000000, _, by decide, rfl⟩⟩
  · intro k hk
    have h : ∀ k, k ≤ 0 → readable stopped coded (v k) = true := by decide +kernel
    exact readable_elim (h k hk)
  · decide +kernel
  · intro k hk
    have h : ∀ k, k ≤ 3 → readable worded coded (v k) = true := by decide +kernel
    exact readable_elim (h k hk)
  · decide +kernel

/-- Whether an outcome is a next state. -/
def goesOn : Host.Outcome State Fault Refusal → Bool
  | .next _ => true
  | _ => false

theorem witness_MemoryStaysCanonical : ∃ s s' : State, memWf s.mem = true ∧ step s = .next s' := by
  have h : goesOn (step fetching) = true := by decide +kernel
  refine ⟨fetching, ?_⟩
  cases hs : step fetching with
  | next s' => exact ⟨s', by decide +kernel, rfl⟩
  | fault f => rw [hs] at h; cases h
  | refused r => rw [hs] at h; cases h

theorem witness_MemoryReadsBack :
    (∃ m : List Host.Cell, memWf m = true) ∧
    (∃ m m' : List Host.Cell, memWf m = true ∧ memWf m' = true ∧ ∀ a, memGet m a = memGet m' a) ∧
    (∃ s : State, memWf s.mem = true) :=
  ⟨⟨[(3, 1), (7, 255)], by decide⟩, ⟨[(3, 1)], [(3, 1)], by decide, by decide, fun _ => rfl⟩, ⟨lone viewer, by decide +kernel⟩⟩

theorem witness_RegisterWriteFrame : ∃ (s : State) (t : Task), s.task s.key = some t ∧
    (∀ p ∈ t.pending, ¬(p.file = .g ∧ p.reg = 2)) :=
  ⟨lone busy, busy, rfl, by decide⟩

/-- A bundle of two slots at its first. -/
def paired : State :=
  { lone ready with bundle := { (lone ready).bundle with words := [0x17000000, 0x97000000], code := [0x17000000, 0x97000000] } }

theorem witness_BundleContract :
    (∃ (t : Task) (p : Pend), t.pending = [p] ∧ p.file = .g ∧ p.reg < 48 ∧ 1 ≤ p.left) ∧
    (∃ (t : Task) (p q : Pend), t.pending = [p, q] ∧ p.file = .g ∧ q.file = .g ∧ p.reg = q.reg ∧ q.reg < 48 ∧ 1 ≤ q.left ∧
      p.left ≤ q.left) ∧
    (∃ (t : Task) (e : XEntry) (p : Pend), e.exposed ≠ t.exposed ∧ t.keepMode = false ∧ t.pending = [p] ∧ p.file = .g ∧ p.reg < 48) ∧
    (∃ (s : State) (t : Task) (st : Bool) (d a e b : Code) (w : Nat) (l : List Nat), s.curTask = some t ∧ s.bundle.staged = [] ∧
      s.bundle.exposed = t.exposed ∧ t.poison = [] ∧ s.cadenced t = false ∧ s.bundle.words = w :: l ∧ l ≠ [] ∧
      (st = true ∨ l.tail = []) ∧ DstG d ∧ DstG e ∧ SrcG a ∧ SrcG b ∧ d = e ∧ d.toNat < 48) ∧
    (∃ (s : State) (t : Task) (st : Bool) (d a e b : Code) (w : Nat) (l : List Nat), s.curTask = some t ∧ s.bundle.staged = [] ∧
      s.bundle.exposed = t.exposed ∧ t.poison = [] ∧ s.cadenced t = false ∧ s.bundle.words = w :: l ∧ l ≠ [] ∧
      (st = true ∨ l.tail = []) ∧ DstG d ∧ DstG e ∧ SrcG a ∧ SrcG b ∧ (d ≠ e ∨ d.toNat = 56)) :=
  let p : Pend := { file := .g, reg := 47, mask := 0xFF, val := 5, left := 1 }
  ⟨⟨{ pending := [p] }, p, rfl, rfl, by decide, by decide⟩,
   ⟨{ pending := [p, p] }, p, p, rfl, rfl, rfl, rfl, by decide, by decide, by decide⟩,
   ⟨{ exposed := true, pending := [p] }, { die := 0, objid := 0, va := 0, shape := 0, pas := [], words := [], exposed := false }, p, by decide, rfl, rfl, rfl, by decide⟩,
   ⟨paired, ready, true, 47, 57, 47, 56, 0x17000000, [0x97000000], rfl, rfl, rfl, rfl, rfl, rfl, by decide, .inl rfl, g47.1, g47.1, g57,
     g56.2, rfl, by decide⟩,
   ⟨paired, ready, false, 47, 57, 56, 56, 0x17000000, [0x97000000], rfl, rfl, rfl, rfl, rfl, rfl, by decide, .inr rfl, g47.1, g56.1, g57,
     g56.2, .inl (by decide)⟩⟩

theorem witness_TrapEntry :
    (∃ (s : State) (core slot : Nat) (t : Task) (i : TrapInfo) (mask req : Nat), s.cadenced t = false ∧ core < 512 ∧ slot < 4 ∧
      mask < 16 ∧ req < 8 ∧ i.subc < 256 ∧ (∀ l, i.lane = some l → l < 32) ∧ s.task (taskKey core slot) = some t ∧
      t.tvec ≠ 0 ∧ t.deleg.getLsbD i.cause.code = true ∧ t.inh = false) ∧
    (∃ (s : State) (core slot : Nat) (t : Task) (i : TrapInfo) (mask req : Nat), s.cadenced t = false ∧ core < 512 ∧ slot < 4 ∧
      mask < 16 ∧ req < 8 ∧ i.subc < 256 ∧ (∀ l, i.lane = some l → l < 32) ∧ s.task (taskKey core slot) = some t ∧
      t.tvec ≠ 0 ∧ t.deleg.getLsbD i.cause.code = true ∧ t.inh = true) :=
  ⟨⟨lone { ready with tvec := 0x4000, deleg := -1 }, 0, 0, _, { cause := .privilege, lane := some 31, subc := 255 }, 15, 7, rfl, by decide,
     by decide, by decide, by decide, by decide, (fun l h => by cases h; decide), rfl, by decide, by decide, rfl⟩,
   ⟨lone { ready with tvec := 0x4000, deleg := -1, estat := 4 }, 0, 0, _, { cause := .privilege }, 1, 0, rfl, by decide, by decide, by decide,
     by decide, by decide, (fun l h => by cases h), rfl, by decide, by decide, by decide⟩⟩

theorem witness_EncodingTraps :
    (∃ (s : State) (t : Task) (st : Bool) (d a b : Code), Alone s st t ∧ 58 ≤ d.toNat ∧ d.toNat ≠ 62 ∧ SrcG a ∧ SrcG b) ∧
    (∃ (s : State) (t : Task) (st : Bool) (d a b : Code), Alone s st t ∧ d.toNat = 57 ∧ SrcG a ∧ 48 ≤ b.toNat ∧ b.toNat < 56) ∧
    (∃ (s : State) (t : Task) (st : Bool) (d a b : Code), Alone s st t ∧ DstG d ∧ a.toNat = 61 ∧ SrcG b) ∧
    (∃ (s : State) (t : Task) (st : Bool) (d a b : Code), Alone s st t ∧ DstG d ∧ SrcG a ∧ b.toNat = 63) ∧
    (∃ (s : State) (t : Task) (st : Bool) (d a b : Code), Alone s st t ∧ DstG d ∧ SrcG a ∧ b.toNat = 62) ∧
    (∃ (s : State) (t : Task) (st : Bool) (d a b : Code), Alone s st t ∧ DstV t d ∧ SrcV t a ∧ t.vcnt ≤ b.toNat ∧ b.toNat < 48) ∧
    (∃ (s : State) (t : Task) (st : Bool) (a b : Code), Alone s st t ∧ t.sup = false ∧ Idle t ∧ SrcG a ∧ SrcG b) ∧
    (∃ (s : State) (t : Task) (st : Bool), Alone s st t ∧ t.sup = false ∧ t.inh = false ∧ t.loops = [] ∧ holdsControl s.bundle = false) ∧
    (∃ (s : State) (t : Task) (st : Bool), Alone s st t ∧ t.sup = true ∧ t.inh = false ∧ t.loops = [] ∧ holdsControl s.bundle = false) :=
  let few : Task := { vcnt := 8 }
  let sup : Task := { estat := 1 }
  ⟨⟨lone ready, ready, true, 58, 57, 47, lone_alone _ rfl, by decide, by decide, g57, g47.2⟩,
   ⟨lone ready, ready, true, 57, 57, 55, lone_alone _ rfl, by decide, g57, by decide, by decide⟩,
   ⟨lone ready, ready, true, 47, 61, 57, lone_alone _ rfl, g47.1, by decide, g57⟩,
   ⟨lone ready, ready, true, 47, 57, 63, lone_alone _ rfl, g47.1, g57, by decide⟩,
   ⟨lone ready, ready, true, 47, 57, 62, lone_alone _ rfl, g47.1, g57, by decide⟩,
   ⟨lone few, few, true, 7, 57, 8, lone_alone _ rfl, .inl (by decide), .inr (.inr rfl), by decide, by decide⟩,
   ⟨lone ready, ready, true, 47, 57, lone_alone _ rfl, by decide, ⟨rfl, rfl⟩, g47.2, g57⟩,
   ⟨plainWord ready, ready, true, plainWord_alone _ rfl, by decide, by decide, rfl, by decide⟩,
   ⟨plainWord sup, sup, true, plainWord_alone _ rfl, by decide, by decide, rfl, by decide⟩⟩

end Sys2Proof.Tests
end

section
/-! SUPPORT AND PROOF OF O54. The machine after reset. -/

namespace Sys2Proof.Machine

/-- Every element of a vector of equal elements, and what stands beyond its end, is that element. -/
theorem getD_replicate {α : Type} (n i : Nat) (d : α) : (Vector.replicate n d)[i]?.getD d = d := by
  rw [Vector.getElem?_replicate]; split <;> rfl

section
variable (die : Option Nat) (t : Task) {n : Nat}

/-- After reset no format window holds anything (R259). -/
theorem crRead_reset_windows (h : 0x100 ≤ n) (h' : n < 0x140) : crRead State.reset die t n = 0 := by
  have hlow : ∀ k, k < 0x100 → n ≠ k := by omega
  have hw : State.reset.regs.windows[(n - 0x100) / 8]?.getD {} = ({} : FWindow) := getD_replicate ..
  simp only [crRead, hlow, h, h', hw, Nat.reduceLT, if_false, and_self, if_true]
  split <;> rfl

/-- After reset no publish entry holds anything (R316). -/
theorem crRead_reset_pubs (h : 0x200 ≤ n) (h' : n < 0x300) : crRead State.reset die t n = 0 := by
  have hlow : ∀ k, k < 0x200 → n ≠ k := by omega
  have hw : State.reset.regs.pubs[(n - 0x200) / 4]?.getD {} = ({} : PubEntry) := getD_replicate ..
  simp only [crRead, hlow, h, h', hw, Nat.reduceLT, if_false, and_self, if_true, show ¬ n < 0x140 by omega, and_false]
  split <;> rfl

/-- After reset every device link is down (R391). -/
theorem crRead_reset_links (h : 0x320 ≤ n) (h' : n < 0x330) : crRead State.reset die t n = 0 := by
  have hlow : ∀ k, k < 0x320 → n ≠ k := by omega
  have hw : State.reset.regs.links[n - 0x320]?.getD {} = ({} : Link) := getD_replicate ..
  simp only [crRead, hlow, h, h', hw, Nat.reduceLT, if_false, and_self, if_true, show ¬ n < 0x140 by omega, show ¬ n < 0x300 by omega,
    and_false]
  rfl

/-- After reset no device has a route (R391). -/
theorem crRead_reset_routes (h : 0x400 ≤ n) (h' : n < 0x500) : crRead State.reset die t n = 0 := by
  have hlow : ∀ k, k < 0x400 → n ≠ k := by omega
  simp only [crRead, hlow, h, h', Nat.reduceLT, if_false, and_self, if_true, show ¬ n < 0x140 by omega, show ¬ n < 0x300 by omega,
    show ¬ n < 0x330 by omega, and_false]
  rfl

/-- The budget of each die after reset (R413, R418). -/
theorem crRead_reset_power (h : 0x510 ≤ n) (h' : n < 0x518) : crRead State.reset die t n = 250 := by
  have hlow : ∀ k, k < 0x510 → n ≠ k := by omega
  have hp : State.reset.regs.pwr[n - 0x510]?.getD 0 = 250 := by
    show (Vector.replicate 8 (250 : W64))[n - 0x510]?.getD 0 = 250
    rw [Vector.getElem?_replicate, if_pos (by omega)]; rfl
  simp only [crRead, hlow, h, h', hp, Nat.reduceLT, if_false, and_self, if_true, show ¬ n < 0x140 by omega, show ¬ n < 0x300 by omega,
    show ¬ n < 0x330 by omega, show ¬ n < 0x500 by omega, and_false]

end

/-- Settles O54: the ranges of control registers by one lemma each, the single numbers by evaluating the read. -/
theorem resetValues : Obligations.ResetValues := by
  unfold Obligations.ResetValues
  refine ⟨⟨rfl, memWf_reset⟩, rfl, rfl, rfl, rfl, by decide, fun _ => crRead_reset_windows _ _, fun _ => crRead_reset_pubs _ _,
    fun _ => crRead_reset_links _ _, fun _ => crRead_reset_routes _ _, ?_⟩
  exact ⟨by decide, by decide, by decide, by decide, by decide, fun _ => crRead_reset_power _ _⟩

end Sys2Proof.Machine
end

section
/-! SUPPORT AND PROOF OF O49. A core's turn fetches the next bundle of its running task and executes its first word. -/

namespace Sys2Proof.Machine

section
variable (s : State)

@[simp] theorem launches_cacheFills (l : List TlbEntry) : (s.cacheFills l).launches = s.launches := by
  unfold State.cacheFills; split <;> rfl

@[simp] theorem launches_raiseWindows (l : List (Nat × BitVec 8)) : (s.raiseWindows l).launches = s.launches := by
  induction l generalizing s with
  | nil => rfl
  | cons f l ih => exact ih (s.windowFlags f.1 f.2)

@[simp] theorem launches_touchLines (pa n : Nat) : (s.touchLines pa n).launches = s.launches := by
  unfold State.touchLines; split <;> rfl

@[simp] theorem launches_touchPlaces (l : List (Nat × Nat × W64)) : (s.touchPlaces l).launches = s.launches := by
  have each (l : List (Nat × Nat × W64)) (x : State) :
      (l.foldl (fun x p => x.touchLines p.1 p.2.1) x).launches = x.launches := by
    induction l generalizing x with
    | nil => rfl
    | cons p l ih => exact (ih _).trans (launches_touchLines x p.1 p.2.1)
  unfold State.touchPlaces; split
  · exact each l s
  · rfl

@[simp] theorem launches_sawPlaces (old : State) (fills : List TlbEntry) (l : List (Nat × Nat × W64)) :
    (s.sawPlaces old fills l).launches = s.launches := by simp [State.sawPlaces]

@[simp] theorem launches_keepObject (o : CodeObj) : (s.keepObject o).launches = s.launches := by
  unfold State.keepObject; split <;> rfl

@[simp] theorem launches_keepSig (r : SigRes) : (s.keepSig r).launches = s.launches := by
  unfold State.keepSig; split <;> rfl

@[simp] theorem launches_cacheBundle (e : XEntry) : (s.cacheBundle e).launches = s.launches := by
  unfold State.cacheBundle; split <;> rfl

variable {s} {core slot : Nat} {t u : Task} {b : Bundle} {y : State}

theorem launches_translateWords {o : CodeObj} {pc : W64} {signed : Bool}
    (h : translateWords s core slot t o pc signed = .ok (.inl (y, u, b))) : y.launches = s.launches := by
  simp only [translateWords] at h
  split at h
  · cases h
  · split at h
    · cases h
    · cases h
    · split at h
      · cases h
      · split at h
        · cases h
        · cases h; simp

theorem launches_translateBundle (h : translateBundle s core slot t = .ok (.inl (y, u, b))) : y.launches = s.launches := by
  simp only [translateBundle] at h
  split at h
  · cases h
  · cases h
  · split at h
    · cases h
    · split at h
      · simpa using launches_translateWords h
      · split at h
        · cases h
        · cases h
        · split at h
          · simpa using launches_translateWords h
          · cases h

/-- A fetch changes no launch. -/
theorem launches_fetchBundle (h : fetchBundle s core slot t = .ok (.inl (y, u, b))) : y.launches = s.launches := by
  simp only [fetchBundle] at h
  split at h
  · split at h
    · cases h
    · split at h
      · cases h; simp
      · simpa using launches_translateBundle h
  · exact launches_translateBundle h

end

-- Turns (R12, R213, R219). ---------------------------------------------------------------------------------------

section
variable {s : State} {core slot : Nat} {t u : Task} {b : Bundle} {y : State}

/-- A core whose running task waits for nothing keeps it (R214). -/
theorem pickTask_of_running (hr : (s.core core).running = some slot) (ht : s.task (taskKey core slot) = some t) (hs : t.stall = none) :
    s.pickTask core = s := by
  simp only [State.pickTask, hr, ht]
  split
  · rename_i h _; cases h; rw [hs]
  · rfl

/-- The next bundle of a task outside a gang, live on its core. -/
theorem fetchInto_of_fetch (hc : s.cadenced t = false) (hf : fetchBundle s core slot t = .ok (.inl (y, u, b))) :
    s.fetchInto core slot t = (y.setTask (taskKey core slot) u).liveBundle core b := by
  have hg : gangFetched s t = none := by simp [gangFetched, hc]
  have hy : (y.setTask (taskKey core slot) u).cadenced t = false := by
    rw [← hc]; simp [State.cadenced, State.launch, State.setTask, launches_fetchBundle hf]
  simp [State.fetchInto, hg, hf, State.setOrigin, State.broadcast, hy]

/-- A core's turn where no bundle is live: its ready task, outside a gang and with no pre-emption asked for, fetches its next
bundle (R213, R219, R342). -/
theorem issuePrep_of_fetch (hl : s.bundle.live = false) (hh : s.chip.halted = false) (hb : s.chip.bubble = 0) (hcore : core < 512)
    (hr : (s.core core).running = some slot) (ht : s.task (taskKey core slot) = some t) (hrun : t.run = .ready)
    (hs : t.stall = none) (hp : t.preempt = false) (hc : s.cadenced t = false)
    (hf : fetchBundle s core slot t = .ok (.inl (y, u, b))) :
    s.issuePrep core = (y.setTask (taskKey core slot) u).liveBundle core b := by
  have hstop : ¬ (issueStops s = true ∨ core ≥ 512) := by simp [issueStops, hh, hb, hcore]
  simp [State.issuePrep, hl, hstop, pickTask_of_running hr ht hs, hr, ht, hrun, hc, hp, State.openBundle, hs,
    fetchInto_of_fetch hc hf]

/-- The head word of a live bundle is the slot that is executed. -/
theorem issueSlot_ok {i : Instr} (hl : s.bundle.live = true) (hd : decode s.headWord = .ok i) : issueSlot s = exec i s := by
  simp [issueSlot, hl, hd]

theorem issueSlot_error {e : DecodeError} (hl : s.bundle.live = true) (hd : decode s.headWord = .error e) :
    issueSlot s = finishBad s.headWord e s := by
  simp [issueSlot, hl, hd]

/-- A step in which the agenda has a core's turn. -/
theorem step_issue {l : List Turn} (hp : s.power = true) (ha : s.agenda = .issue core :: l) :
    step s = issueSlot (State.issuePrep { s with draws := s.draws + 1, agenda := l } core) := by
  simp [step, hp, State.takeTurn, ha]

theorem issuePrep_live (hl : s.bundle.live = true) : s.issuePrep core = s := by
  simp [State.issuePrep, hl]

end

/-- Settles O49: a turn of a core comes to `issueSlot` of the state in which a bundle is live. -/
theorem stepRunsDecoded : Obligations.StepRunsDecoded := by
  unfold Obligations.StepRunsDecoded
  refine ⟨?_, ?_, ?_, fun s hp => by simp [step, hp]⟩
  · intro s c l hp ha hl x
    have hx : step s = issueSlot x := by
      rw [step_issue hp ha, issuePrep_live (s := x) hl]
    exact ⟨fun i hd => hx.trans (issueSlot_ok (s := x) hl hd), fun e hd => hx.trans (issueSlot_error (s := x) hl hd)⟩
  · intro s c sl l t u y b hp ha hl hh hb hc hr ht hrun hs hpre hcad hf hlive noLatch x
    have hx : step s = issueSlot x := by
      rw [step_issue hp ha, issuePrep_of_fetch (s := { s with draws := s.draws + 1, agenda := l }) hl hh hb hc hr ht hrun hs hpre hcad hf]
      rfl
    exact ⟨fun i hd => hx.trans (issueSlot_ok (s := x) hlive hd), fun e hd => hx.trans (issueSlot_error (s := x) hlive hd)⟩
  · intro s i hp ha x
    exact ⟨fun hn hc => by simp [step, hp, State.takeTurn, ha, hn, hc, x], fun hn hc => by simp [step, hp, State.takeTurn, ha, hn, hc, x],
      fun hn => by simp [step, hp, State.takeTurn, ha, hn, x]⟩

end Sys2Proof.Machine
end

section
/-! SUPPORT AND PROOF OF O50. The words of a bundle, and the fetch of the word that `State.withFetchWord` places. -/

namespace Sys2Proof.Machine

-- The words of a bundle (R12, R30). --------------------------------------------------------------------------------

/-- The reads of the code behind an address, one word after the other, are the words of the bundle up to the first with S = 1, or as
many as `m` allows. -/
theorem bundleWords_upto {s : State} {core : Nat} {t : Task} {m n room : Nat} {va : W64} {w pa : Nat → Nat}
    {p : Nat → List (Nat × Nat × W64)} {f : Nat → List TlbEntry} (hn : n < m) (hroom : 4 * n + 4 ≤ room)
    (reads : ∀ k, k ≤ n → codeRead s core t (va + BitVec.ofNat 64 (4 * k)) 4 = .ok (w k, p k, f k, []) ∧
      (p k).head?.map (·.1) = some (pa k))
    (goesOn : ∀ k, k < n → w k / 2 ^ 31 % 2 = 0) (ends : w n / 2 ^ 31 % 2 = 1 ∨ n + 1 = m) :
    bundleWords s core t m va room =
      .ok (some ((List.range (n + 1)).map fun k => (w k, pa k)), (List.range (n + 1)).flatMap f, []) := by
  induction m generalizing n va room w pa p f with
  | zero => omega
  | succ m ih =>
    obtain ⟨read, place⟩ := reads 0 (by omega)
    rw [Nat.mul_zero, show va + BitVec.ofNat 64 0 = va by simp] at read
    have room4 : ¬ room < 4 := by omega
    simp only [bundleWords, room4, if_false, read, place, Option.getD_some, ne_eq, not_true_eq_false, or_false]
    cases n with
    | zero =>
      split
      · simp
      · obtain rfl : m = 0 := by omega
        simp [bundleWords]
    | succ n =>
      have next := ih (n := n) (va := va + 4) (room := room - 4) (w := fun k => w (k + 1)) (pa := fun k => pa (k + 1))
        (p := fun k => p (k + 1)) (f := fun k => f (k + 1)) (by omega) (by omega)
        (fun k hk => by
          have := reads (k + 1) (by omega)
          rwa [show va + BitVec.ofNat 64 (4 * (k + 1)) = va + 4 + BitVec.ofNat 64 (4 * k) by
            rw [Nat.mul_add, BitVec.ofNat_add, BitVec.add_comm (BitVec.ofNat 64 (4 * k)), ← BitVec.add_assoc]; rfl] at this)
        (fun k hk => goesOn (k + 1) (by omega)) (by omega)
      rw [if_neg (by rw [goesOn 0 (by omega)]; decide), next, List.range_succ_eq_map (n := n + 1)]
      simp [List.map_map, List.flatMap_map, Function.comp_def]

-- Bytes of memory read back (R30, R87). ----------------------------------------------------------------------------

theorem mapGet_mapDel {α : Type} (k j : Nat) (l : List (Nat × α)) : mapGet j (mapDel k l) = if j = k then none else mapGet j l := by
  induction l with
  | nil => simp [mapDel, mapGet]
  | cons e l ih =>
    obtain ⟨i, v⟩ := e
    simp only [mapDel] at ih ⊢
    by_cases hi : i = k
    · subst hi
      by_cases hj : j = i
      · subst hj; simpa using ih
      · simp [ih, hj, mapGet, Ne.symm hj]
    · by_cases hj : i = j
      · subst hj; simp [mapGet, hi]
      · simp [mapGet, hi, hj, ih]

/-- A byte written is read back, and every other byte reads as before. -/
theorem memGet_memSet (a c : Nat) (b : Byte) (m : List Host.Cell) : memGet (memSet a b m) c = if c = a then b else memGet m c := by
  unfold memGet memSet
  by_cases hb : b = 0
  · rw [if_pos hb, mapGet_mapDel]; split <;> simp [hb]
  · rw [if_neg hb]
    by_cases hc : c = a
    · simp [hc]
    · rw [mapGet_mapSet_ne hc, if_neg hc]

/-- A byte below those written reads as before. -/
theorem memGet_memPut_below {a c : Nat} (h : c < a) (v n : Nat) (m : List Host.Cell) : memGet (memPut a v n m) c = memGet m c := by
  induction n generalizing a v m with
  | zero => rfl
  | succ n ih => rw [memPut, ih (by omega), memGet_memSet, if_neg (by omega)]

/-- A byte above those written reads as before. -/
theorem memGet_memPut_above {a c : Nat} (v : Nat) {n : Nat} (h : a + n ≤ c) (m : List Host.Cell) :
    memGet (memPut a v n m) c = memGet m c := by
  induction n generalizing a v m with
  | zero => rfl
  | succ n ih => rw [memPut, ih _ (by omega), memGet_memSet, if_neg (by omega)]

theorem memNat_congr {m m' : List Host.Cell} {a n : Nat} (h : ∀ c, a ≤ c → c < a + n → memGet m c = memGet m' c) :
    memNat m a n = memNat m' a n := by
  induction n generalizing a with
  | zero => rfl
  | succ n ih => rw [memNat, memNat, h a (by omega) (by omega), ih fun c hc hc' => h c (by omega) (by omega)]

/-- A number written is read back, as far as its bytes go. -/
theorem memNat_memPut_self (a v n : Nat) (m : List Host.Cell) : memNat (memPut a v n m) a n = v % 256 ^ n := by
  induction n generalizing a v m with
  | zero => simp [memNat, Nat.mod_one]
  | succ n ih =>
    rw [memPut, memNat, memGet_memPut_below (by omega), memGet_memSet, if_pos rfl, ih, Nat.pow_succ', Nat.mod_mul]
    simp


-- The word placed where core 0 fetches next (log entry 28). ---------------------------------------------------------

/-- The memory with a word placed is one memory for every word, with the word in it. -/
theorem placeMem_eq : ∃ m, ∀ w, placeMem w [] = memPut 0x3080 (w % 2 ^ 32) 4 m := ⟨_, fun _ => rfl⟩

/-- Below the word placed, memory holds what it holds under any word: page tables, the header and the region table. -/
theorem placeMem_below (w : Nat) {a n : Nat} (h : a + n ≤ 0x3080) : memNat (placeMem w []) a n = memNat (placeMem 0 []) a n := by
  obtain ⟨m, hm⟩ := placeMem_eq
  rw [hm w, hm 0]
  exact memNat_congr fun c _ hc => by rw [memGet_memPut_below (by omega), memGet_memPut_below (by omega)]

theorem placeMem_root (w : Nat) : memNat (placeMem w []) 0x1000 8 = 0x2001 := (placeMem_below w (by decide)).trans (by decide)

theorem placeMem_leaf (w : Nat) : memNat (placeMem w []) 0x2000 8 = 47 := (placeMem_below w (by decide)).trans (by decide)

theorem placeMem_word {w : Nat} (h : w < 2 ^ 32) : memNat (placeMem w []) 0x3080 4 = w := by
  obtain ⟨m, hm⟩ := placeMem_eq
  rw [hm w, memNat_memPut_self]
  omega

/-- Behind the word placed the code holds zeros. -/
theorem placeMem_above (w : Nat) {k : Nat} (h : 1 ≤ k) (h' : k ≤ 3) : memNat (placeMem w []) (0x3080 + 4 * k) 4 = 0 := by
  have same : memNat (placeMem w []) (0x3080 + 4 * k) 4 = memNat (placeMem 0 []) (0x3080 + 4 * k) 4 := by
    obtain ⟨m, hm⟩ := placeMem_eq
    rw [hm w, hm 0]
    exact memNat_congr fun c hc _ => by rw [memGet_memPut_above _ (by omega), memGet_memPut_above _ (by omega)]
  rw [same]
  obtain rfl | rfl | rfl : k = 1 ∨ k = 2 ∨ k = 3 := by omega
  all_goals decide

-- Its translation (R283 to R289). -----------------------------------------------------------------------------------

/-- The leaf of the code placed, and the table entry above it. -/
def codeLeaf : TlbEntry := { asid := 0, level := 3, key := 0, table := 0x2000, pte := 47 }
def codeRoot : TlbEntry := { asid := 0, level := 4, key := 0, table := 0x1000, pte := 0x2001 }

/-- A state in which the code of `placeMem w` is fetched: nothing is poisoned, fenced, marked or translated, and no other walk than
that to the code is cached. -/
structure CodePlaced (w : Nat) (s : State) : Prop where
  mem    : s.mem = placeMem w []
  poison : s.chip.poison = []
  fences : s.chip.fences = []
  tlb    : ∀ e ∈ s.tlb, e = codeLeaf ∨ e = codeRoot
  marks  : anyDead s = false
  xlat   : s.sky.xlat = []

section
variable {w : Nat} {s : State}

theorem vaIndex_top {va level : Nat} (h : va < 2 ^ 39) (hl : 3 ≤ level) : va / pageSize level = 0 := by
  refine Nat.div_eq_of_lt (Nat.lt_of_lt_of_le h ?_)
  exact Nat.pow_le_pow_right (by decide) (by omega)

theorem walkFrom_leaf (h : CodePlaced w s) {va : Nat} (hva : va < 2 ^ 39) (fills : List TlbEntry) :
    walkFrom s.mem 0 va fills 3 0x2000 = .ok (47, 3, codeLeaf :: fills) := by
  have hi : vaIndex va 3 = 0 := by rw [vaIndex, vaIndex_top hva (by decide)]
  have hb : pteBad 3 va 47 = none := by unfold pteBad; rw [hi]; decide
  unfold walkFrom
  simp only [hi, h.mem, Nat.mul_zero, Nat.add_zero, placeMem_leaf, Nat.reduceAdd, vaIndex_top hva (Nat.le_refl 3)]
  rw [show (BitVec.ofNat 64 47) = (47 : W64) from rfl, hb]
  rfl

/-- What is wrong with an entry that is no leaf does not depend on the address. -/
theorem pteBad_table {level : Nat} {pte : W64} (h : pte.getLsbD 1 = false) (va va' : Nat) : pteBad level va pte = pteBad level va' pte := by
  simp only [pteBad, h, Bool.not_false, if_true]

theorem walkFrom_root (h : CodePlaced w s) {va : Nat} (hva : va < 2 ^ 39) :
    walkFrom s.mem 0 va [] 4 0x1000 = .ok (47, 3, [codeLeaf, codeRoot]) := by
  have hi : vaIndex va 4 = 0 := by rw [vaIndex, vaIndex_top hva (by decide)]
  have hb : pteBad 4 va 0x2001 = none := (pteBad_table rfl va 0).trans (by decide)
  have ha : pteAddr 0x2001 = 0x2000 := by decide
  have next := walkFrom_leaf h hva [codeRoot]
  unfold walkFrom
  rw [h.mem] at next ⊢
  simp only [hi, Nat.mul_zero, Nat.add_zero, placeMem_root, Nat.reduceAdd, vaIndex_top hva (show 3 ≤ 4 by decide)]
  rw [show (BitVec.ofNat 64 0x2001) = (0x2001 : W64) from rfl, hb, ha]
  exact next

/-- The context in which the code of the task placed is fetched (R288). -/
def codeCtx : Ctx := { troot := 0x1000, tasid := 0, sup := false, req := 3, slotL := false, core := 0, gid := 0 }

theorem walkFresh_placed (h : CodePlaced w s) {c : Ctx} (hc : c.troot = 0x1000 ∧ c.tasid = 0 ∧ c.sup = false) {va : W64}
    (hva : va.toNat < 2 ^ 39) :
    walkFresh s c .exec va = .ok { pa := va.toNat, leaf := 47, fills := [codeLeaf, codeRoot] } := by
  obtain ⟨hr, ha, hs⟩ := hc
  have hmod : va.toNat % 2 ^ 57 = va.toNat := Nat.mod_eq_of_lt (by omega)
  have hp : walkPoison s va.toNat 4 0x1000 = none := by rw [walkPoison, if_pos h.poison]
  have hpa : leafPa va.toNat 3 (vaIndex va.toNat 3) 47 = va.toNat := by
    have hb : pteAddr 47 = 0 := by decide
    rw [leafPa, vaIndex, vaIndex_top hva (Nat.le_refl 3), hb]
    simp only [pageSize]
    omega
  have hright : rightsMissing false .exec 47 = false := by decide
  unfold walkFresh
  simp only [hr, ha, hs, hmod]
  rw [if_neg (by decide), show ((0x1000 : W64).toNat / 4096 % 2 ^ 40 * 4096) = 0x1000 from rfl,
    show ((0 : W64).toNat % 2 ^ 16) = 0 from rfl, hp, walkFrom_root h hva]
  simp only [hright, hpa]
  rfl

/-- Every cached walk gives the code the place and the leaf that a fresh one gives. -/
theorem cachedUses_placed (h : CodePlaced w s) {va : Nat} (hva : va < 2 ^ 39) {l : List TlbEntry}
    (hl : ∀ e ∈ l, e = codeLeaf ∨ e = codeRoot) : ∀ u ∈ cachedUses s 0 va false .exec l, u.1 = va ∧ u.2.1 = 47 := by
  have hright : rightsMissing false .exec 47 = false := by decide
  have hpa : leafPa va 3 0 47 = va := by
    have hb : pteAddr 47 = 0 := by decide
    rw [leafPa, vaIndex, vaIndex_top hva (Nat.le_refl 3), hb]
    simp only [pageSize]
    omega
  induction l with
  | nil => intro u hu; cases hu
  | cons e l ih =>
    have rest := ih fun e he => hl e (.tail _ he)
    intro u hu
    rcases hl e (.head _) with rfl | rfl
    · have key : va / pageSize 3 / contOf 47 = 0 := by rw [vaIndex_top hva (Nat.le_refl 3)]; decide
      unfold cachedUses at hu
      simp only [codeLeaf, key, hright, ne_eq, not_true_eq_false, if_false] at hu
      rw [if_pos (by decide), if_pos ⟨by decide, by decide⟩, List.mem_cons] at hu
      rcases hu with rfl | hu
      · exact ⟨hpa, rfl⟩
      · exact rest u hu
    · have hp : walkPoison s va 3 0x2000 = none := by rw [walkPoison, if_pos h.poison]
      have ha : pteAddr 0x2001 = 0x2000 := by decide
      have walk := walkFrom_leaf h hva []
      have hi : vaIndex va 3 = 0 := by rw [vaIndex, vaIndex_top hva (by decide)]
      unfold cachedUses at hu
      simp only [codeRoot, ne_eq, not_true_eq_false, if_false, vaIndex_top hva (show 3 ≤ 4 by decide), ha, hp, walk,
        hright, hi, hpa, Nat.reduceSub] at hu
      rw [if_neg (by decide), if_pos ⟨by decide, trivial, rfl⟩] at hu
      rcases List.mem_cons.1 hu with rfl | hu
      · exact ⟨rfl, rfl⟩
      · exact rest u hu

theorem translate_placed (h : CodePlaced w s) {c : Ctx} (hc : c.troot = 0x1000 ∧ c.tasid = 0 ∧ c.sup = false) {va : W64}
    (hva : va.toNat < 2 ^ 39) :
    translate s c .exec va = .ok { pa := va.toNat, leaf := 47, fills := [codeLeaf, codeRoot] } := by
  have fresh := walkFresh_placed h hc hva
  obtain ⟨-, ha, hs⟩ := hc
  have uses := cachedUses_placed h hva h.tlb
  have hmod : va.toNat % 2 ^ 57 = va.toNat := Nat.mod_eq_of_lt (by omega)
  unfold translate
  simp only [fresh, ha, hs, hmod, show ((0 : W64).toNat % 2 ^ 16) = 0 from rfl]
  rw [if_pos]
  simpa [List.all_eq_true] using uses

/-- A byte of the code placed lies in device memory. -/
theorem regionOf_placed (h : CodePlaced w s) {pa : Nat} (hpa : pa < 2 ^ 32) : regionOf s pa = .device := by
  have size : usableSize s = usableSize State.reset := by simp only [usableSize, h.fences]; rfl
  have big : 2 ^ 32 ≤ usableSize State.reset := by decide
  rw [regionOf, size, if_pos (by omega), if_pos (by omega)]

/-- Every access may reach device memory. -/
theorem regionCheck_device {c : Ctx} {acc : Acc} {n : Nat} {va : W64} (r : Trans) (h : regionOf s r.pa = .device) :
    regionCheck s c acc n va r = .ok r := by
  unfold regionCheck; rw [h]

theorem place_placed (h : CodePlaced w s) {c : Ctx} (hc : c.troot = 0x1000 ∧ c.tasid = 0 ∧ c.sup = false) {va : W64} {n : Nat}
    (hva : va.toNat < 2 ^ 32) :
    place s c .exec n va = .ok { pa := va.toNat, leaf := 47, fills := [codeLeaf, codeRoot] } := by
  have hcan : canonical va = true := by
    have : va.extractLsb' 56 8 = 0 := by
      apply BitVec.eq_of_toNat_eq
      simp [BitVec.extractLsb'_toNat, Nat.shiftRight_eq_div_pow]
      omega
    simp [canonical, this]
  have hnear : inNear va = false := by
    rw [inNear, decide_eq_false (by unfold nearBase; omega), Bool.false_and]
  have hcluster : inCluster va = false := by
    rw [inCluster, decide_eq_false (by unfold clusterBase; omega), Bool.false_and]
  have hpub : (47 : W64).getLsbD 6 = false := by decide
  have hreg := regionCheck_device (s := s) (c := c) (acc := .exec) (n := n) (va := va)
    { pa := va.toNat, leaf := 47, fills := [codeLeaf, codeRoot] } (regionOf_placed h hva)
  unfold place
  rw [translate_placed h hc (by omega)]
  simp only [hcan, hnear, hcluster, pubPlace, hpub, Bool.not_true, Bool.not_false, Bool.false_eq_true, if_false, if_true, Except.bind, hreg]


/-- A load of device memory reads its bytes. -/
theorem loadNat_device {answers : List (Nat × Nat)} {pa n : Nat} (h : ∀ i, i < n → regionOf s (pa + i) = .device) :
    loadNat s answers pa n = memNat s.mem pa n := by
  induction n generalizing pa with
  | zero => rfl
  | succ n ih =>
    have first : loadByte s answers pa = memGet s.mem pa := by
      unfold loadByte; rw [show regionOf s pa = .device from h 0 (by omega)]
    rw [loadNat, memNat, first, ih fun i hi => by rw [Nat.add_assoc, Nat.add_comm 1]; exact h (i + 1) (by omega)]

/-- A range inside 1 KiB is one piece. -/
theorem piecesOf_one {va : W64} {n : Nat} (hn : 0 < n) (h : va.toNat % 1024 + n ≤ 1024) : piecesOf va n = [(va, n)] := by
  obtain ⟨n, rfl⟩ : ∃ k, n = k + 1 := ⟨n - 1, by omega⟩
  have all : min (n + 1) (1024 - va.toNat % 1024) = n + 1 := by omega
  simp [piecesOf, pieces, all]

/-- A read of the code placed inside 1 KiB: its bytes, and the walk to them. -/
theorem codeRead_placed (h : CodePlaced w s) {t : Task} (ht : t.troot = 0x1000 ∧ t.tasid = 0 ∧ t.sup = false) {va : W64} {n : Nat}
    (hva : va.toNat < 2 ^ 31) (hn : 0 < n) (hpiece : va.toNat % 1024 + n ≤ 1024) :
    codeRead s 0 t va n = .ok (memNat s.mem va.toNat n, [(va.toNat, n, 47)], [codeLeaf, codeRoot], []) := by
  have device (i : Nat) (hi : i < n) : regionOf s (va.toNat + i) = .device := regionOf_placed h (by omega)
  have here : regionOf s va.toNat = .device := device 0 hn
  have placed : placeAll s (fetchCodeCtx 0 t) .exec [(va, n)] = .ok ([(va.toNat, n, 47)], [codeLeaf, codeRoot]) := by
    simp only [placeAll, place_placed h (c := fetchCodeCtx 0 t) ht (show va.toNat < 2 ^ 32 by omega), List.append_nil]
  have peer : peerFault s (some va) [(va.toNat, n, 47)] = none := by simp [peerFault, here]
  have need : needPlaced s t.answers [(va.toNat, n, 47)] = [] := by simp [needPlaced, unanswered, here]
  have value : readPlaced s t.answers [(va.toNat, n, 47)] = memNat s.mem va.toNat n := by
    simp [readPlaced, loadNat_device device]
  simp only [codeRead, codeReadIn, piecesOf_one hn hpiece, placed, peer, poisonFault_clean h.poison, need, value]


-- Its first bundle (R52 to R54, R362). ------------------------------------------------------------------------------

theorem flagsPlaced_device {l : List (Nat × Nat × W64)} (h : ∀ p ∈ l, regionOf s p.1 = .device) : flagsPlaced s l = [] := by
  refine List.flatMap_eq_nil_iff.2 fun p hp => ?_
  cases hn : p.2.1 with
  | zero => rfl
  | succ n => unfold aliasFlags; rw [h p hp]

/-- Reads of device memory by code that is placed leave it so. -/
theorem CodePlaced.sawPlaces (h : CodePlaced w s) {old : State} {fills : List TlbEntry} {l : List (Nat × Nat × W64)}
    (hf : ∀ e ∈ fills, e = codeLeaf ∨ e = codeRoot) (hl : ∀ p ∈ l, regionOf old p.1 = .device) :
    CodePlaced w (s.sawPlaces old fills l) := by
  have cached (fills : List TlbEntry) (tlb : List TlbEntry) (hf : ∀ e ∈ fills, e = codeLeaf ∨ e = codeRoot)
      (ht : ∀ e ∈ tlb, e = codeLeaf ∨ e = codeRoot) :
      ∀ e ∈ fills.foldl (fun a e => if a.contains e then a else a ++ [e]) tlb, e = codeLeaf ∨ e = codeRoot := by
    induction fills generalizing tlb with
    | nil => exact ht
    | cons e fills ih =>
      refine ih _ (fun x hx => hf x (.tail _ hx)) ?_
      dsimp only
      split
      · exact ht
      · intro x hx
        rcases List.mem_append.1 hx with hx | hx
        · exact ht x hx
        · obtain rfl := List.mem_singleton.1 hx
          exact hf x (.head _)
  have saw : s.sawPlaces old fills l = s.cacheFills fills := by
    have dead : anyDead (s.cacheFills fills) = false := by
      rw [← h.marks]; unfold State.cacheFills; split <;> rfl
    simp [State.sawPlaces, flagsPlaced_device hl, State.raiseWindows, State.touchPlaces, dead]
  rw [saw]
  unfold State.cacheFills
  split
  · exact h
  · exact ⟨h.mem, h.poison, h.fences, cached _ _ hf h.tlb, h.marks, h.xlat⟩

theorem CodePlaced.keepObject (h : CodePlaced w s) (o : CodeObj) : CodePlaced w (s.keepObject o) := by
  unfold State.keepObject
  split
  · exact h
  · exact ⟨h.mem, h.poison, h.fences, h.tlb, h.marks, h.xlat⟩

/-- The header of the code object placed, and its region table. -/
def codeHeader : Nat := memNat (placeMem 0 []) 0x3000 64
def codeRegions : Nat := memNat (placeMem 0 []) 0x3040 8

theorem codeHeader_fields : codeHeaderBad codeHeader = false ∧ hdr codeHeader 0x10 4 = 0x80 ∧ hdr codeHeader 0x14 4 = 16 ∧
    hdr codeHeader 0x20 4 = 0x40 ∧ hdr codeHeader 0x24 2 = 1 ∧ regionsOk (regionsOf codeRegions 1) = true := by
  decide +kernel

/-- The code object placed, on given pages. -/
def objectPlaced (pages : List Nat) : CodeObj :=
  { pa := 0x3000, pages := pages, objid := BitVec.ofNat 64 (hdr codeHeader 8 8), off := hdr codeHeader 0x10 4,
    size := hdr codeHeader 0x14 4, ok := regionsOk (regionsOf codeRegions 1), regions := regionsOf codeRegions 1 }

/-- The code object placed keeps R52 and R53. -/
theorem codeObject_placed (h : CodePlaced w s) (hobjs : s.sky.objs = []) (id : Nat) : ∃ o, o.ok = true ∧ o.off = 0x80 ∧ o.size = 16 ∧
    codeObject s 0 (placeTask id) =
      .ok (.inl (o, [codeLeaf, codeRoot] ++ [codeLeaf, codeRoot], [(0x3000, 64, 47)] ++ [(0x3040, 8, 47)])) := by
  obtain ⟨good, off, size, table, count, regions⟩ := codeHeader_fields
  have user : (placeTask id).sup = false := show (0 : W64).getLsbD 0 = false by decide
  have header : memNat s.mem 0x3000 64 = codeHeader := by rw [h.mem, codeHeader]; exact placeMem_below w (by decide)
  have entries : memNat s.mem 0x3040 8 = codeRegions := by rw [h.mem, codeRegions]; exact placeMem_below w (by decide)
  have base : (placeTask id).code = 0x3000 := rfl
  have at0 := place_placed h (c := fetchCodeCtx 0 (placeTask id)) (va := 0x3000) (n := 4) ⟨rfl, rfl, user⟩ (by decide)
  have read1 := codeRead_placed h (t := placeTask id) (va := 0x3000) (n := 64) ⟨rfl, rfl, user⟩ (by decide) (by decide) (by decide)
  have read2 := codeRead_placed h (t := placeTask id) (va := 0x3040) (n := 8) ⟨rfl, rfl, user⟩ (by decide) (by decide) (by decide)
  rw [show (0x3000 : W64).toNat = 0x3000 from rfl] at at0 read1
  rw [show (0x3040 : W64).toNat = 0x3040 from rfl] at read2
  rw [header] at read1
  rw [entries] at read2
  refine ⟨objectPlaced (objectPages s 0 (placeTask id) codeHeader), regions, off, size, ?_⟩
  have table' : (0x3000 : W64) + BitVec.ofNat 64 (hdr codeHeader 0x20 4) = 0x3040 := by rw [table]; rfl
  simp only [codeObject, base, at0, hobjs, List.find?_nil, readObject, read1, good, table', count, read2, ne_eq, not_true_eq_false,
    Bool.false_eq_true, if_false, Nat.mul_one, objectPlaced]


/-- The words behind the one placed: the word itself, then zeros. -/
def placedWord (w k : Nat) : Nat := if k = 0 then w else 0

theorem codeRead_placedWord (h : CodePlaced w s) (hw : w < 2 ^ 32) (id : Nat) {k : Nat} (hk : k ≤ 3) :
    codeRead s 0 (placeTask id) (0x3080 + BitVec.ofNat 64 (4 * k)) 4 =
      .ok (placedWord w k, [(0x3080 + 4 * k, 4, 47)], [codeLeaf, codeRoot], []) := by
  have user : (placeTask id).sup = false := show (0 : W64).getLsbD 0 = false by decide
  have addr : ((0x3080 : W64) + BitVec.ofNat 64 (4 * k)).toNat = 0x3080 + 4 * k := by
    rw [BitVec.toNat_add, BitVec.toNat_ofNat, show (0x3080 : W64).toNat = 0x3080 from rfl]
    omega
  have word : memNat s.mem (0x3080 + 4 * k) 4 = placedWord w k := by
    rw [h.mem, placedWord]
    split
    · subst k; exact placeMem_word hw
    · exact placeMem_above w (by omega) hk
  rw [codeRead_placed h (t := placeTask id) ⟨rfl, rfl, user⟩ (by omega) (by decide) (by omega), addr, word]

/-- The words of the first bundle: the word placed, and where its S is 0 three zeros behind it. -/
theorem bundleWords_placed (h : CodePlaced w s) (hw : w < 2 ^ 32) (id : Nat) :
    ∃ l fills, bundleWords s 0 (placeTask id) 4 0x3080 16 = .ok (some l, fills, []) ∧ (l.map (·.1)).headD 0 = w := by
  obtain ⟨n, hn, goesOn, ends⟩ : ∃ n, n < 4 ∧ (∀ k, k < n → placedWord w k / 2 ^ 31 % 2 = 0) ∧
      (placedWord w n / 2 ^ 31 % 2 = 1 ∨ n + 1 = 4) := by
    by_cases hs : w / 2 ^ 31 % 2 = 1
    · exact ⟨0, by omega, by omega, .inl hs⟩
    · refine ⟨3, by omega, fun k _ => ?_, .inr rfl⟩
      unfold placedWord
      split <;> omega
  have read := bundleWords_upto (s := s) (core := 0) (t := placeTask id) (va := 0x3080) (room := 16) (pa := fun k => 0x3080 + 4 * k) hn
    (by omega) (fun k hk => ⟨codeRead_placedWord h hw id (by omega), rfl⟩) goesOn ends
  refine ⟨_, _, read, ?_⟩
  rw [List.range_succ_eq_map]
  rfl

theorem noRoom_placed (h : CodePlaced w s) (e : XEntry) : noRoom s e = false := by
  simp only [noRoom, h.xlat, List.filter_nil]
  rfl

/-- The words of the first bundle translated from the object placed. -/
theorem translateWords_placed (h : CodePlaced w s) (hw : w < 2 ^ 32) {o : CodeObj} (off : o.off = 0x80) (size : o.size = 16)
    (id slot : Nat) : ∃ y u b, translateWords s 0 slot (placeTask id) o 0x3080 false = .ok (.inl (y, u, b)) ∧ b.live = true ∧
      b.slot = slot ∧ b.addr = 0x3080 ∧ b.staged = [] ∧ b.words.headD 0 = w := by
  obtain ⟨l, fills, words, head⟩ := bundleWords_placed h hw id
  have at0 : ((0x3080 : W64).toNat + 2 ^ 64 - (placeTask id).code.toNat - o.off) % 2 ^ 64 = 0 := by
    rw [off, show (placeTask id).code = (0x3000 : W64) from rfl]; decide
  have inside : ¬ 0 ≥ 16 := by decide
  simp only [translateWords, at0, size, inside, Nat.sub_zero, words, noRoom_placed h, ne_eq, not_true_eq_false, Bool.false_eq_true, if_false]
  exact ⟨_, _, _, rfl, rfl, rfl, rfl, rfl, head⟩

/-- The first bundle of the task placed. -/
theorem fetchBundle_placed (h : CodePlaced w s) (hw : w < 2 ^ 32) (hobjs : s.sky.objs = []) (hx : s.regs.xltctl.getLsbD 0 = false)
    (id slot : Nat) : ∃ y u b, fetchBundle s 0 slot (placeTask id) = .ok (.inl (y, u, b)) ∧ b.live = true ∧ b.slot = slot ∧
      b.addr = 0x3080 ∧ b.staged = [] ∧ b.words.headD 0 = w := by
  obtain ⟨o, ok, off, size, object⟩ := codeObject_placed h hobjs id
  have kept : CodePlaced w ((s.keepObject o).sawPlaces s ([codeLeaf, codeRoot] ++ [codeLeaf, codeRoot])
      ([(0x3000, 64, 47)] ++ [(0x3040, 8, 47)])) := by
    refine (h.keepObject o).sawPlaces (by simp) fun p hp => ?_
    have : p.1 < 2 ^ 32 := by
      rcases List.mem_append.1 hp with hp | hp <;> rw [List.mem_singleton.1 hp] <;> decide
    exact regionOf_placed h this
  have fresh : cachedBundle s 0 (placeTask id) = none := rfl
  have entry : (placeTask id).entry = some 0 := rfl
  have pc : (placeTask id).code + BitVec.ofNat 64 (o.off + 0) = 0x3080 := by
    rw [off, show (placeTask id).code = (0x3000 : W64) from rfl]; decide
  simp only [fetchBundle, fresh, translateBundle, object, entry, pc, ok, hx, Bool.not_true, Bool.not_false, Bool.false_eq_true, if_false,
    if_true]
  exact translateWords_placed kept hw off size id slot

end

/-- Settles O50: the words by induction on their number, the word placed by running its fetch over the memory that holds it. -/
theorem fetchedWords : Obligations.FetchedWords := by
  unfold Obligations.FetchedWords
  refine ⟨?_, ?_⟩
  · intro s core t va room n w pa p f hn hroom reads goesOn ends
    exact bundleWords_upto hn hroom reads goesOn (by omega)
  · intro w i hw hd
    let x : State := { State.reset.withFetchWord 32 w with draws := 1, agenda := [] }
    have placed : CodePlaced w x := ⟨rfl, rfl, rfl, fun e he => absurd he List.not_mem_nil, rfl, rfl⟩
    obtain ⟨y, u, b, fetch, live, slot, addr, staged, head⟩ :=
      fetchBundle_placed placed hw rfl (show (0x4002 : W64).getLsbD 0 = false by decide) 0 0
    let z : State := (y.setTask (taskKey 0 0) u).liveBundle 0 b
    have turn : step (State.reset.withFetchWord 32 w) = issueSlot z := by
      rw [step_issue (core := 0) (l := []) rfl rfl]
      exact congrArg issueSlot (issuePrep_of_fetch (s := x) (core := 0) (slot := 0) (t := placeTask 0) rfl rfl rfl (by decide) rfl rfl rfl
        rfl rfl rfl fetch)
    have word : z.headWord = w := head
    have task : z.curTask = some u := by
      have key : z.curKey = some (taskKey 0 0) := by
        show (if b.live then some (taskKey 0 b.slot) else none) = _
        rw [live, slot]; rfl
      rw [State.curTask, key]
      exact State.task_setTask_self ..
    refine ⟨z, turn.trans (issueSlot_ok (s := z) live (word.symm ▸ hd)), word, rfl, slot, addr, staged, ?_⟩
    rw [task]; rfl

end Sys2Proof.Machine
end

section
/-! SUPPORT AND PROOF OF O56. What the commit of register writes changes and what it leaves. -/

namespace Sys2Proof.Machine

-- What a register write leaves unchanged (R5, R8, R18). ------------------------------------------------------------

/-- Register `n` of a file reads in `u` as in `t`; a register write changes nothing of the files that are not named here. -/
def SameReg (file : RegFile) (n : Nat) (t u : Task) : Prop :=
  match file with
  | .g => u.gReg n = t.gReg n
  | .v => u.vReg n = t.vReg n
  | .k => u.kReg n = t.kReg n
  | .c => n < 8 → u.cReg n = t.cReg n
  | _ => True

/-- `u` is `t` with other values in its registers, and with other registers poisoned. -/
def SameButRegs (t u : Task) : Prop := ∃ g v k c poison, u = { t with g := g, v := v, k := k, c := c, poison := poison }

theorem SameButRegs.refl (t : Task) : SameButRegs t t := ⟨_, _, _, _, _, rfl⟩

theorem SameReg.refl (file : RegFile) (n : Nat) (t : Task) : SameReg file n t t := by cases file <;> simp [SameReg]

theorem SameReg.trans {file : RegFile} {n : Nat} {t u v : Task} (h : SameReg file n t u) (h' : SameReg file n u v) :
    SameReg file n t v := by
  cases file <;> simp only [SameReg] at h h' ⊢
  case c => exact fun hn => (h' hn).trans (h hn)
  all_goals exact h'.trans h

theorem SameButRegs.trans {t u v : Task} (h : SameButRegs t u) (h' : SameButRegs u v) : SameButRegs t v := by
  obtain ⟨_, _, _, _, _, rfl⟩ := h
  obtain ⟨_, _, _, _, _, rfl⟩ := h'
  exact ⟨_, _, _, _, _, rfl⟩

section
variable (t : Task) (file : RegFile) (r : Nat) (mask : Pred) (v : VReg)

theorem clean_eq : ∃ p, t.clean file r = { t with poison := p } := by
  unfold Task.clean; split
  · exact ⟨t.poison, rfl⟩
  · exact ⟨_, rfl⟩

theorem SameButRegs.write : SameButRegs t (t.write file r mask v) := by
  obtain ⟨p, hp⟩ := clean_eq t file r
  cases file <;> simp only [Task.write, hp]
  case v => split <;> exact ⟨_, _, _, _, _, rfl⟩
  all_goals exact ⟨_, _, _, _, _, rfl⟩

@[simp] theorem clean_g : (t.clean file r).g = t.g := by unfold Task.clean; split <;> rfl
@[simp] theorem clean_v : (t.clean file r).v = t.v := by unfold Task.clean; split <;> rfl
@[simp] theorem clean_k : (t.clean file r).k = t.k := by unfold Task.clean; split <;> rfl
@[simp] theorem clean_c : (t.clean file r).c = t.c := by unfold Task.clean; split <;> rfl

theorem write_g : (t.write file r mask v).g = if file = .g then t.g.setIfInBounds r (v.setWidth 64) else t.g := by
  cases file <;> simp [Task.write, apply_ite Task.g]

theorem write_v : (t.write file r mask v).v = if file = .v then t.v.setIfInBounds r (mergeLanes mask (t.vReg r) v) else t.v := by
  cases file <;> simp [Task.write]

theorem write_k : (t.write file r mask v).k =
    if file = .k then t.k.setIfInBounds r (((t.k[r]?.getD 0) &&& ~~~mask) ||| (v.setWidth 256 &&& mask)) else t.k := by
  cases file <;> simp [Task.write, apply_ite Task.k]

theorem write_c : (t.write file r mask v).c =
    if file = .c then (if v.getLsbD 0 then t.c ||| (1#8 <<< r) else t.c &&& ~~~(1#8 <<< r)) else t.c := by
  cases file <;> simp [Task.write, apply_ite Task.c]

/-- A write of a general register is seen in it. -/
theorem gReg_write_self (h : r < 48) : (t.write .g r mask v).gReg r = v.setWidth 64 := by
  rw [Task.gReg, write_g, if_pos rfl, Vector.getElem?_setIfInBounds_self_of_lt h]; rfl

/-- A write of another register, or of another file, leaves a register as it was. -/
theorem SameReg.write {at' : RegFile} {n : Nat} (h : ¬ (file = at' ∧ r = n)) : SameReg at' n t (t.write file r mask v) := by
  cases at' <;> simp only [SameReg]
  case g =>
    rw [Task.gReg, write_g]
    split
    · rw [Vector.getElem?_setIfInBounds_ne fun hn => h ⟨‹_›, hn⟩]; rfl
    · rfl
  case v =>
    rw [Task.vReg, write_v]
    split
    · rw [Vector.getElem?_setIfInBounds_ne fun hn => h ⟨‹_›, hn⟩]; rfl
    · rfl
  case k =>
    unfold Task.kReg
    rw [write_k]
    split
    · rfl
    · split
      · rw [Vector.getElem?_setIfInBounds_ne fun hn => h ⟨‹_›, hn⟩]
      · rfl
  case c =>
    intro hn
    rw [Task.cReg, write_c]
    split
    · have hr : ¬ r = n := fun hr => h ⟨‹_›, hr⟩
      have bit : (1#8 <<< r).getLsbD n = false := by
        rw [BitVec.getLsbD_shiftLeft]; simp; omega
      split <;> simp only [Task.cReg, BitVec.getLsbD_or, BitVec.getLsbD_and, BitVec.getLsbD_not, bit, hn, decide_true, Bool.or_false,
        Bool.not_false, Bool.and_true]
    · rfl

end

-- What a bundle's end leaves unchanged (R10, R14 to R18). ---------------------------------------------------------

/-- The writes of a bundle that are visible at once, made in a task. -/
def Task.writes (t : Task) (ws : List RegWrite) : Task := ws.foldl (fun u w => u.write w.file w.reg w.mask w.val) t

theorem SameButRegs.applyDue (l : List Pend) (t : Task) : SameButRegs t (applyDue l t) := by
  induction l generalizing t with
  | nil => exact .refl t
  | cons p l ih =>
    by_cases h : p.left = 0
    · exact SameButRegs.trans (by simp only [h, if_true]; exact .write ..) (ih _)
    · exact SameButRegs.trans (by simp only [h, if_false]; exact .refl t) (ih _)

theorem SameButRegs.writes (ws : List RegWrite) (t : Task) : SameButRegs t (t.writes ws) := by
  induction ws generalizing t with
  | nil => exact .refl t
  | cons w ws ih => exact (SameButRegs.write ..).trans (ih _)

section
variable {file : RegFile} {n : Nat}

theorem SameReg.applyDue {l : List Pend} (h : ∀ p ∈ l, ¬ (p.file = file ∧ p.reg = n)) (t : Task) :
    SameReg file n t (applyDue l t) := by
  induction l generalizing t with
  | nil => exact .refl ..
  | cons p l ih =>
    refine SameReg.trans ?_ (ih (fun q hq => h q (.tail _ hq)) _)
    by_cases hl : p.left = 0
    · simp only [hl, if_true]; exact .write _ _ _ _ _ (h p (.head _))
    · simp only [hl, if_false]; exact .refl ..

theorem SameReg.writes {ws : List RegWrite} (h : ∀ w ∈ ws, ¬ (w.file = file ∧ w.reg = n)) (t : Task) :
    SameReg file n t (t.writes ws) := by
  induction ws generalizing t with
  | nil => exact .refl ..
  | cons w ws ih => exact (SameReg.write _ _ _ _ _ (h w (.head _))).trans (ih (fun x hx => h x (.tail _ hx)) _)

/-- A contract cycle leaves a register alone that no write in flight names. -/
theorem SameReg.tick {t : Task} (h : ∀ p ∈ t.pending, ¬ (p.file = file ∧ p.reg = n)) : SameReg file n t t.tick := by
  have due : SameReg file n t (Machine.applyDue (t.pending.map fun p => { p with left := p.left - 1 }) t) :=
    .applyDue (by simpa using h) t
  cases file <;> exact due

/-- Of the writes of a bundle to a general register that are visible at once, the last one stays (R18). -/
theorem gReg_writes {ws : List RegWrite} {w : RegWrite} (hw : w ∈ ws) (hf : w.file = .g) (hr : w.reg < 48)
    (only : ∀ x ∈ ws, x ≠ w → ¬ (x.file = .g ∧ x.reg = w.reg)) (t : Task) : (t.writes ws).gReg w.reg = w.val.setWidth 64 := by
  induction ws generalizing t with
  | nil => cases hw
  | cons e ws ih =>
    by_cases hmem : w ∈ ws
    · exact ih hmem (fun x hx => only x (.tail _ hx)) _
    · obtain rfl : w = e := by simpa [hmem] using hw
      have kept : SameReg .g w.reg _ ((t.write w.file w.reg w.mask w.val).writes ws) :=
        .writes (fun x hx => only x (.tail _ hx) fun hxw => hmem (hxw ▸ hx)) _
      refine Eq.trans kept ?_
      rw [hf, gReg_write_self _ _ _ _ hr]

end

section
variable (t : Task) (ws : List RegWrite) (flags : BitVec 8) (pc : W64) (loops : List Loop)

/-- What a contract cycle leaves of a task's other state (R16). -/
theorem tick_eq : ∃ g v k c poison, t.tick = { t with
    g := g, v := v, k := k, c := c, poison := poison, pending := t.tick.pending, cycle := t.cycle + 1 } := by
  obtain ⟨_, _, _, _, _, hd⟩ := SameButRegs.applyDue (t.pending.map fun p => { p with left := p.left - 1 }) t
  simp only [Task.tick, hd]
  exact ⟨_, _, _, _, _, rfl⟩

/-- What the end of a bundle leaves of a task's other state (R10, R16). -/
theorem after_eq : ∃ g v k c poison pending atab, t.after ws flags pc loops = { t with
    g := g, v := v, k := k, c := c, poison := poison, pending := pending, atab := atab, asw := aswOr t.asw flags, pc := pc, loops := loops,
    stall := none, answers := [], cycle := t.cycle + 1 } := by
  obtain ⟨_, _, _, _, _, ht⟩ := tick_eq t
  obtain ⟨_, _, _, _, _, hw⟩ := SameButRegs.writes (ws.filter (RegWrite.soon t)) t.tick
  have after : t.after ws flags pc loops = { t.tick.writes (ws.filter (RegWrite.soon t)) with
    pending := (t.after ws flags pc loops).pending, atab := (t.after ws flags pc loops).atab, asw := aswOr t.asw flags, pc := pc,
    loops := loops, stall := none, answers := [] } := rfl
  rw [hw, ht] at after
  exact ⟨_, _, _, _, _, _, _, after⟩

variable {t ws}

/-- A register that neither an earlier bundle nor this one writes is as it was. -/
theorem SameReg.after {file : RegFile} {n : Nat} (hp : ∀ p ∈ t.pending, ¬ (p.file = file ∧ p.reg = n))
    (hw : ∀ w ∈ ws, ¬ (w.file = file ∧ w.reg = n)) : SameReg file n t (t.after ws flags pc loops) := by
  have writes : SameReg file n t (t.tick.writes (ws.filter (RegWrite.soon t))) :=
    (SameReg.tick hp).trans (.writes (fun w h => hw w (List.mem_filter.1 h).1) _)
  cases file <;> exact writes

/-- A visible write of a general register that no other write of its bundle names is seen at the next bundle (R18). -/
theorem gReg_after {w : RegWrite} (hw : w ∈ ws) (hs : w.soon t = true) (hf : w.file = .g) (hr : w.reg < 48)
    (only : ∀ x ∈ ws, x ≠ w → ¬ (x.file = .g ∧ x.reg = w.reg)) :
    (t.after ws flags pc loops).gReg w.reg = w.val.setWidth 64 :=
  gReg_writes (List.mem_filter.2 ⟨hw, hs⟩) hf hr (fun x hx => only x (List.mem_filter.1 hx).1) t.tick

/-- A write with a longer latency is in flight after its bundle (R18). -/
theorem pending_after {w : RegWrite} (hw : w ∈ ws) (hs : w.soon t = false) :
    ({ file := w.file, reg := w.reg, mask := w.mask, val := w.val, left := w.lat - 1 } : Pend) ∈ (t.after ws flags pc loops).pending :=
  List.mem_append_right _ (List.mem_map.2 ⟨w, List.mem_filter.2 ⟨hw, by simp [hs]⟩, rfl⟩)

end

-- What the commit of a bundle leaves unchanged (R14). -------------------------------------------------------------

/-- A bundle of more than its atom, or one that ends it, changes no more of a task than how its atom stands (R364). -/
theorem atomNext_eq (ends : Bool) (n : Nat) (u : Task) : ∃ a b, atomNext ends n u = { u with tier1 := a, atomRoom := b } := by
  unfold atomNext
  split
  · exact ⟨_, _, rfl⟩
  · split
    · exact ⟨_, _, rfl⟩
    · exact ⟨_, _, rfl⟩

section
variable {s : State} {t : Task}

theorem atomEnds_eq {x : State} {u : Task} (h : x.task s.key = some u) (hx : x.setTask s.key u = x) :
    ∃ a b, x.atomEnds s = x.setTask s.key { u with tier1 := a, atomRoom := b } := by
  simp only [State.atomEnds, h]
  split
  · obtain ⟨a, b, hn⟩ := atomNext_eq (s.bundle.code.any endsAtom) s.bundle.code.length u
    exact ⟨a, b, by rw [State.updTask_of_some _ h, hn]⟩
  · exact ⟨_, _, hx.symm⟩

/-- WHAT A BUNDLE THAT ONLY WRITES REGISTERS CHANGES: its task, the waiters of its core, the counts of the loop heads, and what is
issued next. -/
theorem results_eq (h : s.task s.key = some t) (ws : List RegWrite) (flags : BitVec 8) :
    ∃ a b heads agenda, s.results t ws flags =
      { ((s.opened.setTask s.key { t.after ws flags (s.onward t).1 (s.onward t).2 with tier1 := a, atomRoom := b }).withBundle {}).withSky
          { s.sky with heads := heads } with agenda := agenda } := by
  have ho : s.opened.task s.key = some t := h
  have hm : s.opened.moved s ws flags (s.onward t) =
      (s.opened.setTask s.key (t.after ws flags (s.onward t).1 (s.onward t).2)).withBundle {} := by
    rw [State.moved, State.updTask_of_some _ ho]
  obtain ⟨a, b, hz⟩ := atomEnds_eq (s := s) (x := s.opened.moved s ws flags (s.onward t))
    (u := t.after ws flags (s.onward t).1 (s.onward t).2) (by rw [hm]; simp) (by
      rw [hm]; exact congrArg (fun y : State => y.withBundle {}) (State.setTask_setTask ..))
  have hz' : (s.opened.moved s ws flags (s.onward t)).atomEnds s =
      (s.opened.setTask s.key { t.after ws flags (s.onward t).1 (s.onward t).2 with tier1 := a, atomRoom := b }).withBundle {} := by
    rw [hz, hm]; exact congrArg (fun y : State => y.withBundle {}) (State.setTask_setTask ..)
  have hr : ∃ heads, s.opened.reached s t ws flags (s.onward t) =
      ((s.opened.setTask s.key { t.after ws flags (s.onward t).1 (s.onward t).2 with tier1 := a, atomRoom := b }).withBundle {}).withSky
        { s.sky with heads := heads } := by
    simp only [State.reached, hz']
    split
    · exact ⟨_, rfl⟩
    · exact ⟨_, rfl⟩
  obtain ⟨heads, hr⟩ := hr
  refine ⟨a, b, heads, ?_⟩
  simp only [State.results, State.after, hr, State.goOn]
  split
  · exact ⟨_, rfl⟩
  · exact ⟨_, rfl⟩

end

/-- Settles O56: `results_eq` says what the state is, `after_eq` what the task is. -/
theorem registerWriteFrame : Obligations.RegisterWriteFrame := by
  unfold Obligations.RegisterWriteFrame
  intro s t ws flags h y kept
  obtain ⟨a, b, heads, agenda, (hy : y = _)⟩ := results_eq h ws flags
  obtain ⟨_, _, _, _, _, _, _, hu⟩ := after_eq t ws flags (s.onward t).1 (s.onward t).2
  have core_ne : ∀ c, c ≠ s.cur → mapGet c y.cores = mapGet c s.cores := fun c hc => by
    rw [hy]; exact mapGet_mapSet_ne hc ..
  have core_cur : mapGet s.cur y.cores = some ((s.core s.cur).dropWaiter s.bundle.slot) := by
    rw [hy]; exact mapGet_mapSet_self ..
  have task_ne : ∀ k, k ≠ s.key → y.task k = s.task k := fun k hk => by
    rw [hy]; exact mapGet_mapSet_ne hk ..
  have same (file : RegFile) (n : Nat) (hn : kept file n) : SameReg file n t (t.after ws flags (s.onward t).1 (s.onward t).2) :=
    .after _ _ _ hn.1 hn.2
  refine ⟨by rw [hy]; simp [State.opened, State.updCore, State.setCore, State.setTask],
    task_ne, fun c hc => by rw [State.core, core_ne c hc, State.core], by rw [State.core, core_cur]; rfl,
    { t.after ws flags (s.onward t).1 (s.onward t).2 with tier1 := a, atomRoom := b }, by rw [hy]; exact mapGet_mapSet_self ..,
    ?_, ?_, ?_, ?_⟩
  · exact ⟨fun n => same .g n, fun n => same .v n, fun n => same .k n, fun n h8 hn => same .c n hn h8⟩
  · simp [hu]
  · exact fun w hw hs hf hr only => gReg_after flags (s.onward t).1 (s.onward t).2 hw hs hf hr only
  · exact fun w hw hs => pending_after flags (s.onward t).1 (s.onward t).2 hw hs

end Sys2Proof.Machine
end

section
/-! SUPPORT AND REFUTATION OF O57. A write in flight of elements smaller than a byte. -/

namespace Sys2Proof.Machine

/-- A write in flight to a general register, the only one of its task, lands in its last contract cycle (R18, R182). -/
theorem gReg_tick_of_last {t : Task} {p : Pend} (ht : t.pending = [p]) (hf : p.file = .g) (hr : p.reg < 48) (hl : p.left = 1) :
    t.tick.gReg p.reg = (Pend.value { p with left := 0 } t).setWidth 64 := by
  have tick_g : t.tick.g = t.g.setIfInBounds p.reg ((Pend.value { p with left := 0 } t).setWidth 64) := by
    simp [Task.tick, applyDue, ht, hf, hl, Task.write]
  rw [Task.gReg, tick_g, Vector.getElem?_setIfInBounds_self_of_lt hr]
  rfl

/-- A nibble that is not active is the one that the register holds. -/
theorem mergePart_no_nibbles (j old new : Nat) : mergePart (.nibbles 0#512) j old new = old := by
  simp [mergePart]; omega

/-- A write of nibbles none of which is active, landing where the register holds 0, leaves 0 (R182). -/
theorem value_no_nibbles {p : Pend} (hp : p.part = .nibbles 0#512) {u : Task} (h : u.vReg p.reg = 0#2048) : p.value u = 0#2048 := by
  have old (j : Nat) : bitsOf (u.vReg p.reg).toNat (8 * j) 8 = 0 := by
    rw [h, BitVec.toNat_zero, bitsOf, Nat.zero_div, Nat.zero_mod]
  simp only [Pend.value, hp, mergePart_no_nibbles, old, Nat.zero_mul, List.map_const', List.sum_replicate_nat, Nat.mul_zero]

/-- A write in flight to `g0` whose elements are nibbles, none of them active. -/
def nibbleWrite : Pend := { file := .g, reg := 0, mask := 0, val := 1, left := 1, part := .nibbles 0#512 }

/-- It lands after its one contract cycle and leaves 0 in `g0`, although its value is 1. -/
theorem tick_nibbleWrite : (Task.tick { pending := [nibbleWrite] }).gReg nibbleWrite.reg = 0 := by
  have kept : Pend.value { nibbleWrite with left := 0 } { pending := [nibbleWrite] } = 0#2048 := value_no_nibbles rfl (getD_replicate ..)
  rw [gReg_tick_of_last (p := nibbleWrite) rfl rfl (by decide) rfl, kept]
  simp

/-- Refutes O57: its first clause says of every write in flight to a general register that its value stands in the register after
its latency, with no hypothesis that the write is one of whole bytes. A write of smaller elements (`Pend.part`) keeps those that
are not active (R182), so `nibbleWrite` leaves 0 in `g0`, not its value 1. -/
theorem not_bundleContract : ¬ Obligations.BundleContract := by
  unfold Obligations.BundleContract
  rintro ⟨⟨lands, -, -⟩, -⟩
  obtain ⟨-, visible, -⟩ := lands { pending := [nibbleWrite] } nibbleWrite rfl rfl (by decide) (by decide)
  have zero_eq_one : (0 : W64) = nibbleWrite.val.setWidth 64 := tick_nibbleWrite.symm.trans visible
  simp [nibbleWrite] at zero_eq_one

end Sys2Proof.Machine
end

section
/-! SUPPORT AND REFUTATION OF O59. A slot that fails the check of its registers and that of the pending set. -/

namespace Sys2Proof.Machine

/-- A task of an exposed bundle with as many writes in flight as R23 allows. -/
def fullTask : Task :=
  { exposed := true, pending := List.replicate 16 { file := .g, reg := 0, mask := allLanes, val := 0, left := 2 } }

/-- `vand v0, v0, v16`, the only slot of its bundle, about to be executed by `fullTask`. -/
def fullBundle : State :=
  { bundle := { live := true, exposed := true, code := [0xAF00041C], words := [0xAF00041C] }, tasks := [(0, fullTask)] }

theorem fullBundle_word : decode fullBundle.headWord = .ok (.vand true 0 0 16) := rfl

theorem fullBundle_alone : Alone fullBundle true fullTask :=
  { task := rfl, last := rfl, none := rfl, mode := rfl, sound := rfl, single := rfl }

/-- Of two checks of step 1 that a slot fails, the one with the lower reason gives the word: a seventeenth write in flight
(reason 0x10) before a vector register beyond the group's count (reason 0x11) (R36). -/
theorem exec_vand_fullBundle :
    exec (.vand true 0 0 16) fullBundle = .next (fullBundle.trapsAlone fullTask (undefinedWith 0x10 17 7)) := by
  have trap : encTrap fullTask fullTask.exposed [{ stageVand 0 0 16 0 fullBundle fullTask with cls := 2, op := 0x2F, stop := true }] =
      some (undefinedWith 0x10 17 7, 1) := by decide
  exact congrArg Host.Outcome.next (endBundle_traps fullBundle_alone (.inl ⟨trap, rfl⟩))

/-- The record of a task that parks with a trap of its bundle holds the word of the trap (R331, R333). -/
theorem fullBundle_traps (i : TrapInfo) : ((fullBundle.trapsAlone fullTask i).task 0).map (·.run) =
    some (.parked (recordOf 0 0 0 0 1 i false false false 0) false) := by
  unfold State.trapsAlone State.cacheFills
  split <;> rfl

/-- Refutes O59: the clause of a vector register beyond the group's count asks for no room in the pending set. In an exposed bundle
of a task with 16 writes in flight `vand` also fails the check of R23, and its reason 0x10 is the lower one and gives the word
(R36). -/
theorem not_encodingTraps : ¬ Obligations.EncodingTraps := by
  unfold Obligations.EncodingTraps
  intro h
  obtain ⟨-, -, -, -, beyond, -⟩ := h fullBundle fullTask true 0 0 16 fullBundle_alone
  have same := (exec_vand_fullBundle).symm.trans (beyond (.inl (by decide)) (.inl (by decide)) (by decide) (by decide))
  have runs := congrArg (fun y : State => (y.task 0).map (·.run)) (Host.Outcome.next.inj same)
  simp only [fullBundle_traps, Option.some.injEq, Run.parked.injEq] at runs
  exact absurd (congrArg Rec.w3 runs.1) (by decide)

end Sys2Proof.Machine
end

section
/-! SUPPORT AND PROOF OF O29. An array operation at the head of its queue finishes. -/

namespace Sys2Proof.Machine

-- Elements of a bank (R133, R135). ---------------------------------------------------------------------------------

theorem packFlags_lt (e : Nat) (f : Nat → Nat × BitVec 8) (n : Nat) : (packFlags e f n).1 < 256 ^ (e * n) := by
  induction n with
  | zero => simp [packFlags]
  | succ n ih =>
    have room : 256 ^ (e * (n + 1)) = 256 ^ (e * n) + (256 ^ e - 1) * 256 ^ (e * n) := by
      rw [Nat.mul_succ, Nat.pow_add, Nat.sub_mul, Nat.one_mul, Nat.mul_comm (256 ^ e)]
      have := Nat.le_mul_of_pos_right (256 ^ (e * n)) (Nat.pow_pos (n := e) (show 0 < 256 by decide))
      omega
    have last : (f n).1 % 256 ^ e * 256 ^ (e * n) ≤ (256 ^ e - 1) * 256 ^ (e * n) :=
      Nat.mul_le_mul_right _ (Nat.le_sub_one_of_lt (Nat.mod_lt _ (Nat.pow_pos (by decide))))
    simp only [packFlags]
    omega

/-- An element of those put together. -/
theorem packFlags_elem {e n q : Nat} (f : Nat → Nat × BitVec 8) (h : q < n) :
    (packFlags e f n).1 / 256 ^ (e * q) % 256 ^ e = (f q).1 % 256 ^ e := by
  induction n with
  | zero => omega
  | succ n ih =>
    simp only [packFlags]
    by_cases hq : q = n
    · subst hq
      rw [Nat.add_mul_div_right _ _ (Nat.pow_pos (by decide)), Nat.div_eq_of_lt (packFlags_lt e f q), Nat.zero_add, Nat.mod_mod]
    · have split : 256 ^ (e * n) = 256 ^ e * 256 ^ (e * (n - q - 1)) * 256 ^ (e * q) := by
        rw [← Nat.pow_add, ← Nat.pow_add]
        congr 1
        obtain ⟨k, rfl⟩ : ∃ k, n = q + k + 1 := ⟨n - q - 1, by omega⟩
        rw [show q + k + 1 - q - 1 = k by omega]
        simp only [Nat.mul_add, Nat.mul_one]
        omega
      rw [split, ← Nat.mul_assoc, Nat.add_mul_div_right _ _ (Nat.pow_pos (by decide)), Nat.mul_left_comm, Nat.add_mul_mod_self_left,
        ih (by omega)]

theorem packFlags_calm {e n : Nat} {f : Nat → Nat × BitVec 8} (h : ∀ q, (f q).2 = 0) : (packFlags e f n).2 = 0 := by
  induction n with
  | zero => rfl
  | succ n ih => simp [packFlags, ih, h]

/-- Elements that fill a word are the word's number. -/
theorem toNat_ofNat_packFlags {w e n : Nat} (hw : w = 8 * (e * n)) (f : Nat → Nat × BitVec 8) :
    (BitVec.ofNat w (packFlags e f n).1).toNat = (packFlags e f n).1 := by
  subst hw
  rw [BitVec.toNat_ofNat, Nat.pow_mul]
  exact Nat.mod_eq_of_lt (packFlags_lt e f n)

/-- Element (i, j) of a tile. -/
theorem tile_elem (f : Nat → Nat → Nat × BitVec 8) {i j : Nat} (hi : i < 16) (hj : j < 32) :
    (tile f).1.toNat / 256 ^ (4 * (32 * i + j)) % 2 ^ 32 = (f i j).1 % 2 ^ 32 := by
  simp only [tile]
  rw [toNat_ofNat_packFlags (by decide), show (2 : Nat) ^ 32 = 256 ^ 4 from rfl, packFlags_elem _ (show 32 * i + j < 512 by omega),
    show (32 * i + j) / 32 = i by omega, show (32 * i + j) % 32 = j by omega]

-- Integer products (R69, R132, R147). ------------------------------------------------------------------------------

theorem toSigned_emod (n x : Nat) : toSigned n x % (2 : Int) ^ n = (x : Int) % (2 : Int) ^ n := by
  simp only [toSigned]
  split <;> simp

/-- A sum of products with an element is the exact sum modulo 2^32 (R69). -/
theorem dotInt_map (c : Nat) (l : List Nat) (x y : Nat → Int) :
    dotInt c (l.map x) (l.map y) = (((c : Int) + (l.map fun k => x k * y k).sum) % 2 ^ 32).toNat := by
  rw [dotInt, List.zipWith_map, List.zipWith_self, List.foldl_eq_apply_foldr, ← List.sum_eq_foldr, ofSigned, Int.add_emod,
    toSigned_emod, ← Int.add_emod]

/-- Byte `k` of row `r` of an operand with rows of 192 bytes. -/
def rowByte (x r k : Nat) : Nat := x / 256 ^ (192 * r + k) % 256

/-- The bytes of a row, each with its value. -/
theorem rowElems_map {β : Type} (x r : Nat) (value : Nat → β) :
    (rowElems 1 (rowLen * r) 192 x).map value = (List.range 192).map fun k => value (rowByte x r k) := by
  simp [rowElems, rowLen, rowByte, Function.comp_def]

/-- The element that a sum starts from. -/
theorem incoming_getD (z : Bool) (acc : Bank) (i j : Nat) :
    (((incoming z acc i j).getD 0 : Nat) : Int) = if z then 0 else (acc.toNat / 256 ^ (4 * (32 * i + j)) % 2 ^ 32 : Int) := by
  cases z
  · simp [incoming, accElem]
  · rfl

/-- The tile of the sums of products of rows of bytes, each byte with its value. -/
def intTile (value : Nat → Int) (z : Bool) (a b : Nat) (acc : Bank) : Bank × BitVec 8 :=
  tile fun i j => (dotInt ((incoming z acc i j).getD 0)
    (((List.range 16).map fun i => (rowElems 1 (rowLen * i) 192 a).map value).getD i [])
    (((List.range 32).map fun j => (rowElems 1 (rowLen * j) 192 b).map value).getD j []), 0)

theorem mmaTile_i8 (z : Bool) (a b : Nat) (acc : Bank) : mmaTile .i8 z a b acc = intTile (toSigned 8) z a b acc := by
  simp only [mmaTile, if_true]; rfl

theorem mmaTile_n8 (z : Bool) (a b : Nat) (acc : Bank) : mmaTile .n8 z a b acc = intTile (fun x => (x : Int)) z a b acc := by
  simp only [mmaTile, Bool.false_eq_true, if_false]; rfl

/-- An element of such a tile is the sum of products modulo 2^32. -/
theorem intTile_elem (value : Nat → Int) (z : Bool) (a b : Nat) (acc : Bank) {i j : Nat} (hi : i < 16) (hj : j < 32) :
    (intTile value z a b acc).1.toNat / 256 ^ (4 * (32 * i + j)) % 2 ^ 32 =
      (((if z then 0 else (acc.toNat / 256 ^ (4 * (32 * i + j)) % 2 ^ 32 : Int)) +
        ((List.range 192).map fun k => value (rowByte a i k) * value (rowByte b j k)).sum) % 2 ^ 32).toNat := by
  rw [intTile, tile_elem _ hi hj]
  simp only [List.getD_eq_getElem?_getD, List.getElem?_map, List.getElem?_range hi, List.getElem?_range hj, Option.map_some,
    Option.getD_some, rowElems_map, dotInt_map, incoming_getD]
  omega

/-- It raises no flag. -/
theorem intTile_calm (value : Nat → Int) (z : Bool) (a b : Nat) (acc : Bank) : (intTile value z a b acc).2 = 0 :=
  packFlags_calm fun _ => rfl

-- What reading placed pieces leaves unchanged (R255, R261, R289). ---------------------------------------------------

/-- An access changes no more than the marks of lines. -/
theorem touchPlaces_eq (s : State) (l : List (Nat × Nat × W64)) : ∃ groups, s.touchPlaces l = { s with groups := groups } := by
  have each (l : List (Nat × Nat × W64)) (x : State) :
      ∃ groups, l.foldl (fun x p => x.touchLines p.1 p.2.1) x = { x with groups := groups } := by
    induction l generalizing x with
    | nil => exact ⟨_, rfl⟩
    | cons p l ih =>
      obtain ⟨_, rest⟩ := ih (x.touchLines p.1 p.2.1)
      rw [List.foldl_cons, rest]
      unfold State.touchLines
      split <;> exact ⟨_, rfl⟩
  unfold State.touchPlaces
  split
  · exact each l s
  · exact ⟨_, rfl⟩

/-- Reads of placed pieces change no more than the walks cached, the window flags and the marks of lines. -/
theorem sawPlaces_eq (s old : State) (fills : List TlbEntry) (l : List (Nat × Nat × W64)) :
    ∃ tlb regs groups, s.sawPlaces old fills l = { s with tlb := tlb, regs := regs, groups := groups } := by
  have cached : ∃ tlb, s.cacheFills fills = { s with tlb := tlb } := by
    unfold State.cacheFills; split <;> exact ⟨_, rfl⟩
  have raised (f : List (Nat × BitVec 8)) (x : State) : ∃ regs, x.raiseWindows f = { x with regs := regs } := by
    induction f generalizing x with
    | nil => exact ⟨_, rfl⟩
    | cons p f ih =>
      obtain ⟨regs, h⟩ := ih (x.windowFlags p.1 p.2)
      exact ⟨regs, h⟩
  obtain ⟨tlb, hc⟩ := cached
  obtain ⟨regs, hr⟩ := raised (flagsPlaced old l) (s.cacheFills fills)
  obtain ⟨groups, ht⟩ := touchPlaces_eq ((s.cacheFills fills).raiseWindows (flagsPlaced old l)) l
  exact ⟨tlb, regs, groups, by rw [State.sawPlaces, ht, hr, hc]⟩

@[simp] theorem task_sawPlaces (s old : State) (fills : List TlbEntry) (l : List (Nat × Nat × W64)) (k : Nat) :
    (s.sawPlaces old fills l).task k = s.task k := by
  obtain ⟨_, _, _, h⟩ := sawPlaces_eq s old fills l
  rw [h]; rfl

@[simp] theorem mem_sawPlaces (s old : State) (fills : List TlbEntry) (l : List (Nat × Nat × W64)) :
    (s.sawPlaces old fills l).mem = s.mem := by
  obtain ⟨_, _, _, h⟩ := sawPlaces_eq s old fills l
  rw [h]

@[simp] theorem chip_sawPlaces (s old : State) (fills : List TlbEntry) (l : List (Nat × Nat × W64)) :
    (s.sawPlaces old fills l).chip = s.chip := by
  obtain ⟨_, _, _, h⟩ := sawPlaces_eq s old fills l
  rw [h]

@[simp] theorem task_touchPlaces (s : State) (l : List (Nat × Nat × W64)) (k : Nat) : (s.touchPlaces l).task k = s.task k := by
  obtain ⟨_, h⟩ := touchPlaces_eq s l
  rw [h]; rfl

@[simp] theorem mem_touchPlaces (s : State) (l : List (Nat × Nat × W64)) : (s.touchPlaces l).mem = s.mem := by
  obtain ⟨_, h⟩ := touchPlaces_eq s l
  rw [h]

-- The head of the queue (R134, R146). -------------------------------------------------------------------------------

/-- A task whose oldest array operation may end: no replay stops it, no operand waits for its ring, and its scales are known. -/
structure Heads (s : State) (core slot : Nat) (t : Task) (op : ArrayOp) (rest : List ArrayOp) : Prop where
  task     : s.task (taskKey core slot) = some t
  going    : t.arrayStop = none
  queue    : t.arrayQ = op :: rest
  unstuckA : op.a.stuck = false
  unstuckB : op.b.stuck = false
  scales   : scalesKnown t op = true

section
variable {s : State} {core slot : Nat} {t : Task} {op o : ArrayOp} {rest : List ArrayOp}

theorem nextOp_head (h : Heads s core slot t op rest) (force : List ArrayOp) :
    nextOp s core t force [] t.arrayQ = some (0, true) := by
  simp [h.queue, nextOp, h.unstuckA, h.unstuckB, h.scales]

/-- The state in which the oldest operation of a task takes effect: its operands have been read. -/
def State.headRead (s : State) (core : Nat) (t : Task) (op : ArrayOp) : State :=
  let places := opPlaces s (fetchCtx core t op) op
  s.sawPlaces (s.asBefore op) places.2 places.1

@[simp] theorem task_headRead (k : Nat) : (s.headRead core t op).task k = s.task k := task_sawPlaces ..
@[simp] theorem mem_headRead : (s.headRead core t op).mem = s.mem := mem_sawPlaces ..
@[simp] theorem chip_headRead : (s.headRead core t op).chip = s.chip := chip_sawPlaces ..

/-- The oldest operation of a task whose operands can be read finishes (R134). -/
theorem exec_finish_head (h : Heads s core slot t op rest) (fetched : opFetch s core t op = .ok o)
    (here : needPlaced s t.fetched (opPlaces s (fetchCtx core t op) op).1 = []) :
    exec (.arrayOperationFinish core slot) s = .next ((opStores (s.headRead core t op) core t o).updTask (taskKey core slot) fun u =>
      arrayEffect o { u with arrayQ := u.arrayQ.eraseIdx 0, fetched := [] }) := by
  have first : t.arrayQ[0]? = some op := by simp [h.queue]
  show Host.Outcome.next (s.arrayStep (arrayAsked s core slot) core slot) = _
  simp only [State.arrayStep, h.task, h.going, nextOp_head h, Option.bind_some, first, Option.map_some, fetched, here, ne_eq,
    not_true_eq_false, if_false, if_true]
  rfl

/-- An operation that stores nothing changes its task alone, once its operands have been read. -/
theorem exec_finish_sums (h : Heads s core slot t op rest) (fetched : opFetch s core t op = .ok o)
    (here : needPlaced s t.fetched (opPlaces s (fetchCtx core t op) op).1 = []) (noRows : ∀ f p rows, o.kind ≠ .wb f p rows) :
    exec (.arrayOperationFinish core slot) s = .next ((s.headRead core t op).setTask (taskKey core slot)
      (arrayEffect o { t with arrayQ := rest, fetched := [] })) := by
  have stores (x : State) : opStores x core t o = x := by
    unfold opStores; split
    · exact absurd ‹_› (noRows _ _ _)
    · rfl
  have task : (s.headRead core t op).task (taskKey core slot) = some t := (task_headRead ..).trans h.task
  rw [exec_finish_head h fetched here, stores, State.updTask_of_some _ task, h.queue]
  rfl

/-- The kinds of matrix operation: both operands are rows, and nothing is stored (R143). -/
def ArrayKind.matrix : ArrayKind → Bool
  | .mma _ | .sparse _ | .ternary | .scaled _ => true
  | _ => false

/-- A matrix operation fetches its two operands. -/
theorem opFetch_matrix {a b : Oper} (ha : operFetch s (s.asBefore op) (fetchCtx core t op) t.fetched op.a = .ok a)
    (hb : operFetch s (s.asBefore op) (fetchCtx core t op) t.fetched op.b = .ok b) (matrix : op.kind.matrix = true) :
    opFetch s core t op = .ok { op with a := a, b := b } := by
  simp only [opFetch, ha, hb]
  split
  case h_1 kind => rw [kind] at matrix; cases matrix
  case h_2 kind => rw [kind] at matrix; cases matrix
  case h_3 => rfl

/-- A matrix operation with its operands read leaves its sums and flags in its task. -/
theorem exec_finish_matrix {a b : Oper} (h : Heads s core slot t op rest) (matrix : op.kind.matrix = true)
    (here : needPlaced s t.fetched (opPlaces s (fetchCtx core t op) op).1 = [])
    (ha : operFetch s (s.asBefore op) (fetchCtx core t op) t.fetched op.a = .ok a)
    (hb : operFetch s (s.asBefore op) (fetchCtx core t op) t.fetched op.b = .ok b) :
    exec (.arrayOperationFinish core slot) s = .next ((s.headRead core t op).setTask (taskKey core slot)
      (arrayEffect { op with a := a, b := b } { t with arrayQ := rest, fetched := [] })) :=
  exec_finish_sums h (opFetch_matrix ha hb matrix) here fun f p rows kind => by
    rw [show op.kind = .wb f p rows from kind] at matrix; cases matrix

/-- A scaled operation whose scales are known: one of E2M1 issued by a slot is ten contract cycles old (R149). -/
theorem scalesKnown_scaled {f : XFmt} (kind : op.kind = .scaled f)
    (h : f ≠ .e2m1 ∨ op.follow = true ∨ op.cyc + 10 ≤ t.cycle) : scalesKnown t op = true := by
  rw [scalesKnown, kind]
  cases f
  case e2m1 => simpa using h
  all_goals rfl

/-- A contraction whose elements have been read fetches nothing more. -/
theorem opFetch_sctr {job : SctrJob} (kind : op.kind = .sctr job) (ready : job.ready = true) (ha : op.a = {}) (hb : op.b = {}) :
    opFetch s core t op = .ok op := by
  have unread : operFetch s (s.asBefore op) (fetchCtx core t op) t.fetched {} = .ok {} := rfl
  simp only [opFetch, ha, hb, unread, kind, sctrFetch, ready, if_true]
  cases op
  simp_all

/-- A write-back whose rows keep their places fetches nothing. -/
theorem opFetch_wb {f : WbFmt} {p : Option PruneKind} {rows : List (Nat × Nat)} (kind : op.kind = .wb f p rows) (again : op.again = false)
    (ha : op.a.data ≠ none) (hb : op.b = {}) : opFetch s core t op = .ok op := by
  obtain ⟨n, hn⟩ := Option.ne_none_iff_exists'.1 ha
  have first : operFetch s (s.asBefore op) (fetchCtx core t op) t.fetched op.a = .ok op.a := by simp [operFetch, hn]
  have second : operFetch s (s.asBefore op) (fetchCtx core t op) t.fetched op.b = .ok op.b := by rw [hb]; rfl
  simp only [opFetch, first, second, kind, again]

/-- The rows of an operand that have still to be read (R146). -/
def Oper.rowsLeft (o : Oper) : List (W64 × Nat) :=
  match o.src, o.data with
  | .handle va stride, none => rowPieces va stride o.len o.rows 0
  | _, _ => []

/-- The elements that a contraction has still to read (R176). -/
def ArrayKind.elemsLeft : ArrayKind → List (W64 × Nat)
  | .sctr job => if job.ready then [] else sctrPieces false job
  | _ => []

/-- The places of an operation are those of what it has still to read. -/
theorem opPlaces_left (s : State) (c : Ctx) (op : ArrayOp) :
    opPlaces s c op = placesOf s c (op.a.rowsLeft ++ op.b.rowsLeft ++ op.kind.elemsLeft) := rfl

theorem rowsLeft_read {o : Oper} (h : o.data ≠ none) : o.rowsLeft = [] := by
  unfold Oper.rowsLeft
  split
  · exact absurd ‹_› h
  · rfl

/-- An operation with nothing left to read needs no unit of an aperture. -/
theorem needPlaced_none {c : Ctx} (ha : op.a.rowsLeft = []) (hb : op.b.rowsLeft = []) (elems : op.kind.elemsLeft = []) :
    needPlaced s t.fetched (opPlaces s c op).1 = [] := by
  rw [opPlaces_left, ha, hb, elems]; rfl

end

-- Rows stored (R154). ---------------------------------------------------------------------------------------------

theorem mem_store (s : State) (w : Option Nat) (pa n v : Nat) : (s.store w pa n v).mem = memPut pa v n s.mem := by
  simp only [State.store]; split <;> rfl

theorem fences_store (s : State) (w : Option Nat) (pa n v : Nat) : (s.store w pa n v).chip.fences = s.chip.fences := by
  simp only [State.store]; split <;> rfl

/-- An entry of a map whose entries have been changed in place. -/
theorem mapGet_map {α : Type} {g : Nat × α → Nat × α} (key : ∀ e, (g e).1 = e.1) (k : Nat) (l : List (Nat × α)) :
    mapGet k (l.map g) = (mapGet k l).map fun v => (g (k, v)).2 := by
  induction l with
  | nil => rfl
  | cons e l ih =>
    obtain ⟨j, v⟩ := e
    by_cases hj : j = k
    · subst hj; simp [mapGet, key]
    · simp [mapGet, key, hj, ih]

/-- A store changes no more of a task than its hoisted loads (R92). -/
theorem mapGet_unhoist {k : Nat} {t : Task} {l : List (Nat × Task)} (w : Option Nat) (pa n : Nat) (h : mapGet k l = some t) :
    ∃ a, mapGet k (unhoist w pa n l) = some { t with atab := a } := by
  rw [unhoist, mapGet_map (fun e => by dsimp only; split <;> rfl), h, Option.map_some]
  dsimp only
  split <;> exact ⟨_, rfl⟩

theorem task_store {s : State} {k : Nat} {t : Task} (h : s.task k = some t) (w : Option Nat) (pa n v : Nat) :
    ∃ a, (s.store w pa n v).task k = some { t with atab := a } := by
  obtain ⟨a, ha⟩ := mapGet_unhoist w pa n h
  refine ⟨a, ?_⟩
  rw [← ha]
  simp only [State.store]; split <;> rfl

/-- Where a byte lies depends on no more of the state than the fenced pseudo-channels (R415). -/
theorem regionOf_congr {s y : State} (h : y.chip.fences = s.chip.fences) (pa : Nat) : regionOf y pa = regionOf s pa := by
  unfold regionOf usableSize; rw [h]

/-- Rows written in plain memory, one after the other. -/
def putRows (rows : List (Nat × Nat)) (m : List Host.Cell × Nat) : List Host.Cell × Nat :=
  rows.foldl (fun (m : List Host.Cell × Nat) r => (memPut r.1 (m.2 % 256 ^ r.2) r.2 m.1, m.2 / 256 ^ r.2)) m

/-- Pieces written in the device, a near store or a cluster store: their bytes in memory, and of a task no more changes than its
hoisted loads. -/
theorem writePieces_plain {k : Nat} {t : Task} (w : Option Nat) (src : Source) (rows : List (Nat × Nat)) (s : State) (v : Nat)
    (inside : ∀ r ∈ rows, regionOf s r.1 ≠ .host ∧ regionOf s r.1 ≠ .peer) (h : s.task k = some t) :
    (writePieces s w src rows v).mem = (putRows rows (s.mem, v)).1 ∧
      ∃ a, (writePieces s w src rows v).task k = some { t with atab := a } := by
  induction rows generalizing s t v with
  | nil => exact ⟨rfl, t.atab, h⟩
  | cons r rows ih =>
    obtain ⟨pa, n⟩ := r
    have stored : s.writeOut w src pa n (v % 256 ^ n) = s.store w pa n (v % 256 ^ n) := by
      obtain ⟨host, peer⟩ := inside (pa, n) (.head _)
      unfold State.writeOut
      split
      · exact absurd ‹_› host
      · exact absurd ‹_› peer
      · rfl
    obtain ⟨a, task⟩ := task_store h w pa n (v % 256 ^ n)
    obtain ⟨mem, b, task'⟩ := ih (s.store w pa n (v % 256 ^ n)) (v / 256 ^ n)
      (fun r hr => by rw [regionOf_congr (fences_store ..)]; exact inside r (.tail _ hr)) task
    rw [writePieces, stored]
    exact ⟨by rw [mem, mem_store]; rfl, b, task'⟩

/-- A range of plain memory begins in none of the apertures. -/
theorem Plain.inside {s : State} {pa n : Nat} (h : Plain s pa n) : regionOf s pa ≠ .host ∧ regionOf s pa ≠ .peer := by
  obtain ⟨pos, inside, -⟩ := h
  rcases inside 0 pos with h | h | h <;> rw [Nat.add_zero] at h <;> rw [h] <;> decide

/-- A write-back with nothing left to read that no later store of its bundle meets: its rows in memory, its flags in the ASW. -/
theorem exec_finish_wb {s : State} {core slot : Nat} {t : Task} {op : ArrayOp} {rest : List ArrayOp} {f : WbFmt} {p : Option PruneKind}
    {rows : List (Nat × Nat)} (h : Heads s core slot t op rest) (kind : op.kind = .wb f p rows) (again : op.again = false)
    (kept : op.kept = []) (ha : op.a.data ≠ none) (hb : op.b = {}) (plain : ∀ r ∈ rows, Plain s r.1 r.2) :
    let data := wbData f p (t.bank op.bank) (t.bank (op.bank + 1))
    ∃ y v, exec (.arrayOperationFinish core slot) s = .next y ∧ y.mem = (putRows rows (s.mem, data.1)).1 ∧
      y.task (taskKey core slot) = some v ∧ v.arrayQ = rest ∧ v.acc = t.acc ∧ v.asw = aswOr t.asw data.2 := by
  intro data
  have here : needPlaced s t.fetched (opPlaces s (fetchCtx core t op) op).1 = [] :=
    needPlaced_none (rowsLeft_read ha) (by rw [hb]; rfl) (by rw [kind]; rfl)
  have inside : ∀ r ∈ rows, regionOf (s.headRead core t op) r.1 ≠ .host ∧ regionOf (s.headRead core t op) r.1 ≠ .peer := fun r hr => by
    rw [regionOf_congr (congrArg Chip.fences chip_headRead)]; exact (plain r hr).inside
  obtain ⟨mem, a, task⟩ := writePieces_plain (some core) t.source rows (s.headRead core t op) data.1 inside ((task_headRead ..).trans h.task)
  have stores : opStores (s.headRead core t op) core t op =
      (writePieces (s.headRead core t op) (some core) t.source rows data.1).touchPlaces (rows.map fun r => (r.1, r.2, 0)) := by
    simp [opStores, kind, kept, writeAround, data]
  have task' : (opStores (s.headRead core t op) core t op).task (taskKey core slot) = some { t with atab := a } := by
    rw [stores, task_touchPlaces, task]
  refine ⟨_, arrayEffect op { t with atab := a, arrayQ := t.arrayQ.eraseIdx 0, fetched := [] },
    exec_finish_head h (opFetch_wb kind again ha hb) here, ?_, ?_⟩
  · rw [State.updTask_of_some _ task']
    show (opStores (s.headRead core t op) core t op).mem = _
    rw [stores, mem_touchPlaces, mem, mem_headRead]
  · rw [State.updTask_of_some _ task']
    refine ⟨State.task_setTask_self .., ?_⟩
    simp only [arrayEffect, kind, h.queue]
    exact ⟨rfl, rfl, rfl⟩

/-- Settles O29: a tile of integers by the elements that it packs, and each kind of operation by what it leaves of its task once the
head of the queue finishes. -/
theorem arrayFinishResults : Obligations.ArrayFinishResults := by
  unfold Obligations.ArrayFinishResults
  refine ⟨?_, ?_⟩
  · intro z a b acc i j hi hj
    rw [mmaTile_i8, mmaTile_n8]
    exact ⟨intTile_elem (toSigned 8) z a b acc hi hj, intTile_calm .., intTile_elem (fun x => (x : Int)) z a b acc hi hj, intTile_calm ..⟩
  · intro s core slot t op rest task going queue stuckA stuckB places fetched b0 b1 u after one two
    have heads : scalesKnown t op = true → Heads s core slot t op rest := fun scales => ⟨task, going, queue, stuckA, stuckB, scales⟩
    refine ⟨?_, ?_, ?_⟩
    · rintro x y here ⟨a, ha, dataA⟩ ⟨b, hb, dataB⟩
      have finish (scales : scalesKnown t op = true) (matrix : op.kind.matrix = true) :
          after (arrayEffect { op with a := a, b := b } u) :=
        exec_finish_matrix (heads scales) matrix here ha hb
      refine ⟨fun f kind wide => ?mma, fun kind => ?mma64, fun f kind => ?sparse, fun f kind known => ?scaled, fun kind => ?ternary⟩
      case scaled =>
        have := finish (scalesKnown_scaled kind known) (by rw [kind]; rfl)
        simp only [arrayEffect, kind, dataA, dataB] at this
        exact this
      all_goals
        have := finish (by rw [scalesKnown, kind]) (by rw [kind]; rfl)
        simp only [arrayEffect, kind, dataA, dataB] at this
        exact this
    · intro job kind ready ha hb r
      have := exec_finish_sums (heads (by simp [scalesKnown, kind])) (opFetch_sctr kind ready ha hb)
        (needPlaced_none (by rw [ha]; rfl) (by rw [hb]; rfl) (by simp [kind, ArrayKind.elemsLeft, ready])) (by simp [kind])
      simp only [arrayEffect, kind] at this
      exact ⟨fun single => by rw [if_neg single] at this; exact this, fun double => by rw [if_pos double] at this; exact this⟩
    · intro f p rows kind again kept ha hb plain
      exact exec_finish_wb (heads (by simp [scalesKnown, kind])) kind again kept ha hb plain

end Sys2Proof.Machine
end

section
/-! SUPPORT AND PROOF OF O12. Reductions and scans. -/

namespace Sys2Proof.Machine

-- The tree of an associative operation (R70, R72). -----------------------------------------------------------------

section
variable {α : Type} {op : α → α → α}

/-- A level of the tree joins neighbours, of which one may be absent. -/
theorem treeLevel_cons (a b : Option α) (l : List (Option α)) : treeLevel op (a :: b :: l) = a.merge op b :: treeLevel op l := by
  cases a <;> cases b <;> rfl

theorem length_treeLevel : ∀ l : List (Option α), (treeLevel op l).length = (l.length + 1) / 2
  | [] => by simp [treeLevel]
  | [_] => by simp [treeLevel]
  | a :: b :: l => by simp only [treeLevel_cons, List.length_cons, length_treeLevel l]; omega

/-- A level of the tree of an associative operation keeps what the leaves come to, taken in their order. -/
theorem foldl_treeLevel [Std.Associative op] :
    ∀ (l : List (Option α)) (x : Option α), (treeLevel op l).foldl (Option.merge op) x = l.foldl (Option.merge op) x
  | [], _ => rfl
  | [_], _ => rfl
  | a :: b :: l, x => by
    rw [treeLevel_cons, List.foldl_cons, foldl_treeLevel l, List.foldl_cons, List.foldl_cons,
      Std.Associative.assoc (op := Option.merge op)]

/-- The root of the tree of an associative operation: the leaves that are there, taken in their order. -/
theorem treeRoot_eq_foldl [Std.Associative op] {n : Nat} {l : List (Option α)} (h : l.length ≤ 2 ^ n) :
    treeRoot op n l = l.foldl (Option.merge op) none := by
  induction n generalizing l with
  | zero =>
    match l, h with
    | [], _ => rfl
    | [none], _ => rfl
    | [some _], _ => rfl
    | _ :: _ :: _, h => simp at h
  | succ n ih =>
    rw [treeRoot, ih (by rw [length_treeLevel, Nat.pow_succ] at *; omega), foldl_treeLevel]

/-- Absent leaves left out, with a value that is neutral for those that are there. -/
theorem foldl_merge_getD {e : α} {l : List (Option α)} (neutral : ∀ x, some x ∈ l → op e x = x) (x : Option α) :
    (l.foldl (Option.merge op) x).getD e = (l.filterMap id).foldl op (x.getD e) := by
  induction l generalizing x with
  | nil => rfl
  | cons y l ih =>
    have rest := fun x => ih (fun y hy => neutral y (.tail _ hy)) x
    rw [List.foldl_cons, rest]
    cases y with
    | none => cases x <;> rfl
    | some y =>
      cases x with
      | none => simp [Option.merge, neutral y (.head _)]
      | some x => rfl

end

/-- A reduction of numbers by an associative operation that raises no flag: the leaves that are there in their order, from a value that
is neutral for them, which is the result without any. -/
theorem treeOf_getD (f : Nat → Nat → Nat) [Std.Associative f] {e : Nat} {l : List (Option Nat)} (h : l.length ≤ 256)
    (neutral : ∀ x, some x ∈ l → f e x = x) :
    (treeOf (fun a b => (f a.1 b.1, 0)) l).getD (e, 0) = ((l.filterMap id).foldl f e, 0) := by
  have assoc : Std.Associative fun a b : Nat × BitVec 8 => (f a.1 b.1, (0 : BitVec 8)) :=
    ⟨fun a b c => by rw [Std.Associative.assoc (op := f)]⟩
  have calm (l : List (Option Nat)) : (l.map fun x => x.map fun v => (v, (0 : BitVec 8))).filterMap id =
      (l.filterMap id).map fun v => (v, 0) := by simp [List.filterMap_map, List.map_filterMap]
  have pairs (m : List Nat) (x : Nat) :
      (m.map fun v => (v, (0 : BitVec 8))).foldl (fun a b => (f a.1 b.1, 0)) (x, (0 : BitVec 8)) = (m.foldl f x, 0) := by
    induction m generalizing x with
    | nil => rfl
    | cons y m ih => exact ih _
  have neutralPair : ∀ x : Nat × BitVec 8, some x ∈ (l.map fun x => x.map fun v => (v, (0 : BitVec 8))) → (f e x.1, 0) = x := by
    intro x hx
    obtain ⟨y, hy, eq⟩ := List.mem_map.1 hx
    cases y with
    | none => cases eq
    | some v => cases eq; rw [neutral v hy]
  rw [treeOf, treeRoot_eq_foldl (by rw [List.length_map]; exact h), foldl_merge_getD neutralPair, calm, Option.getD_none]
  exact pairs _ _

/-- Integer sums wrap (R55, R72). -/
theorem foldl_add_mod (m : Nat) (l : List Nat) {c : Nat} (h : c < m) : l.foldl (fun a b => (a + b) % m) c = (c + l.sum) % m := by
  induction l generalizing c with
  | nil => simpa using (Nat.mod_eq_of_lt h).symm
  | cons x l ih =>
    rw [List.foldl_cons, ih (Nat.mod_lt _ (by omega)), List.sum_cons, Nat.mod_add_mod, Nat.add_assoc]

section
variable {w : ITy} {l : List (Option Nat)} (h : l.length ≤ 256) (fits : ∀ x, some x ∈ l → x < 256 ^ ityBytes w)
include h fits

theorem redSum_ity : redSum (ityVty w) l = ((l.filterMap id).sum % 256 ^ ityBytes w, 0) := by
  have width : 2 ^ (8 * vtyBytes (ityVty w)) = 256 ^ ityBytes w := by cases w <;> rfl
  have assoc : Std.Associative fun a b => (a + b) % 256 ^ ityBytes w :=
    ⟨fun a b c => by rw [Nat.mod_add_mod, Nat.add_mod_mod, Nat.add_assoc]⟩
  have int : vtyFmt (ityVty w) = none := by cases w <;> rfl
  simp only [redSum, int, width]
  rw [treeOf_getD (fun a b => (a + b) % 256 ^ ityBytes w) h fun x hx => by rw [Nat.zero_add, Nat.mod_eq_of_lt (fits x hx)],
    foldl_add_mod _ _ (Nat.pow_pos (by decide)), Nat.zero_add]

theorem redMinn_ity : redPickN false (8 * ityBytes w) l = ((l.filterMap id).foldl min (256 ^ ityBytes w - 1), 0) := by
  have width : 2 ^ (8 * ityBytes w) = 256 ^ ityBytes w := Nat.pow_mul 2 8 _
  have least : (fun a b : Nat × BitVec 8 => (if decide (a.1 ≤ b.1) != false then a.1 else b.1, (0 : BitVec 8))) =
      fun a b => (min a.1 b.1, 0) := by
    funext a b; simp [Nat.min_def]
  rw [redPickN, least, if_neg (by decide), width]
  exact treeOf_getD min h fun x hx => Nat.min_eq_right (Nat.le_sub_one_of_lt (fits x hx))

end

/-- The greatest of no number is 0. -/
theorem redMaxn_eq {n : Nat} {l : List (Option Nat)} (h : l.length ≤ 256) :
    redPickN true n l = ((l.filterMap id).foldl max 0, 0) := by
  have greatest : (fun a b : Nat × BitVec 8 => (if decide (a.1 ≤ b.1) != true then a.1 else b.1, (0 : BitVec 8))) =
      fun a b => (max a.1 b.1, 0) := by
    funext a b; by_cases below : a.1 ≤ b.1 <;> simp [Nat.max_def, below]
  rw [redPickN, greatest, if_pos rfl]
  exact treeOf_getD max h fun x _ => Nat.zero_max x

/-- A bitwise reduction. -/
theorem redBits_eq (f : Nat → Nat → Nat) [Std.Associative f] {e : Nat} {l : List (Option Nat)} (h : l.length ≤ 256)
    (neutral : ∀ x, some x ∈ l → f e x = x) : redBits f e l = ((l.filterMap id).foldl f e, 0) := treeOf_getD f h neutral

/-- All ones are neutral for numbers of that many bits. -/
theorem ones_and {w : ITy} {x : Nat} (h : x < 256 ^ ityBytes w) : (256 ^ ityBytes w - 1) &&& x = x := by
  rw [← show 2 ^ (8 * ityBytes w) = 256 ^ ityBytes w from Nat.pow_mul 2 8 _] at *
  rw [Nat.and_comm, Nat.and_two_pow_sub_one_eq_mod, Nat.mod_eq_of_lt h]

-- The slots (R104, R115). -----------------------------------------------------------------------------------------

section
variable {s : State} {t : Task} {st : Bool} {cls op : Nat} {d a : Code} {v : VTy} {p : BitVec 3} {f : Nat → State → Task → Staged}
  {red : List (Option Nat) → Nat × BitVec 8}

/-- A reduction leaves its result in element 0 and zeros above it. -/
theorem stageRed_results (hf : f s.cur s t = stageRed v p d a t red) (h : Alone s st t) (hd : DstV t d) (ha : SrcV t a) (hr : Room t [6]) :
    let r := red (leaves (t.kReg p.toNat) (vtyBytes v) (rdV t a v))
    finishSlot cls op st f s =
      .next (s.flagged t (toV d 6 (BitVec.allOnes 256) (BitVec.ofNat 2048 (r.1 % 256 ^ vtyBytes v))) r.2) := by
  intro r
  have := finishSlot_flagged (cls := cls) (op := op) (f := f) h (by simp [hf, stageRed, hd.ok, ha.ok]) (by simp [hf, stageRed])
    (by simp [hf, stageRed]) (by simp [hf, stageRed]) (by simp [hf, stageRed]) (by rw [hf]; exact wrV_eq (hd.ok 1) _ _ _) (room_toV hr)
  rw [this, hf]; rfl

/-- Elements computed alike are the same elements. -/
theorem lanes_congr {e n : Nat} {f g : Nat → Option (Nat × BitVec 8)} (h : ∀ i, i < n → f i = g i) : lanes e f n = lanes e g n := by
  induction n with
  | zero => rfl
  | succ n ih => rw [lanes, lanes, ih fun i hi => h i (by omega), h n (by omega)]

theorem elements_congr {lat e n : Nat} {k : Pred} {f g : Nat → Nat × BitVec 8} (h : ∀ i, i < n → f i = g i) :
    s.elements t d lat e n k f = s.elements t d lat e n k g := by
  have same := lanes_congr (e := e) (f := fun i => if k.getLsbD (i * e) then some (f i) else none)
    (g := fun i => if k.getLsbD (i * e) then some (g i) else none) fun i hi => by rw [h i hi]
  simp only [State.elements, State.computed, same]

/-- A scan leaves in each active element the reduction of the leaves up to it. -/
theorem stageScan_results (hf : f s.cur s t = stageScan v p d a t red) (h : Alone s st t) (hd : DstV t d) (ha : SrcV t a) (hr : Room t [6]) :
    finishSlot cls op st f s = .next (s.elements t d 6 (vtyBytes v) (256 / vtyBytes v) (t.kReg p.toNat) fun i =>
      red ((List.range (i + 1)).map fun j =>
        if active (t.kReg p.toNat) (vtyBytes v) j then some (elem (vtyBytes v) (rdV t a v) j) else none)) := by
  rw [stageLanes_elements hf h hd (ha.ok 2) hr]
  refine congrArg _ (elements_congr fun i hi => ?_)
  rw [leaves, ← List.map_take, List.take_range, Nat.min_eq_left (by omega)]

end

/-- Settles O12: the slots by what their stages come to, the integer reductions by `treeOf_getD`. -/
theorem vectorReductionResults : Obligations.VectorReductionResults := by
  unfold Obligations.VectorReductionResults
  refine ⟨?_, ?_⟩
  · intro s t st d a v w p h hd ha hr k tree scan
    have reduces {cls op v} {f : Nat → State → Task → Staged} {red} (hf : f s.cur s t = stageRed v p d a t red) :=
      stageRed_results (st := st) (cls := cls) (op := op) hf h hd ha hr
    have scans {cls op v} {f : Nat → State → Task → Staged} {red} (hf : f s.cur s t = stageScan v p d a t red) :=
      stageScan_results (st := st) (cls := cls) (op := op) hf h hd ha hr
    exact ⟨reduces rfl, reduces rfl, reduces rfl, reduces rfl, reduces rfl, reduces rfl, reduces rfl, reduces rfl, scans rfl, scans rfl,
      scans rfl⟩
  · intro w l present small long leaves act
    have length : leaves.length ≤ 256 := by simpa [leaves, long] using Nat.div_le_self 256 _
    have fits : ∀ x, some x ∈ leaves → x < 256 ^ ityBytes w := by
      intro x hx
      obtain ⟨q, hq, eq⟩ := List.mem_map.1 hx
      split at eq
      · cases eq; exact small _ (List.fst_mem_of_mem_zipIdx hq)
      · cases eq
    rw [redSum_ity length fits, redMinn_ity length fits, redMaxn_eq length, redBits_eq _ length fun x hx => ones_and (fits x hx),
      redBits_eq _ length fun x _ => Nat.zero_or x, redBits_eq _ length fun x _ => Nat.zero_xor x]
    exact ⟨rfl, rfl, rfl, rfl, rfl, rfl⟩

end Sys2Proof.Machine
end
